-- ==== Sys2Proof/Word.lean ====
section
/-! DEFINITION. The bit-vector types of the device's storage units (R5, R7, R62, R95, R115). -/
namespace Sys2Proof

/-- A byte. -/
abbrev Byte := BitVec 8
/-- An unqualified word is 64 bits (R7). -/
abbrev Word := BitVec 64
/-- A line of device memory, a vector register or a queue entry: 128 bytes, byte `i` in bits `[8i+7:8i]` (R7, R62, R113). -/
abbrev Line := BitVec 1024
/-- A byte mask of a line, bit `i` for byte `i` (R119). -/
abbrev Mask := BitVec 128
/-- One row of a tile register: 96 bytes (R15). -/
abbrev Row := BitVec 768

/-- The two host ports (R378). -/
inductive Port where
  | a
  | b
deriving DecidableEq, Repr, Inhabited

end Sys2Proof
end

