-- ==== Sys2Proof/Syntax.lean ====
section
/-! DEFINITION. The instructions and events of the device: one constructor of `Instr` for each row of the opcode table.

An INSTRUCTION is one 64-bit word (R206). Its constructor carries the record of its format (R209 to R216) with the raw
fields as the word holds them, `stall` included; fields a format marks reserved are ignored and not kept (R207).
An EVENT is a step of the device that no instruction word stands for (95_what_each_step_holds.md). Its constructor carries
what the step needs to be told: which core, tile, cluster, parcel or launch slot it concerns. A step that a host transaction
causes has no operand: it applies the transaction next in order at the ports, which the state holds (R379). -/
namespace Sys2Proof

/-- S, the register format (R209). -/
structure FmtS where
  stall : BitVec 3
  d : BitVec 6
  a : BitVec 6
  b : BitVec 6
  c : BitVec 6
  amod : BitVec 12
  lw : BitVec 3
  sub : BitVec 3
deriving DecidableEq, Repr, Inhabited

/-- I, the immediate format (R210). -/
structure FmtI where
  stall : BitVec 3
  d : BitVec 6
  a : BitVec 6
  sub : BitVec 8
  imm : BitVec 32
deriving DecidableEq, Repr, Inhabited

/-- B, the branch format (R211). -/
structure FmtB where
  stall : BitVec 3
  cond : BitVec 3
  a : BitVec 6
  b : BitVec 6
  offs : BitVec 32
deriving DecidableEq, Repr, Inhabited

/-- M, the memory format (R212). The tile transfers read bits [31:24] (`ord`, `sco`, `sz`, `sx`) as STRD. -/
structure FmtM where
  stall : BitVec 3
  d : BitVec 6
  a : BitVec 6
  b : BitVec 6
  sp : BitVec 2
  ord : BitVec 2
  sco : BitVec 2
  sz : BitVec 3
  sx : BitVec 1
  hf : BitVec 1
  hnd : BitVec 4
  disp : BitVec 19
deriving DecidableEq, Repr, Inhabited

/-- V, the vector format (R213). -/
structure FmtV where
  stall : BitVec 3
  d : BitVec 6
  a : BitVec 6
  b : BitVec 6
  c : BitVec 6
  amod : BitVec 12
  fmt : BitVec 4
  fmt2 : BitVec 4
  sub : BitVec 3
  sat : BitVec 1
deriving DecidableEq, Repr, Inhabited

/-- X, the matrix format (R214). -/
structure FmtX where
  stall : BitVec 3
  d : BitVec 6
  a : BitVec 6
  ta : BitVec 3
  tb : BitVec 3
  acc : BitVec 1
  imm8 : BitVec 8
  sub : BitVec 4
deriving DecidableEq, Repr, Inhabited

/-- K, the verdict format (R215). -/
structure FmtK where
  stall : BitVec 3
  d : BitVec 6
  a : BitVec 6
  mask : BitVec 8
  axis : BitVec 3
  mode : BitVec 2
  lr : BitVec 4
  rr : BitVec 4
  join : BitVec 5
  leaf : BitVec 4
  sub : BitVec 2
deriving DecidableEq, Repr, Inhabited

/-- E, the engine and parcel format (R216). -/
structure FmtE where
  stall : BitVec 3
  d : BitVec 6
  a : BitVec 6
  b : BitVec 6
  c : BitVec 6
  tag : BitVec 12
  core : BitVec 4
  sub : BitVec 4
  hnd : BitVec 4
  ic : BitVec 1
deriving DecidableEq, Repr, Inhabited

/-- A word of the hint region: `op` is OP[3:0] (R219). -/
structure FmtHint where
  stall : BitVec 3
  op : BitVec 4
deriving DecidableEq, Repr, Inhabited

/-- A word whose opcode is unassigned (R218). -/
structure FmtRaw where
  stall : BitVec 3
  op : BitVec 9
deriving DecidableEq, Repr, Inhabited

/-- A pool header word (R88). -/
structure FmtPool where
  params : BitVec 1
  count : BitVec 32
deriving DecidableEq, Repr, Inhabited

/-- A transaction of a host port: a read of `size` bytes, or a write of the bytes given (R378). -/
structure HostTx where
  port : Port
  addr : Nat
  size : Nat
  data : Option (List Byte)
  from_ : Nat := 0       -- the first cycle of the mesh clock in which it may be applied, from its arrival on (R379)
deriving DecidableEq, Repr, Inhabited

/-- How far a restored region is shifted, in columns and rows (R346). -/
structure Shift where
  dx : Int
  dy : Int
deriving DecidableEq, Repr, Inhabited

/-- A patrol scrub of one stack, and the addresses of the lines in which it corrected an error (R404). -/
structure Scrub where
  stack : Nat
  corrected : List Nat
deriving DecidableEq, Repr, Inhabited

/-- What the board presents to a boot: the serial flash (none when unreadable), whether the stacks trained and whether the
population is the supported one (R399). -/
structure BootInput where
  flash : Option (List Byte)
  trained : Bool
  populated : Bool
deriving DecidableEq, Repr, Inhabited

/-- What a partner package sends for one step of an xred.peer tree: the peer port, its IDENT, and the partner's values (R397). -/
structure PeerInput where
  part : Nat
  comm : Nat
  step : Nat
  port : Nat
  ident : Word
  values : List Word
deriving DecidableEq, Repr, Inhabited

/-- The instructions and events of the device, in the order of the opcode table. -/
inductive Instr where
  /-- NOP (R230): Does nothing beyond applying its stall count. -/
  | nop (f : FmtS)
  /-- HINT (R219): An opcode in 0x1F0-0x1FF executes as a nop with its STALL field applied. -/
  | hint (f : FmtHint)
  /-- BR (R227): Conditional branch with two delay slots, taken when the condition holds for a and b. -/
  | br (f : FmtB)
  /-- JMP (R227): Unconditional PC-relative branch with two delay slots. -/
  | jmp (f : FmtB)
  /-- JMPR (R227): Branch to a register target with bits [2:0] cleared, with two delay slots. -/
  | jmpr (f : FmtB)
  /-- CALL (R227): PC-relative branch that writes pc + 24 to the link register, with two delay slots. -/
  | call (f : FmtB)
  /-- RET (R227): Branch to the address held in the return register, with two delay slots. -/
  | ret (f : FmtB)
  /-- REP (R229): Opens a hardware loop over the next n instructions, setting LS, LE and LC. -/
  | rep (f : FmtI)
  /-- END (R231): Ends the task: releases its held sets, makes the dev-scope release and frees the frame. -/
  | endTask (f : FmtS)
  /-- FMT (R233): Loads PFX and sets STATUS.PP for the next instruction issued. -/
  | fmt (f : FmtI)
  /-- TRAP (R232): Parks the task with TRAP, carrying code n, with the PC kept after the instruction. -/
  | trapOp (f : FmtI)
  /-- BRK (R232): Parks the task with BREAKPOINT, with the PC kept after the instruction. -/
  | brk (f : FmtS)
  /-- CSRR (R234): Reads a user control register; for STATUS it first waits for every flag-setting instruction and pass. -/
  | csrr (f : FmtI)
  /-- CSRW (R234): Writes a control register under its access rules, including STATUS, SEED and, at privileged level, LSTEER. -/
  | csrw (f : FmtI)
  /-- TIME (R235): Writes the device time base as it stands at issue. -/
  | timeOp (f : FmtS)
  /-- RESUME (R236): Marks a parked task of this core and launch as resumed. -/
  | resume (f : FmtS)
  /-- ABANDON (R236): Ends a parked task as end does and discards its held-back bytes; a rule task's box is pruned. -/
  | abandon (f : FmtS)
  /-- WPSET (R331): Privileged: sets WP to a frame base of this core. -/
  | wpset (f : FmtS)
  /-- ERET (R331): Privileged: resumes a parked task of any launch and ends the system task. -/
  | eret (f : FmtS)
  /-- BMAPW (R332): Privileged: writes a bank-map entry, releasing or moving and attaching a set. -/
  | bmapw (f : FmtS)
  /-- CTXSAVE (R331): Privileged: writes a parked task's record and removes the task from its core. -/
  | ctxsave (f : FmtS)
  /-- CTXLOAD (R331): Privileged: recreates a parked task from a task record. -/
  | ctxload (f : FmtS)
  /-- UNFSAVE (R331): Privileged: writes and forgets a stopped launch slot's box records held by the spur engine. -/
  | unfsave (f : FmtS)
  /-- UNFLOAD (R331): Privileged: reads box records into the spur engine for a launch slot. -/
  | unfload (f : FmtS)
  /-- HALT (R331): Privileged: ends the system task and idles the core until a system parcel arrives. -/
  | halt (f : FmtS)
  /-- ADD (R238): Register-form lane-wise addition. -/
  | add (f : FmtS)
  /-- SUB (R238): Register-form lane-wise subtraction. -/
  | sub (f : FmtS)
  /-- MUL (R238): Register-form lane-wise multiply, giving the low w bits. -/
  | mul (f : FmtS)
  /-- MULH (R238): Register-form high half of the signed product. -/
  | mulh (f : FmtS)
  /-- MULHU (R238): Register-form high half of the unsigned product. -/
  | mulhu (f : FmtS)
  /-- DIV (R239): Register-form signed division, truncating, with no trap. -/
  | divOp (f : FmtS)
  /-- DIVU (R239): Register-form unsigned division. -/
  | divu (f : FmtS)
  /-- REM (R239): Register-form signed remainder. -/
  | remOp (f : FmtS)
  /-- REMU (R239): Register-form unsigned remainder. -/
  | remu (f : FmtS)
  /-- AND (R238): Register-form bitwise and. -/
  | andOp (f : FmtS)
  /-- OR (R238): Register-form bitwise or. -/
  | orOp (f : FmtS)
  /-- XOR (R238): Register-form bitwise xor. -/
  | xorOp (f : FmtS)
  /-- ANDN (R238): Register-form a and not b. -/
  | andn (f : FmtS)
  /-- SHL (R238): Register-form lane-wise shift left. -/
  | shl (f : FmtS)
  /-- SHR (R238): Register-form lane-wise logical shift right. -/
  | shr (f : FmtS)
  /-- SAR (R238): Register-form lane-wise arithmetic shift right. -/
  | sar (f : FmtS)
  /-- ROT (R238): Register-form lane-wise rotate towards the most significant bit. -/
  | rot (f : FmtS)
  /-- MIN (R238): Register-form signed minimum. -/
  | minOp (f : FmtS)
  /-- MAX (R238): Register-form signed maximum. -/
  | maxOp (f : FmtS)
  /-- MINU (R238): Register-form unsigned minimum. -/
  | minu (f : FmtS)
  /-- MAXU (R238): Register-form unsigned maximum. -/
  | maxu (f : FmtS)
  /-- SET (R238): Register-form lane-wise compare, writing 1 or 0. -/
  | setOp (f : FmtS)
  /-- SEL (R238): Register-form lane-wise select of b or c by a. -/
  | sel (f : FmtS)
  /-- CLZ (R238): Register-form count of leading zeros. -/
  | clz (f : FmtS)
  /-- CTZ (R238): Register-form count of trailing zeros. -/
  | ctz (f : FmtS)
  /-- POPC (R238): Register-form population count. -/
  | popc (f : FmtS)
  /-- BFX (R240): Register-form bit-field extract. -/
  | bfx (f : FmtS)
  /-- BFI (R240): Register-form bit-field insert. -/
  | bfi (f : FmtS)
  /-- ADD_IMM (R241): Immediate-form addition. -/
  | addImm (f : FmtI)
  /-- SUB_IMM (R241): Immediate-form subtraction. -/
  | subImm (f : FmtI)
  /-- MUL_IMM (R241): Immediate-form multiply. -/
  | mulImm (f : FmtI)
  /-- MULH_IMM (R241): Immediate-form signed high product. -/
  | mulhImm (f : FmtI)
  /-- MULHU_IMM (R241): Immediate-form unsigned high product. -/
  | mulhuImm (f : FmtI)
  /-- DIV_IMM (R241): Immediate-form signed division. -/
  | divImm (f : FmtI)
  /-- DIVU_IMM (R241): Immediate-form unsigned division. -/
  | divuImm (f : FmtI)
  /-- REM_IMM (R241): Immediate-form signed remainder. -/
  | remImm (f : FmtI)
  /-- REMU_IMM (R241): Immediate-form unsigned remainder. -/
  | remuImm (f : FmtI)
  /-- AND_IMM (R241): Immediate-form bitwise and. -/
  | andImm (f : FmtI)
  /-- OR_IMM (R241): Immediate-form bitwise or. -/
  | orImm (f : FmtI)
  /-- XOR_IMM (R241): Immediate-form bitwise xor. -/
  | xorImm (f : FmtI)
  /-- ANDN_IMM (R241): Immediate-form a and not b. -/
  | andnImm (f : FmtI)
  /-- SHL_IMM (R241): Immediate-form shift left. -/
  | shlImm (f : FmtI)
  /-- SHR_IMM (R241): Immediate-form logical shift right. -/
  | shrImm (f : FmtI)
  /-- SAR_IMM (R241): Immediate-form arithmetic shift right. -/
  | sarImm (f : FmtI)
  /-- ROT_IMM (R241): Immediate-form rotate. -/
  | rotImm (f : FmtI)
  /-- MIN_IMM (R241): Immediate-form signed minimum. -/
  | minImm (f : FmtI)
  /-- MAX_IMM (R241): Immediate-form signed maximum. -/
  | maxImm (f : FmtI)
  /-- MINU_IMM (R241): Immediate-form unsigned minimum. -/
  | minuImm (f : FmtI)
  /-- MAXU_IMM (R241): Immediate-form unsigned maximum. -/
  | maxuImm (f : FmtI)
  /-- SET_IMM (R241): Immediate-form compare. -/
  | setImm (f : FmtI)
  /-- SEL_IMM (R241): Immediate-form select, with c taken from the old destination. -/
  | selImm (f : FmtI)
  /-- CLZ_IMM (R241): Immediate-form count of leading zeros of the immediate. -/
  | clzImm (f : FmtI)
  /-- CTZ_IMM (R241): Immediate-form count of trailing zeros of the immediate. -/
  | ctzImm (f : FmtI)
  /-- POPC_IMM (R241): Immediate-form population count of the immediate. -/
  | popcImm (f : FmtI)
  /-- BFX_IMM (R241): Immediate-form bit-field extract. -/
  | bfxImm (f : FmtI)
  /-- BFI_IMM (R241): Immediate-form bit-field insert into the old destination. -/
  | bfiImm (f : FmtI)
  /-- MOVI (R242): Writes the sign-extended 32-bit immediate. -/
  | movi (f : FmtI)
  /-- MOVHI (R242): Writes the immediate to bits [63:32], keeping the low half. -/
  | movhi (f : FmtI)
  /-- LIT (R242): Reads a PC-relative pool word through the code path. -/
  | lit (f : FmtI)
  /-- BOXR (R244): Reads an origin or extent from the spur engine's copy of the box. -/
  | boxr (f : FmtK)
  /-- BOXN (R248): Narrows an extent of a rule task's box and sets NARROWED. -/
  | boxn (f : FmtK)
  /-- PATH (R245): Reads the box name or the path mode bits. -/
  | pathOp (f : FmtK)
  /-- SPLIT (R250): Verdict that cuts the box along an axis in a mode, or refuses, and ends the rule task. -/
  | splitOp (f : FmtK)
  /-- SPLITF (R251): Fit-driven verdict: makes a leaf if the footprint fits, otherwise cuts the widest axis or refuses. -/
  | splitf (f : FmtK)
  /-- PRUNE (R252): Verdict that drops the box. -/
  | prune (f : FmtK)
  /-- LEAF (R253): Verdict that makes the box a leaf, reserving sets or joining the wait list. -/
  | leafOp (f : FmtK)
  /-- FITQ (R246): Returns the sets a leaf needs and the cluster's free and waiting counts, without reserving. -/
  | fitq (f : FmtK)
  /-- RULEQ (R247): Returns a rule-table entry. -/
  | ruleq (f : FmtK)
  /-- LD (R258): Weak load of 1-8 bytes from device memory, scratchpad or core store. -/
  | ld (f : FmtM)
  /-- ST (R258): Weak store of 1-8 bytes to any space. -/
  | st (f : FmtM)
  /-- LDS (R259): Strong device load, optionally an acquire. -/
  | lds (f : FmtM)
  /-- STS (R259): Strong device store, optionally a release that replaces the line's release record. -/
  | sts (f : FmtM)
  /-- LDQ (R261): Reserves a load-queue entry and fills it with 128 bytes. -/
  | ldq (f : FmtM)
  /-- STQ (R261): Pops a store-queue entry and writes its 128 bytes. -/
  | stq (f : FmtM)
  /-- GATHER (R260): Reads indexed elements into a 128-byte core-store block. -/
  | gather (f : FmtM)
  /-- SCATTER (R260): Writes a 128-byte core-store block to indexed elements. -/
  | scatter (f : FmtM)
  /-- PREF (R262): Requests a line into the L1 as a weak read, dropped silently on a failing check. -/
  | pref (f : FmtM)
  /-- FLUSH (R262): Writes a line's dirty bytes back to its home slice, keeping it valid. -/
  | flush (f : FmtM)
  /-- INVAL (R262): Writes back a line's dirty bytes and drops it from the L1. -/
  | inval (f : FmtM)
  /-- FENCE (R263): Performs an acq, rel, ar or sc fence at a scope. -/
  | fence (f : FmtM)
  /-- AADD (R264): Atomic add at the home slice. -/
  | aadd (f : FmtM)
  /-- AMIN (R264): Atomic signed minimum. -/
  | amin (f : FmtM)
  /-- AMAX (R264): Atomic signed maximum. -/
  | amax (f : FmtM)
  /-- AAND (R264): Atomic and. -/
  | aand (f : FmtM)
  /-- AOR (R264): Atomic or. -/
  | aor (f : FmtM)
  /-- AXOR (R264): Atomic xor. -/
  | axor (f : FmtM)
  /-- AXCHG (R264): Atomic exchange. -/
  | axchg (f : FmtM)
  /-- ACAS (R264): Atomic compare and swap. -/
  | acas (f : FmtM)
  /-- AADDN (R266): Posted 64-bit atomic add with release that notifies a handler when the new value equals the compare value. -/
  | aaddn (f : FmtE)
  /-- POSTED_ATOMIC (R265): A posted atomic or aaddn is performed at its home slice, possibly raising PAGE or MMX at the fault handler. -/
  | postedAtomic (n : Nat)
  /-- GIVE (R108): Drains the giver's accesses to a set before handing it to another core of the cluster. -/
  | give (f : FmtE)
  /-- DETACH (R108): After the drain ends, the set is detached, the target is checked, and the set attaches pending with the parcel sent. -/
  | detach (c : Nat)
  /-- GIVE_RES (R106): Makes a held set resident for the launch. -/
  | giveRes (f : FmtE)
  /-- GIVE_REL (R106): Releases a held or resident set at once. -/
  | giveRel (f : FmtE)
  /-- BMAPR (R268): Reads a bank-map register. -/
  | bmapr (f : FmtS)
  /-- TLOAD (R269): Fills a tile register from a set by rows. -/
  | tload (f : FmtM)
  /-- TSTORE (R269): Writes a tile register to a set by rows. -/
  | tstore (f : FmtM)
  /-- TSTORE_COL (R269): Writes a tile register to a set by columns. -/
  | tstoreCol (f : FmtM)
  /-- SEMS (R270): Adds one to a tile semaphore after the core's earlier tile instructions finish. -/
  | sems (f : FmtE)
  /-- SEMW (R270): Waits for a tile semaphore to be non-zero and takes one. -/
  | semw (f : FmtE)
  /-- QSTAT (R271): Reads queue, channel, discard, semaphore or receive status. -/
  | qstat (f : FmtE)
  /-- CTRWAIT (R273): Waits until a counter reaches a value, then makes a dev-scope acquire. -/
  | ctrwait (f : FmtE)
  /-- CTRTRIG (R273): Arms a one-shot trigger on a counter. -/
  | ctrtrig (f : FmtE)
  /-- ARRIVE (R273): Makes a release and adds a value to a counter. -/
  | arrive (f : FmtE)
  /-- SEND (R274): Sends a handler parcel after a dev-scope release. -/
  | send (f : FmtE)
  /-- SENDC (R274): Sends a carried-code parcel. -/
  | sendc (f : FmtE)
  /-- SENDT (R274): Sends a tagged-data parcel. -/
  | sendt (f : FmtE)
  /-- REPLY (R274): Sends tagged data to the core of the task's PARENT. -/
  | reply (f : FmtE)
  /-- RECVP (R275): Posts a receive, or consumes a matching parcel from the overflow queue. -/
  | recvp (f : FmtE)
  /-- RECVX (R276): Waits for and takes a tagged-data parcel into registers. -/
  | recvx (f : FmtE)
  /-- TAGSET (R277): Writes EN and the software pend of a tag entry, releasing held parcels. -/
  | tagset (f : FmtE)
  /-- TAGR (R277): Reads a tag-table entry. -/
  | tagr (f : FmtE)
  /-- GRPSET (R278): Installs a group from a descriptor with a new generation. -/
  | grpset (f : FmtE)
  /-- GRPFREE (R278): Frees a group. -/
  | grpfree (f : FmtE)
  /-- GROUP_BUSY (R172): grpset or grpfree has stalled 65,536 cycles on a non-zero drain count and raises GROUP_BUSY. -/
  | groupBusy (c : Nat)
  /-- MCAST (R278): Sends a handler parcel to every group member in member order. -/
  | mcast (f : FmtE)
  /-- WRQ (R279): Writes a range to device memory, then increments a counter and sends a notification. -/
  | wrq (f : FmtE)
  /-- XCOPY (R280): Issues a copy command to a cluster copy engine. -/
  | xcopy (f : FmtE)
  /-- XCOMPACT (R280): Issues a compaction command to a copy engine. -/
  | xcompact (f : FmtE)
  /-- XFILL (R280): Issues a fill command to a copy engine. -/
  | xfill (f : FmtE)
  /-- XRED (R280): Issues a reduction contribution to a group, optionally with .all or .peer. -/
  | xred (f : FmtE)
  /-- XSTAT (R283): Reads counts of unjoined and unfinished engine operations. -/
  | xstat (f : FmtE)
  /-- COPY_OPERATION (R165): The engine runs a copy: it checks the descriptor, writes the elements and status, and increments the counter. -/
  | copyOperation (e : Nat)
  /-- COMPACT_OPERATION (R167): The engine writes the surviving records, indices and count densely, then increments the counter. -/
  | compactOperation (e : Nat)
  /-- FILL_OPERATION (R281): The engine writes pad values to every destination element. -/
  | fillOperation (e : Nat)
  /-- REDUCE_OPERATION (R174): The root engine folds the group's contributions in cluster order and writes or multicasts the result. -/
  | reduceOperation (n : Nat)
  /-- VADD (R291): Element-wise addition. -/
  | vadd (f : FmtV)
  /-- VSUB (R291): Element-wise subtraction. -/
  | vsub (f : FmtV)
  /-- VMUL (R291): Element-wise multiplication. -/
  | vmul (f : FmtV)
  /-- VFMA (R291): Fused multiply-add rounded once. -/
  | vfma (f : FmtV)
  /-- VFMS (R291): Fused multiply-subtract rounded once. -/
  | vfms (f : FmtV)
  /-- VDIV (R291): Element-wise division. -/
  | vdiv (f : FmtV)
  /-- VSQRT (R291): Element-wise square root. -/
  | vsqrt (f : FmtV)
  /-- VRCP (R291): Correctly rounded reciprocal. -/
  | vrcp (f : FmtV)
  /-- VRSQ (R291): Correctly rounded reciprocal square root. -/
  | vrsq (f : FmtV)
  /-- VEXP2 (R291): Correctly rounded power of two. -/
  | vexp2 (f : FmtV)
  /-- VLOG2 (R291): Correctly rounded base-2 logarithm. -/
  | vlog2 (f : FmtV)
  /-- VMIN (R293): Element-wise minimum. -/
  | vmin (f : FmtV)
  /-- VMAX (R293): Element-wise maximum. -/
  | vmax (f : FmtV)
  /-- VABS (R293): Element-wise absolute value. -/
  | vabs (f : FmtV)
  /-- VNEG (R293): Element-wise negation. -/
  | vneg (f : FmtV)
  /-- VCMP (R295): Element-wise comparison giving all-ones or zero. -/
  | vcmp (f : FmtV)
  /-- VSEL (R296): Element-wise select by the bits of a mask. -/
  | vsel (f : FmtV)
  /-- VAND (R296): Bitwise and of vectors. -/
  | vand (f : FmtV)
  /-- VOR (R296): Bitwise or of vectors. -/
  | vor (f : FmtV)
  /-- VXOR (R296): Bitwise xor of vectors. -/
  | vxor (f : FmtV)
  /-- VSHL (R296): Element-wise shift left. -/
  | vshl (f : FmtV)
  /-- VSHR (R296): Element-wise logical shift right. -/
  | vshr (f : FmtV)
  /-- VSAR (R296): Element-wise arithmetic shift right. -/
  | vsar (f : FmtV)
  /-- VCVT (R297): Converts one part of the elements between formats, widening or narrowing. -/
  | vcvt (f : FmtV)
  /-- VRED (R299): Reduces all elements to element 0, rounded once. -/
  | vred (f : FmtV)
  /-- VSCAN (R299): Writes every prefix reduction, each rounded once. -/
  | vscan (f : FmtV)
  /-- VTOPK (R300): Ranks keys with payloads and keeps the best half. -/
  | vtopk (f : FmtV)
  /-- VIDX (R301): Writes a + i to each element. -/
  | vidx (f : FmtV)
  /-- VMOV (R301): Copies a modified vector. -/
  | vmov (f : FmtV)
  /-- VBCAST (R301): Broadcasts a scalar to every element. -/
  | vbcast (f : FmtV)
  /-- VINS (R301): Inserts a scalar into one element. -/
  | vins (f : FmtV)
  /-- VEXT (R301): Extracts one element to a scalar register. -/
  | vext (f : FmtV)
  /-- TSHAPE (R302): Writes a tile register's shape register. -/
  | tshape (f : FmtX)
  /-- TZERO (R302): Clears a tile register's data. -/
  | tzero (f : FmtX)
  /-- MMA (R303): Issues a matrix pass into the unit's waiting place under the pending prefix. -/
  | mma (f : FmtX)
  /-- PASS_START (R304): A waiting pass starts once the running pass leaves and scales are ready, taking its operands in one step. -/
  | passStart (t : Nat)
  /-- PASS_DELIVER (R304): A pass's results enter its accumulator 100 cycles after it starts. -/
  | passDeliver (t : Nat)
  /-- ACCZERO (R305): Clears an accumulator after earlier passes deliver. -/
  | acczero (f : FmtX)
  /-- ACCRD (R305): Reads an accumulator half-row. -/
  | accrd (f : FmtX)
  /-- ACCWR (R305): Writes an accumulator half-row. -/
  | accwr (f : FmtX)
  /-- ACCEPI (R306): Scales and converts an accumulator half-row under the prefix. -/
  | accepi (f : FmtX)
  /-- SCLWAIT (R307): Waits for a scale epoch to be ready or superseded, then returns SST. -/
  | sclwait (f : FmtX)
  /-- SCLSEND (R309): Sends scale parcels to a tile or a group. -/
  | sclsend (f : FmtE)
  /-- TASK_START (R69): A free core starts the next queued or resumed task, with the dev-scope acquire and the start state. -/
  | taskStart (c : Nat)
  /-- LEAF_STEAL (R74): An idle A-core takes an unstarted unbound leaf from another A-core of its cluster. -/
  | leafSteal (c : Nat)
  /-- TASK_OVERRUN (R72): A task's budget reaches zero and it takes TASK_OVERRUN at the next instruction boundary. -/
  | taskOverrun (c : Nat)
  /-- PARK_TIMEOUT (R368): A task parked beyond the partition's park limit aborts its launch. -/
  | parkTimeout (c : Nat) (h : BitVec 32)
  /-- HANDLER_PARCEL (R153): An arriving handler parcel is checked and queued as a task, held at a disabled tag, or dropped. -/
  | handlerParcel (n : Nat)
  /-- CARRIED_CODE_PARCEL (R156): An arriving carried-code parcel starts a frame-7 task running its payload. -/
  | carriedCodeParcel (n : Nat)
  /-- TAGGED_DATA_PARCEL (R157): An arriving tagged-data parcel at an A- or C-core matches a posted receive, goes to a waiting recvx, enters the overflow queue, or is dropped. -/
  | taggedDataParcel (n : Nat)
  /-- CHANNEL_PARCEL (R161): A tagged-data parcel at an X-core appends its payload to a channel when there is room. -/
  | channelParcel (n : Nat)
  /-- SCALE_PARCEL (R141): A scale parcel applies its entries to a side-buffer by epoch, or is discarded. -/
  | scaleParcel (n : Nat)
  /-- SYSTEM_PARCEL (R329): A system parcel starts a privileged system task at SYSENT in frame 7. -/
  | systemParcel (n : Nat)
  /-- FAULT_PARCEL (R367): An asynchronous fault record starts a fault task on the issuing core between tasks. -/
  | faultParcel (n : Nat)
  /-- LAUNCH_PARCEL (R335): The dispatcher accepts a launch parcel and appends the header address to the queue ring. -/
  | launchParcel (n : Nat)
  /-- QUEUE_SUBMIT (R335): A reported atomic on a queue's RTAIL submits launches, or reports QUEUE_OVERRUN. -/
  | queueSubmit (n : Nat)
  /-- ADMISSION (R26): A launch at its queue head with a free slot is checked and becomes Waiting or Done. -/
  | admission (p q : Nat)
  /-- REGION_TAKE (R337): A Waiting launch takes its free region, attaches bellwether sets and starts its root, or displaces holders. -/
  | regionTake (k : Nat)
  /-- SLICE_END (R338): A launch's time slice expires, and it is displaced or given a new slice. -/
  | sliceEnd (k : Nat)
  /-- QUIESCENCE (R340): A draining launch becomes quiescent, and system parcels start the save on each region cluster. -/
  | quiescence (k : Nat)
  /-- SAVE_COMPLETE (R337): Every region cluster has written its area, and the launch is Saved with its region freed. -/
  | saveComplete (k : Nat)
  /-- RESTORE (R348): A chosen saved launch has sets, tiles, tasks, core state and boxes restored, then runs. -/
  | restore (k : Nat) (shift : Shift)
  /-- BOX_RELOAD (R53): Spilled boxes are reloaded in order when the spur engine has room. -/
  | boxReload (k cl : Nat)
  /-- BOX_RETIRE (R47): A box whose tasks, children and joins are done retires, queuing a join or a SEQ right child. -/
  | boxRetire (k : Nat) (name : Word)
  /-- REPLAY_START (R410): After a digest mismatch and the first run closed, the launch is re-admitted as a serialised replay. -/
  | replayStart (k : Nat)
  /-- RECORD_DEFERRED_WRITE (R178): A completion record waiting on a full ring is written once the host frees room. -/
  | recordDeferredWrite (n : Nat)
  /-- FAULT_RING_WRITE (R391): A record waiting for a full fault or debug ring is written once room is freed. -/
  | faultRingWrite (p : Nat) (dbg : Bool)
  /-- RING_INTERRUPT_TIMER (R178): An unsignalled record reaches TIMETHR ns old and the ring's interrupt is raised. -/
  | ringInterruptTimer (n : Nat)
  /-- SET_FREE (R105): A released set finishes clearing, becomes free, and serves the leaf wait list in order. -/
  | setFree (cl set : Nat)
  /-- COALESCE_REPLY (R122): When the coalescing window closes or the memory data arrives, one multicast reply answers the coalesced reads. -/
  | coalesceReply (cl line : Nat)
  /-- XINV_COMMAND (R360): The invalidation sequencer drops translations, restarts walks and writes back lines in a range, then replies. -/
  | xinvCommand (p : Nat)
  /-- PATROL_SCRUB (R404): The scrubber reads the stack's lines and writes back those it corrected. -/
  | patrolScrub (scrub : Scrub)
  /-- FLIT_REPLAY (R403): A flit received with a CRC error is replayed from the sender. -/
  | flitReplay (link : Nat)
  /-- WEAR_UPDATE (R415): Each island's wear monitor updates its prediction hourly. -/
  | wearUpdate (island : Nat) (drift : BitVec 16) (hours : Nat)
  /-- THERMAL_THROTTLE (R414): Each millisecond a hot island drops one point, or a cooled island climbs back. -/
  | thermalThrottle (island : Nat) (temp : BitVec 16)
  /-- THERMAL_TRIP (R414): At 110 °C every island of the die stops and the recorder rings freeze. -/
  | thermalTrip (island : Nat) (temp : BitVec 16)
  /-- POINT_CHANGE_DONE (R414): An island's change of operating point completes and its clocks resume. -/
  | pointChangeDone (island : Nat)
  /-- COLD_RESET (R399): Power-on reset trains ports, loads and verifies the image, trains stacks, creates partition 0 and starts firmware, or enters recovery. -/
  | coldReset (boot : BootInput)
  /-- WARM_RESET (R402): A BOOTCTL.WARM write stops everything, clears partitions, slots and semaphores, and reruns boot steps 3-8. -/
  | warmReset (boot : BootInput)
  /-- GO (R399): A BOOTCTL.GO write in recovery restarts boot at step 3 from the boot window. -/
  | goOp (boot : BootInput)
  /-- LINK_DOWN (R383): A port's link leaves the active state and the semaphores it holds are released. -/
  | linkDown (link : Nat)
  /-- SEMAPHORE_ACQUIRE (R383): An 8-byte host read of a semaphore acquires it if free and returns the word. -/
  | semaphoreAcquire (n : Nat) (a b : Bool)
  /-- PARTITION_READY (R393): Preparation of a new partition's clusters ends and PCTL.V reads one. -/
  | partitionReady (p : Nat)
  /-- UNASSIGNED_OPCODE (R218): An instruction word whose OP is unassigned, including the all-zero word, issues and raises ILLEGAL_OP with no other effect. -/
  | unassignedOpcode (f : FmtRaw)
  /-- POOL_HEADER_WORD (R88): Executing a pool header word (OP 0x03F) raises a precise POOL_ENTRY trap. -/
  | poolHeaderWord (f : FmtPool)
  /-- BOX_REACHES_SPUR_ENGINE (R52): A box placed on another cluster arrives at that cluster's spur engine, where its rule task is queued in arrival order, ties going by ascending source cluster id. -/
  | boxReachesSpurEngine (n : Nat)
  /-- LEAF_RESET_END (R116): The 64-cycle leaf reset of a tile ends, and the scale parcels and tile or matrix instructions waiting on it go ahead. -/
  | leafResetEnd (t : Nat)
  /-- LINK_ACTIVE (R378): A BupraLink port's link completes training and becomes active again, so host-coherent writes and ring interrupts return to the port that HPORT or VEC names. -/
  | linkActive (link : Nat)
  /-- PEER_PORT_EXCHANGE (R397): A partner package's identity or value arrives over a peer port for a step of an xred.peer tree, and is checked and combined. -/
  | peerPortExchange (peer : PeerInput)
  /-- LINK_RETRAIN (R380): Writing 1 to bit 0 of a link control word retrains that link. -/
  | linkRetrain
  /-- SEMAPHORE_RELEASE (R383): A host write with bit 0 one releases a semaphore held by the writing port. -/
  | semaphoreRelease
  /-- CFG_WRITE (R384): A host write to a configuration or boot-window word with no behaviour of its own, guarded by its semaphore. -/
  | cfgWrite
  /-- PARTITION_CREATE (R393): A PCTL write with V one checks the partition and prepares its clusters. -/
  | partitionCreate
  /-- PARTITION_DESTROY (R394): A PCTL write with V zero destroys a partition that holds no launch slot. -/
  | partitionDestroy
  /-- ISLAND_POINT_WRITE (R414): A host write requests an island's operating point. -/
  | islandPointWrite
  /-- ATTGO (R401): Builds and signs an attestation report in one step. -/
  | attgo
  /-- THAW (R413): An FSEL write with THAW one resumes the selected die's recorder ring. -/
  | thaw
  /-- INJECT_LAUNCH (R386): An ICTL write with KIND launch sends a launch parcel for a queue of PART. -/
  | injectLaunch
  /-- INJECT_HANDLER (R386): An ICTL write with KIND handler injects a handler parcel from IMAGE. -/
  | injectHandler
  /-- INJECT_TAGGED_DATA (R386): An ICTL write with KIND tagged data injects a tagged-data parcel. -/
  | injectTaggedData
  /-- INJECT_SYSTEM (R386): An ICTL write with KIND system injects a system parcel. -/
  | injectSystem
  /-- INJECT_ABORT (R387): An ICTL write with KIND abort aborts the queue's launches that carry the LID. -/
  | injectAbort
  /-- HOST_READ (R388): A host read through the aperture returns memory of a partition's window. -/
  | hostRead
  /-- HOST_WRITE (R388): A host write through the aperture completes once it is in memory. -/
  | hostWrite
deriving DecidableEq, Repr, Inhabited

end Sys2Proof
end

