-- ==== Sys2Proof/Fields.lean ====
section
/-! DEFINITION. The fields of an instruction word, whatever its format (R206 to R216). -/
namespace Sys2Proof

/-- The fields an instruction word carries beside its opcode. -/
inductive Fields where
  | s (f : FmtS)
  | i (f : FmtI)
  | b (f : FmtB)
  | m (f : FmtM)
  | v (f : FmtV)
  | x (f : FmtX)
  | k (f : FmtK)
  | e (f : FmtE)
  | hint (f : FmtHint)
  | raw (f : FmtRaw)
  | pool (f : FmtPool)
deriving DecidableEq, Repr

end Sys2Proof
end

