-- ==== Sys2Proof/Machine/Bits.lean ====
section
/-! DEFINITION. Bit fields, extensions, byte order, the placement hash and sparse maps: the helpers every
other definition file uses (R4, R5, R45, R120, R221). -/
namespace Sys2Proof.Machine

/-- Bits `[h:l]` of a natural number (R5). -/
def bitsOf (x h l : Nat) : Nat := x / 2 ^ l % 2 ^ (h + 1 - l)

/-- Bits `[l+w-1:l]` of a bit vector, as a bit vector of `w` bits. -/
def field {n : Nat} (x : BitVec n) (l w : Nat) : BitVec w := x.extractLsb' l w

/-- The field at `[l+w-1:l]` replaced by `v`; every other bit kept. -/
def setField {n w : Nat} (x : BitVec n) (l : Nat) (v : BitVec w) : BitVec n :=
  (x &&& ~~~(((BitVec.allOnes w).setWidth n) <<< l)) ||| ((v.setWidth n) <<< l)

/-- Bit `i` as a truth value. -/
def bit {n : Nat} (x : BitVec n) (i : Nat) : Bool := x.getLsbD i

/-- A truth value as one bit. -/
def b1 (b : Bool) : BitVec 1 := BitVec.ofBool b

/-- SignExt(x, n) of R221: bits `[n-1:0]` of `x` as two's complement, widened to 64 bits. -/
def sext64 (x : Word) (n : Nat) : Word :=
  if n = 0 then 0#64
  else if n ≥ 64 then x
  else BitVec.ofInt 64 ((BitVec.ofNat n x.toNat).toInt)

/-- ZeroExt(x, n) of R221. -/
def zext64 (x : Word) (n : Nat) : Word :=
  if n ≥ 64 then x else BitVec.ofNat 64 (x.toNat % 2 ^ n)

/-- `ceil(a / b)`. -/
def ceilDiv (a b : Nat) : Nat := (a + b - 1) / b

/-- Floor of the base-2 logarithm, 0 for 0; fuel is the bit length allowed. -/
def log2Nat (x : Nat) : Nat := Nat.log2 x

/-! Bytes, little-endian (R5). -/

/-- The `n` bytes of a natural number, lowest first. -/
def bytesOfNat (n : Nat) (x : Nat) : List Byte :=
  (List.range n).map fun i => BitVec.ofNat 8 (x / 2 ^ (8 * i))

/-- The natural number whose bytes, lowest first, are given. -/
def natOfBytes : List Byte → Nat
  | [] => 0
  | b :: t => b.toNat + 256 * natOfBytes t

/-- A word from bytes, little-endian. -/
def wordOfBytes (l : List Byte) : Word := BitVec.ofNat 64 (natOfBytes l)

/-- Byte `i` of a bit vector. -/
def byteAt {n : Nat} (x : BitVec n) (i : Nat) : Byte := x.extractLsb' (8 * i) 8

/-- The first `n` bytes of a bit vector. -/
def bytesOf {w : Nat} (n : Nat) (x : BitVec w) : List Byte :=
  (List.range n).map fun i => byteAt x i

/-- A bit vector from bytes, little-endian. -/
def ofBytes (w : Nat) (l : List Byte) : BitVec w := BitVec.ofNat w (natOfBytes l)

/-- `n` bytes of a line from byte offset `o`. -/
def lineBytes (d : Line) (o n : Nat) : List Byte :=
  (List.range n).map fun i => byteAt d (o + i)

/-- The mask naming `n` bytes from byte offset `o` of a line. -/
def maskRange (o n : Nat) : Mask := BitVec.ofNat 128 ((2 ^ n - 1) * 2 ^ o)

/-- The 1024-bit pattern with every bit of each byte named by the mask set. -/
def spread (m : Mask) : Line :=
  BitVec.ofNat 1024
    ((List.range 128).foldl (fun a i => if m.getLsbD i then a + 255 * 2 ^ (8 * i) else a) 0)

/-- The bytes of `b` named by the mask over the bytes of `a`. -/
def overlay (a b : Line) (m : Mask) : Line :=
  (a &&& ~~~(spread m)) ||| (b &&& spread m)

/-- A line whose bytes from offset `o` are the list given, zero elsewhere. -/
def lineAt (o : Nat) (l : List Byte) : Line := BitVec.ofNat 1024 (natOfBytes l * 2 ^ (8 * o))

/-! Hashes. -/

/-- The multiplier of R45, R120, R135 and R409. -/
def golden : Nat := 0x9E3779B97F4A7C15

/-- The 32-bit hash of R45 and R120. -/
def hash32 (key : Nat) : Nat := key * golden % 2 ^ 64 / 2 ^ 32

/-- The member chosen among `m` by the hash (R45, R120). -/
def pick (key m : Nat) : Nat := hash32 key * m / 2 ^ 32

/-- `mix` of R409. -/
def mix (x : Word) : Word :=
  let x := x * BitVec.ofNat 64 golden
  let x := x ^^^ (x >>> 29)
  let x := x * 0xBF58476D1CE4E5B9#64
  x ^^^ (x >>> 32)

/-! Sparse maps. A map is a list of (key, value) pairs. Data maps (memory, stores, sets, tile state) are kept in
one canonical form: keys strictly rising, no entry equal to what an unlisted key reads as. -/

/-- What a key reads as: the first entry of that key, else `d`. -/
def look {α : Type} (d : α) : List (Nat × α) → Nat → α
  | [], _ => d
  | (k', v) :: t, k => if k' = k then v else look d t k

/-- The first entry of a key, where there is one. -/
def find {α : Type} : List (Nat × α) → Nat → Option α
  | [], _ => none
  | (k', v) :: t, k => if k' = k then some v else find t k

/-- Entries for the keys `a`, `a+1`, … with the values given, leaving out values equal to `d`. -/
def block {α : Type} [DecidableEq α] (d : α) : Nat → List α → List (Nat × α)
  | _, [] => []
  | a, v :: t => if v = d then block d (a + 1) t else (a, v) :: block d (a + 1) t

/-- The entries below `a`. -/
def below {α : Type} (a : Nat) (m : List (Nat × α)) : List (Nat × α) := m.filter fun e => decide (e.1 < a)

/-- The entries at or above `a`. -/
def above {α : Type} (a : Nat) (m : List (Nat × α)) : List (Nat × α) := m.filter fun e => decide (a ≤ e.1)

/-- The values written at consecutive keys from `a`, in canonical form. -/
def writeRun {α : Type} [DecidableEq α] (d : α) (m : List (Nat × α)) (a : Nat) (vs : List α) : List (Nat × α) :=
  below a m ++ (block d a vs ++ above (a + vs.length) m)

/-- One value written, in canonical form. -/
def writeOne {α : Type} [DecidableEq α] (d : α) (m : List (Nat × α)) (a : Nat) (v : α) : List (Nat × α) :=
  writeRun d m a [v]

/-- One record put at a key; a record map keeps every record it was given. -/
def put {α : Type} (m : List (Nat × α)) (a : Nat) (v : α) : List (Nat × α) :=
  below a m ++ ((a, v) :: above (a + 1) m)

/-- A key removed. -/
def drop {α : Type} (m : List (Nat × α)) (a : Nat) : List (Nat × α) := m.filter fun e => decide (e.1 ≠ a)

/-- Keys strictly rising. -/
def rising {α : Type} : List (Nat × α) → Bool
  | [] => true
  | [_] => true
  | a :: b :: t => decide (a.1 < b.1) && rising (b :: t)

/-- The canonical form of a data map: keys strictly rising, no entry equal to `d`. -/
def canonical {α : Type} [DecidableEq α] (d : α) (m : List (Nat × α)) : Bool :=
  rising m && m.all fun e => decide (e.2 ≠ d)

/-! Byte views of maps whose unit is wider than a byte. -/

/-- `n` bytes from byte offset `o` of a map of `u`-byte units. -/
def readUnits {w : Nat} (u : Nat) (m : List (Nat × BitVec w)) (o n : Nat) : List Byte :=
  (List.range n).map fun i => byteAt (look 0 m ((o + i) / u)) ((o + i) % u)

/-- A unit with the bytes given laid over it from byte `o - k*u` of unit `k` (bytes that fall outside are dropped). -/
def patchUnit {w : Nat} (u : Nat) (x : BitVec w) (k o : Nat) (bs : List Byte) : BitVec w :=
  let lo := k * u
  let old := bytesOf u x
  let new := (List.range u).map fun j =>
    if lo + j < o then old.getD j 0
    else match bs[lo + j - o]? with
      | some b => b
      | none => old.getD j 0
  ofBytes w new

/-- Bytes written from byte offset `o` of a map of `u`-byte units. -/
def writeUnits {w : Nat} (u : Nat) (m : List (Nat × BitVec w)) (o : Nat) (bs : List Byte) : List (Nat × BitVec w) :=
  if bs.isEmpty then m
  else
    let k0 := o / u
    let k1 := (o + bs.length - 1) / u
    writeRun 0 m k0 ((List.range (k1 + 1 - k0)).map fun j => patchUnit u (look 0 m (k0 + j)) (k0 + j) o bs)

/-- The list with its `i`-th element replaced, where there is one. -/
def setNth {α : Type} (l : List α) (i : Nat) (v : α) : List α := l.set i v

/-- The list without its `i`-th element. -/
def dropNth {α : Type} (l : List α) (i : Nat) : List α := l.eraseIdx i

/-- A lane of `w` bits read as signed. -/
def sgn (w x : Nat) : Int := if x % 2 ^ w < 2 ^ (w - 1) then (x % 2 ^ w : Nat) else (x % 2 ^ w : Nat) - (2 ^ w : Nat)

end Sys2Proof.Machine
end

