-- ==== Sys2Proof/Machine/Meta.lean ====
section
/-! DEFINITION. What an instruction word is: its opcode and fields (the opcode map, R218), the classes that may issue it,
the values its coded fields and operand fields may hold (R207, R208), the registers it reads and writes, and its latency (R78). -/
namespace Sys2Proof.Machine

/-- The opcode (R218) and fields of an instruction; none for an event. -/
def view : Instr → Option (Nat × Fields)
  | .nop f => some (0x001, .s f)
  | .hint f => some (0x1F0 + f.op.toNat, .hint f)
  | .br f => some (0x002, .b f)
  | .jmp f => some (0x003, .b f)
  | .jmpr f => some (0x004, .b f)
  | .call f => some (0x005, .b f)
  | .ret f => some (0x006, .b f)
  | .rep f => some (0x007, .i f)
  | .endTask f => some (0x008, .s f)
  | .fmt f => some (0x009, .i f)
  | .trapOp f => some (0x00A, .i f)
  | .brk f => some (0x00B, .s f)
  | .csrr f => some (0x00C, .i f)
  | .csrw f => some (0x00D, .i f)
  | .timeOp f => some (0x00E, .s f)
  | .resume f => some (0x00F, .s f)
  | .abandon f => some (0x010, .s f)
  | .wpset f => some (0x020, .s f)
  | .eret f => some (0x021, .s f)
  | .bmapw f => some (0x022, .s f)
  | .ctxsave f => some (0x023, .s f)
  | .ctxload f => some (0x024, .s f)
  | .unfsave f => some (0x025, .s f)
  | .unfload f => some (0x026, .s f)
  | .halt f => some (0x027, .s f)
  | .add f => some (0x040, .s f)
  | .sub f => some (0x041, .s f)
  | .mul f => some (0x042, .s f)
  | .mulh f => some (0x043, .s f)
  | .mulhu f => some (0x044, .s f)
  | .divOp f => some (0x045, .s f)
  | .divu f => some (0x046, .s f)
  | .remOp f => some (0x047, .s f)
  | .remu f => some (0x048, .s f)
  | .andOp f => some (0x049, .s f)
  | .orOp f => some (0x04A, .s f)
  | .xorOp f => some (0x04B, .s f)
  | .andn f => some (0x04C, .s f)
  | .shl f => some (0x04D, .s f)
  | .shr f => some (0x04E, .s f)
  | .sar f => some (0x04F, .s f)
  | .rot f => some (0x050, .s f)
  | .minOp f => some (0x051, .s f)
  | .maxOp f => some (0x052, .s f)
  | .minu f => some (0x053, .s f)
  | .maxu f => some (0x054, .s f)
  | .setOp f => some (0x055, .s f)
  | .sel f => some (0x056, .s f)
  | .clz f => some (0x057, .s f)
  | .ctz f => some (0x058, .s f)
  | .popc f => some (0x059, .s f)
  | .bfx f => some (0x05A, .s f)
  | .bfi f => some (0x05B, .s f)
  | .addImm f => some (0x080, .i f)
  | .subImm f => some (0x081, .i f)
  | .mulImm f => some (0x082, .i f)
  | .mulhImm f => some (0x083, .i f)
  | .mulhuImm f => some (0x084, .i f)
  | .divImm f => some (0x085, .i f)
  | .divuImm f => some (0x086, .i f)
  | .remImm f => some (0x087, .i f)
  | .remuImm f => some (0x088, .i f)
  | .andImm f => some (0x089, .i f)
  | .orImm f => some (0x08A, .i f)
  | .xorImm f => some (0x08B, .i f)
  | .andnImm f => some (0x08C, .i f)
  | .shlImm f => some (0x08D, .i f)
  | .shrImm f => some (0x08E, .i f)
  | .sarImm f => some (0x08F, .i f)
  | .rotImm f => some (0x090, .i f)
  | .minImm f => some (0x091, .i f)
  | .maxImm f => some (0x092, .i f)
  | .minuImm f => some (0x093, .i f)
  | .maxuImm f => some (0x094, .i f)
  | .setImm f => some (0x095, .i f)
  | .selImm f => some (0x096, .i f)
  | .clzImm f => some (0x097, .i f)
  | .ctzImm f => some (0x098, .i f)
  | .popcImm f => some (0x099, .i f)
  | .bfxImm f => some (0x09A, .i f)
  | .bfiImm f => some (0x09B, .i f)
  | .movi f => some (0x060, .i f)
  | .movhi f => some (0x061, .i f)
  | .lit f => some (0x062, .i f)
  | .boxr f => some (0x0C0, .k f)
  | .boxn f => some (0x0C1, .k f)
  | .pathOp f => some (0x0C2, .k f)
  | .splitOp f => some (0x0C3, .k f)
  | .splitf f => some (0x0C4, .k f)
  | .prune f => some (0x0C5, .k f)
  | .leafOp f => some (0x0C6, .k f)
  | .fitq f => some (0x0C7, .k f)
  | .ruleq f => some (0x0C8, .k f)
  | .ld f => some (0x100, .m f)
  | .st f => some (0x101, .m f)
  | .lds f => some (0x102, .m f)
  | .sts f => some (0x103, .m f)
  | .ldq f => some (0x104, .m f)
  | .stq f => some (0x105, .m f)
  | .gather f => some (0x106, .m f)
  | .scatter f => some (0x107, .m f)
  | .pref f => some (0x108, .m f)
  | .flush f => some (0x109, .m f)
  | .inval f => some (0x10A, .m f)
  | .fence f => some (0x10B, .m f)
  | .aadd f => some (0x110, .m f)
  | .amin f => some (0x111, .m f)
  | .amax f => some (0x112, .m f)
  | .aand f => some (0x113, .m f)
  | .aor f => some (0x114, .m f)
  | .axor f => some (0x115, .m f)
  | .axchg f => some (0x116, .m f)
  | .acas f => some (0x117, .m f)
  | .aaddn f => some (0x118, .e f)
  | .postedAtomic _ => none
  | .give f => some (0x120, .e f)
  | .detach _ => none
  | .giveRes f => some (0x120, .e f)
  | .giveRel f => some (0x120, .e f)
  | .bmapr f => some (0x121, .s f)
  | .tload f => some (0x128, .m f)
  | .tstore f => some (0x129, .m f)
  | .tstoreCol f => some (0x12A, .m f)
  | .sems f => some (0x160, .e f)
  | .semw f => some (0x161, .e f)
  | .qstat f => some (0x162, .e f)
  | .ctrwait f => some (0x163, .e f)
  | .ctrtrig f => some (0x164, .e f)
  | .arrive f => some (0x165, .e f)
  | .send f => some (0x168, .e f)
  | .sendc f => some (0x169, .e f)
  | .sendt f => some (0x16A, .e f)
  | .reply f => some (0x16F, .e f)
  | .recvp f => some (0x16B, .e f)
  | .recvx f => some (0x16C, .e f)
  | .tagset f => some (0x16D, .e f)
  | .tagr f => some (0x16E, .e f)
  | .grpset f => some (0x170, .e f)
  | .grpfree f => some (0x171, .e f)
  | .groupBusy _ => none
  | .mcast f => some (0x172, .e f)
  | .wrq f => some (0x173, .e f)
  | .xcopy f => some (0x180, .e f)
  | .xcompact f => some (0x181, .e f)
  | .xfill f => some (0x182, .e f)
  | .xred f => some (0x183, .e f)
  | .xstat f => some (0x184, .e f)
  | .copyOperation _ => none
  | .compactOperation _ => none
  | .fillOperation _ => none
  | .reduceOperation _ => none
  | .vadd f => some (0x1A0, .v f)
  | .vsub f => some (0x1A1, .v f)
  | .vmul f => some (0x1A2, .v f)
  | .vfma f => some (0x1A3, .v f)
  | .vfms f => some (0x1A4, .v f)
  | .vdiv f => some (0x1A5, .v f)
  | .vsqrt f => some (0x1A6, .v f)
  | .vrcp f => some (0x1A7, .v f)
  | .vrsq f => some (0x1A8, .v f)
  | .vexp2 f => some (0x1A9, .v f)
  | .vlog2 f => some (0x1AA, .v f)
  | .vmin f => some (0x1AB, .v f)
  | .vmax f => some (0x1AC, .v f)
  | .vabs f => some (0x1AD, .v f)
  | .vneg f => some (0x1AE, .v f)
  | .vcmp f => some (0x1AF, .v f)
  | .vsel f => some (0x1B0, .v f)
  | .vand f => some (0x1B1, .v f)
  | .vor f => some (0x1B2, .v f)
  | .vxor f => some (0x1B3, .v f)
  | .vshl f => some (0x1B4, .v f)
  | .vshr f => some (0x1B5, .v f)
  | .vsar f => some (0x1B6, .v f)
  | .vcvt f => some (0x1B7, .v f)
  | .vred f => some (0x1B8, .v f)
  | .vscan f => some (0x1B9, .v f)
  | .vtopk f => some (0x1BA, .v f)
  | .vidx f => some (0x1BB, .v f)
  | .vmov f => some (0x1BC, .v f)
  | .vbcast f => some (0x1BD, .v f)
  | .vins f => some (0x1BE, .v f)
  | .vext f => some (0x1BF, .v f)
  | .tshape f => some (0x1E0, .x f)
  | .tzero f => some (0x1E1, .x f)
  | .mma f => some (0x1E2, .x f)
  | .passStart _ => none
  | .passDeliver _ => none
  | .acczero f => some (0x1E3, .x f)
  | .accrd f => some (0x1E4, .x f)
  | .accwr f => some (0x1E5, .x f)
  | .accepi f => some (0x1E6, .x f)
  | .sclwait f => some (0x1E7, .x f)
  | .sclsend f => some (0x1E8, .e f)
  | .taskStart _ => none
  | .leafSteal _ => none
  | .taskOverrun _ => none
  | .parkTimeout _ _ => none
  | .handlerParcel _ => none
  | .carriedCodeParcel _ => none
  | .taggedDataParcel _ => none
  | .channelParcel _ => none
  | .scaleParcel _ => none
  | .systemParcel _ => none
  | .faultParcel _ => none
  | .launchParcel _ => none
  | .queueSubmit _ => none
  | .admission _ _ => none
  | .regionTake _ => none
  | .sliceEnd _ => none
  | .quiescence _ => none
  | .saveComplete _ => none
  | .restore _ _ => none
  | .boxReload _ _ => none
  | .boxRetire _ _ => none
  | .replayStart _ => none
  | .recordDeferredWrite _ => none
  | .faultRingWrite _ _ => none
  | .ringInterruptTimer _ => none
  | .setFree _ _ => none
  | .coalesceReply _ _ => none
  | .xinvCommand _ => none
  | .patrolScrub _ => none
  | .flitReplay _ => none
  | .wearUpdate _ _ _ => none
  | .thermalThrottle _ _ => none
  | .thermalTrip _ _ => none
  | .pointChangeDone _ => none
  | .coldReset _ => none
  | .warmReset _ => none
  | .goOp _ => none
  | .linkDown _ => none
  | .linkRetrain  => none
  | .semaphoreAcquire _ _ _ => none
  | .semaphoreRelease  => none
  | .cfgWrite  => none
  | .partitionCreate  => none
  | .partitionReady _ => none
  | .partitionDestroy  => none
  | .islandPointWrite  => none
  | .attgo  => none
  | .thaw  => none
  | .injectLaunch  => none
  | .injectHandler  => none
  | .injectTaggedData  => none
  | .injectSystem  => none
  | .injectAbort  => none
  | .hostRead  => none
  | .hostWrite  => none
  | .unassignedOpcode f => some (f.op.toNat, .raw f)
  | .poolHeaderWord f => some (0x03F, .pool f)
  | .boxReachesSpurEngine _ => none
  | .leafResetEnd _ => none
  | .linkActive _ => none
  | .peerPortExchange _ => none

/-- Opcode ranges of R218 that are assigned; 0x1F0 to 0x1FF is the hint region. -/
def assigned (op : Nat) : Bool :=
  (1 ≤ op && op ≤ 0x010) || (0x020 ≤ op && op ≤ 0x027) || op = 0x03F || (0x040 ≤ op && op ≤ 0x05B)
  || (0x060 ≤ op && op ≤ 0x062) || (0x080 ≤ op && op ≤ 0x09B) || (0x0C0 ≤ op && op ≤ 0x0C8)
  || (0x100 ≤ op && op ≤ 0x10B) || (0x110 ≤ op && op ≤ 0x118) || op = 0x120 || op = 0x121
  || (0x128 ≤ op && op ≤ 0x12A) || (0x160 ≤ op && op ≤ 0x165) || (0x168 ≤ op && op ≤ 0x173)
  || (0x180 ≤ op && op ≤ 0x184) || (0x1A0 ≤ op && op ≤ 0x1BF) || (0x1E0 ≤ op && op ≤ 0x1E8) || 0x1F0 ≤ op

/-! Operand fields (R208, R285). -/

/-- A scalar operand: s0 to s31, or 63. -/
def okS (r : BitVec 6) : Bool := r.toNat < 32 || r = 63#6
/-- A vector source: v0 to v15, lq0 to lq3, c0 to c7, or 63. -/
def okVS (r : BitVec 6) : Bool := r.toNat < 20 || (24 ≤ r.toNat && r.toNat < 32) || r = 63#6
/-- A vector destination: v0 to v15, sq0 to sq3, or 63. -/
def okVD (r : BitVec 6) : Bool := r.toNat < 16 || (20 ≤ r.toNat && r.toNat < 24) || r = 63#6
/-- A vector destination that the instruction also reads: v0 to v15, or 63 (R285). -/
def okVDR (r : BitVec 6) : Bool := r.toNat < 16 || r = 63#6
/-- A third operand that an immediate may stand for (R216). -/
def okC (f : FmtE) : Bool := f.ic = 1#1 || okS f.c
/-- The fields of R212 shared by the line operations and strong accesses: device space only. -/
def devOnly (f : FmtM) : Bool := f.sp = 0#2 && f.hf = 0#1
/-- A space field of R212 and its handle form. -/
def okSpace (f : FmtM) : Bool := f.sp ≠ 3#2 && (f.hf = 0#1 || f.sp = 1#2)
/-- A format code of R68. -/
def okFmt (x : BitVec 4) : Bool := x.toNat ≤ 12

/-- Check 5 of R220 as far as the word alone decides it: every coded field and operand field the instruction uses holds
a value defined for it. A vector format outside an instruction's group is decided with the pending prefix (`okGroup`). -/
def okFields (op : Nat) (f : Fields) : Bool :=
  match f with
  | .hint _ => true
  | .pool _ => true
  | .raw f => !assigned f.op.toNat
  | .s f =>
    if op = 0x001 || op = 0x008 || op = 0x00B || op = 0x027 then true
    else if op = 0x00E then okS f.d
    else if op = 0x00F || op = 0x010 || op = 0x020 || op = 0x021 then okS f.a
    else if op = 0x022 then okS f.a && okS f.b
    else if op = 0x023 || op = 0x025 then okS f.d && okS f.a && okS f.b
    else if op = 0x024 || op = 0x121 then okS f.d && okS f.a
    else if op = 0x026 then okS f.a && okS f.b && okS f.c
    else  -- 0x040 to 0x05B
      f.lw.toNat ≤ 4 && okS f.d && okS f.a
      && (if op = 0x057 || op = 0x058 || op = 0x059 then true
          else if op = 0x055 && (f.sub = 6#3 || f.sub = 7#3) then true else okS f.b)
      && (if op = 0x056 || op = 0x05B then okS f.c else true)
      && (if op = 0x05A || op = 0x05B then f.lw = 0#3 else true)
  | .i f =>
    if op = 0x007 then f.sub.getLsbD 0 || okS f.a
    else if op = 0x009 then
      okFmt (field f.imm 20 4) && okFmt (field f.imm 16 4) && okFmt (field f.imm 12 4)
      && (field f.imm 10 2).toNat ≤ 1 && (field f.imm 7 3).toNat ≤ 5
    else if op = 0x00A then true
    else if op = 0x00C then okS f.d
    else if op = 0x00D then okS f.a
    else if 0x060 ≤ op && op ≤ 0x062 then okS f.d
    else  -- 0x080 to 0x09B
      (field f.sub 0 3).toNat ≤ 4 && okS f.d
      && (if op = 0x097 || op = 0x098 || op = 0x099 then true else okS f.a)
      && (if op = 0x09A || op = 0x09B then field f.sub 0 3 = 0#3 else true)
  | .b f =>
    if op = 0x002 then okS f.a && (f.cond = 6#3 || f.cond = 7#3 || okS f.b)
    else if op = 0x004 || op = 0x006 then okS f.a
    else if op = 0x005 then okS f.b
    else true
  | .m f =>
    if op = 0x100 || op = 0x101 then okSpace f && f.sz.toNat ≤ 3 && f.ord = 0#2 && okS f.d && okS f.a
    else if op = 0x102 || op = 0x103 then
      devOnly f && f.sz.toNat ≤ 3 && (f.ord = 0#2 || (f.ord = (if op = 0x102 then 1#2 else 2#2) && f.sco ≠ 3#2))
      && okS f.d && okS f.a
    else if op = 0x104 then okSpace f && f.sz = 5#3 && f.ord = 0#2 && 16 ≤ f.d.toNat && f.d.toNat ≤ 19 && okS f.a
    else if op = 0x105 then okSpace f && f.sz = 5#3 && f.ord = 0#2 && 20 ≤ f.d.toNat && f.d.toNat ≤ 23 && okS f.a
    else if op = 0x106 || op = 0x107 then
      okSpace f && f.sz.toNat ≤ 3 && f.ord = 0#2 && okS f.d && okS f.a && okS f.b
    else if 0x108 ≤ op && op ≤ 0x10A then devOnly f && okS f.a
    else if op = 0x10B then f.sz.toNat ≤ 3 && f.sco ≠ 3#2
    else if 0x110 ≤ op && op ≤ 0x117 then
      devOnly f && (f.sz = 2#3 || f.sz = 3#3) && (f.ord = 0#2 || f.sco ≠ 3#2) && okS f.d && okS f.a && okS f.b
    else  -- 0x128 to 0x12A
      f.d.toNat ≤ 7 && f.hf = 1#1 && f.sp = 1#2 && okS f.a
  | .v f =>
    okFmt f.fmt &&
    (if op = 0x1B7 then okFmt f.fmt2 && okVS f.a
        && okVD f.d
      else if op = 0x1BB || op = 0x1BD then okVD f.d && okS f.a
      else if op = 0x1BE then okVDR f.d && okS f.a && okS f.b
      else if op = 0x1BF then okS f.d && okVS f.a && okS f.b
      else if op = 0x1A3 || op = 0x1A4 || op = 0x1B0 then okVD f.d && okVS f.a && okVS f.b && okVS f.c
      else if op = 0x1B8 || op = 0x1B9 then okVD f.d && okVS f.a && f.sub.toNat ≤ 5
      else if op = 0x1BA then okVD f.d && okVS f.a && okVS f.b && f.sub.toNat ≤ 1
      else if (0x1A6 ≤ op && op ≤ 0x1AA) || op = 0x1AD || op = 0x1AE || op = 0x1BC then okVD f.d && okVS f.a
      else okVD f.d && okVS f.a && okVS f.b)
  | .x f =>
    if op = 0x1E0 then okS f.a
    else if op = 0x1E4 then okVD f.d && (if f.sub = 0#4 then f.imm8.toNat < 128 else f.sub = 1#4 && okS f.a)
    else if op = 0x1E5 then okVS f.a && (if f.sub = 0#4 then f.imm8.toNat < 128 else f.sub = 1#4 && okS f.d)
    else if op = 0x1E6 then okVD f.d && okS f.a && f.imm8.toNat < 128
    else if op = 0x1E7 then okS f.d
    else true
  | .k f =>
    if op = 0x0C0 then okS f.d && f.sub.toNat ≤ 1
    else if op = 0x0C1 then okS f.a
    else if op = 0x0C2 then okS f.d && f.sub.toNat ≤ 2
    else if op = 0x0C3 then f.mode ≠ 3#2 && (f.join.toNat ≤ 15 || f.join = 31#5)
    else if op = 0x0C4 then f.join.toNat ≤ 15 || f.join = 31#5
    else if op = 0x0C7 then okS f.d
    else if op = 0x0C8 then okS f.d && okS f.a
    else true
  | .e f =>
    if op = 0x118 then okS f.d && okS f.a && okS f.b && okC f
    else if op = 0x120 then f.sub.toNat ≤ 2
    else if op = 0x160 || op = 0x161 then f.hnd.toNat ≤ 7
    else if op = 0x162 then f.sub.toNat ≤ 4 && okS f.d
    else if op = 0x163 || op = 0x164 || op = 0x165 then okS f.a && okC f
    else if op = 0x168 || op = 0x169 || op = 0x16A then okS f.d && okC f
    else if op = 0x16F then okC f
    else if op = 0x16B then f.ic = 0#1 && okS f.a && okS f.c && (f.sub.getLsbD 0 || okS f.b)
    else if op = 0x16C || op = 0x16E then okS f.d
    else if op = 0x170 then okS f.a && okS f.b
    else if op = 0x171 then okS f.a
    else if op = 0x172 then okS f.a && okC f
    else if op = 0x173 then okS f.d && okS f.a
    else if 0x180 ≤ op && op ≤ 0x182 then f.core.toNat ≤ 1 && okS f.a
    else if op = 0x183 then f.core.toNat ≤ 1 && okS f.a && f.sub.toNat ≤ 3
    else if op = 0x184 then f.core.toNat ≤ 1 && okS f.d
    else if op = 0x1E8 then okS f.d && okS f.a && okS f.b && okC f && f.sub.toNat ≤ 1
    else true

/-! Classes (R16, R218). -/

/-- The class of a core, from its index (R14). -/
inductive CoreClass where
  | a
  | x
  | c
deriving DecidableEq, Repr

/-- The class of the core of an index (R14). -/
def classOf (idx : Nat) : CoreClass := if idx < 4 then .a else if idx < 8 then .x else .c

/-- Whether the opcode map lists the class for the opcode (check 4 of R220). ld and st of an X-core take SP 10b with HF
zero only; SP, SZ or ORD with a value undefined for them raises no class question (R258; entry 63). -/
def okClass (cl : CoreClass) (op : Nat) (f : Fields) : Bool :=
  match cl with
  | .a => !((0x1A0 ≤ op && op ≤ 0x1BF) || (0x1E2 ≤ op && op ≤ 0x1E8) || op = 0x0C1 || (0x0C3 ≤ op && op ≤ 0x0C6))
  | .c => !((0x1A0 ≤ op && op ≤ 0x1BF) || (0x1E0 ≤ op && op ≤ 0x1E7) || op = 0x104 || op = 0x105
            || (0x128 ≤ op && op ≤ 0x12A) || op = 0x160 || op = 0x161 || (0x180 ≤ op && op ≤ 0x184))
  | .x =>
    if op = 0x100 || op = 0x101 then
      match f with
      | .m f => f.sp = 3#2 || 4#3 ≤ f.sz || f.ord ≠ 0#2 || (f.sp = 2#2 && f.hf = 0#1)
      | _ => true
    else !(op = 0x0C1 || (0x0C3 ≤ op && op ≤ 0x0C6) || (0x102 ≤ op && op ≤ 0x12A)
           || (0x163 ≤ op && op ≤ 0x165) || op = 0x16B || op = 0x16C || op = 0x170 || op = 0x171 || op = 0x173
           || (0x180 ≤ op && op ≤ 0x184) || op = 0x1E8)

/-- The instructions a carried-code task may use (R156); the spaces of ld and st are checked with the class. -/
def okCarried (cl : CoreClass) (op : Nat) (f : Fields) : Bool :=
  (0x040 ≤ op && op ≤ 0x05B) || (0x060 ≤ op && op ≤ 0x062) || (0x080 ≤ op && op ≤ 0x09B)
  || op = 0x110 || op = 0x168 || op = 0x16F || op = 0x16D || op = 0x008
  || ((op = 0x100 || op = 0x101) &&
      match f with
      | .m f => if cl = .x then f.sp = 2#2 || f.sp = 3#2 else f.sp ≠ 0#2
      | _ => false)

/-- The instructions that take a format (R233). -/
def takesFormat (op : Nat) : Bool := (0x1A0 ≤ op && op ≤ 0x1BF) || op = 0x1E2 || op = 0x1E6

/-- The instructions R81 forbids in a delay slot. -/
def noSlot (op : Nat) : Bool :=
  (0x002 ≤ op && op ≤ 0x00A) || (0x0C3 ≤ op && op ≤ 0x0C6) || op = 0x120

/-- The privileged opcodes (R218). -/
def privileged (op : Nat) : Bool := 0x020 ≤ op && op ≤ 0x027

/-! Formats of vector instructions (R287). -/

/-- FP64, FP32, FP16, BF16. -/
def grpF (f : Nat) : Bool := f = 8 || f = 9 || f = 10 || f = 11
/-- INT8 to INT64. -/
def grpI (f : Nat) : Bool := 1 ≤ f && f ≤ 4
/-- The element width in bits of a format code (R115). -/
def fmtWidth (f : Nat) : Nat :=
  if f = 0 || f = 5 then 4 else if f = 1 || f = 6 || f = 7 || f = 12 then 8
  else if f = 2 || f = 8 || f = 9 then 16 else if f = 3 || f = 10 then 32 else 64

/-- The formats a V-format instruction accepts, and for vcvt, vred and vscan the variant with them (R287, R297, R299). -/
def okGroup (op f f2 : Nat) : Bool :=
  if op = 0x1B7 then
    f ≤ 12 && f2 ≤ 12 && !((fmtWidth f = 4 && fmtWidth f2 = 64) || (fmtWidth f = 64 && fmtWidth f2 = 4))
  else if (0x1A3 ≤ op && op ≤ 0x1AA) then grpF f
  else if op ≤ 0x1AF || op = 0x1B8 || op = 0x1B9 then grpF f || grpI f
  else if (0x1B4 ≤ op && op ≤ 0x1B6) || op = 0x1BB then grpI f
  else if op = 0x1BA then grpF f || (2 ≤ f && f ≤ 4)
  else f ≤ 12

/-- The variant of vcvt, vred and vscan with its format: a part that exists (R297), an operation the format has (R299). -/
def okVariant (op f f2 sub : Nat) : Bool :=
  if op = 0x1B7 then sub < max (fmtWidth f) (fmtWidth f2) / min (fmtWidth f) (fmtWidth f2)
  else if op = 0x1B8 || op = 0x1B9 then sub ≤ 2 || grpI f
  else true

/-! Registers read and written, and latency (R77 to R79). -/

/-- A register: scalar or vector, by number. -/
structure Reg where
  vec : Bool
  n : Nat
deriving DecidableEq, Repr

/-- The scalar register a field names; none for 63. -/
def sreg (r : BitVec 6) : List Reg := if r.toNat < 32 then [⟨false, r.toNat⟩] else []
/-- The vector register a field names; none for a queue, a channel or 63. -/
def vreg (r : BitVec 6) : List Reg := if r.toNat < 16 then [⟨true, r.toNat⟩] else []
/-- The third operand of the E format. -/
def creg (f : FmtE) : List Reg := if f.ic = 1#1 then [] else sreg f.c
/-- s16 upward, as the sending instructions read them and recvx writes them. -/
def payloadRegs : List Reg := (List.range 15).map fun i => ⟨false, 16 + i⟩

/-- The vector sources of an instruction: registers, and heads of load queues and channels (R208). -/
def vecSources (op : Nat) (f : Fields) : List (BitVec 6) :=
  match f with
  | .v f =>
    if op = 0x1BB || op = 0x1BD then []
    else if op = 0x1BE then [f.d]
    else if op = 0x1B7 then f.a :: (if fmtWidth f.fmt2.toNat < fmtWidth f.fmt.toNat then [f.d] else [])
    else if op = 0x1A3 || op = 0x1A4 || op = 0x1B0 then [f.a, f.b, f.c]
    else if (0x1A6 ≤ op && op ≤ 0x1AA) || op = 0x1AD || op = 0x1AE || op = 0x1BC || op = 0x1B8 || op = 0x1B9 || op = 0x1BF then [f.a]
    else [f.a, f.b]
  | .x f => if op = 0x1E5 then [f.a] else []
  | _ => []
/-- The registers an instruction reads. -/
def readsOf (op : Nat) (f : Fields) : List Reg :=
  match f with
  | .hint _ => []
  | .raw _ => []
  | .pool _ => []
  | .s f =>
    if op = 0x00F || op = 0x010 || op = 0x020 || op = 0x021 || op = 0x024 || op = 0x121 then sreg f.a
    else if op = 0x022 || op = 0x023 || op = 0x025 then sreg f.a ++ sreg f.b
    else if op = 0x026 then sreg f.a ++ sreg f.b ++ sreg f.c
    else if op < 0x040 then []
    else if op = 0x057 || op = 0x058 || op = 0x059 then sreg f.a
    else if op = 0x055 && (f.sub = 6#3 || f.sub = 7#3) then sreg f.a
    else if op = 0x056 || op = 0x05B then sreg f.a ++ sreg f.b ++ sreg f.c
    else sreg f.a ++ sreg f.b
  | .i f =>
    if op = 0x007 then (if f.sub.getLsbD 0 then [] else sreg f.a)
    else if op = 0x00D then sreg f.a
    else if op = 0x061 then sreg f.d
    else if op < 0x080 then []
    else if op = 0x097 || op = 0x098 || op = 0x099 then []
    else if op = 0x096 || op = 0x09B then sreg f.a ++ sreg f.d
    else sreg f.a
  | .b f =>
    if op = 0x002 then (if f.cond = 6#3 || f.cond = 7#3 then sreg f.a else sreg f.a ++ sreg f.b)
    else if op = 0x004 || op = 0x006 then sreg f.a
    else []
  | .m f =>
    if op = 0x10B then []
    else if op = 0x101 || op = 0x103 then sreg f.a ++ sreg f.d
    else if op = 0x106 || op = 0x107 then sreg f.a ++ sreg f.b ++ sreg f.d
    else if op = 0x117 then sreg f.a ++ sreg f.b ++ sreg f.d
    else if 0x110 ≤ op && op ≤ 0x116 then sreg f.a ++ sreg f.b
    else sreg f.a
  | .v f =>
    (if op = 0x1BB || op = 0x1BD then sreg f.a else if op = 0x1BE then sreg f.a ++ sreg f.b else if op = 0x1BF then sreg f.b else [])
      ++ (vecSources op (.v f)).flatMap vreg
  | .x f =>
    if op = 0x1E0 || op = 0x1E6 then sreg f.a
    else if op = 0x1E4 then (if f.sub = 1#4 then sreg f.a else [])
    else if op = 0x1E5 then (vecSources op (.x f)).flatMap vreg ++ (if f.sub = 1#4 then sreg f.d else [])
    else []
  | .k f => if op = 0x0C1 || op = 0x0C8 then sreg f.a else []
  | .e f =>
    if op = 0x118 then sreg f.a ++ sreg f.b ++ sreg f.d ++ creg f
    else if 0x163 ≤ op && op ≤ 0x165 then sreg f.a ++ creg f
    else if op = 0x168 || op = 0x169 || op = 0x16A then sreg f.d ++ creg f ++ payloadRegs
    else if op = 0x16F then creg f ++ payloadRegs
    else if op = 0x16B then sreg f.a ++ sreg f.c ++ (if f.sub.getLsbD 0 then [] else sreg f.b)
    else if op = 0x170 then sreg f.a ++ sreg f.b
    else if op = 0x171 then sreg f.a
    else if op = 0x172 then sreg f.a ++ creg f ++ payloadRegs
    else if op = 0x173 then sreg f.a ++ sreg f.d
    else if 0x180 ≤ op && op ≤ 0x183 then sreg f.a
    else if op = 0x1E8 then sreg f.d ++ sreg f.a ++ sreg f.b ++ creg f
    else []

/-- The registers an instruction writes. -/
def writesOf (op : Nat) (f : Fields) : List Reg :=
  match f with
  | .hint _ => []
  | .raw _ => []
  | .pool _ => []
  | .s f =>
    if op = 0x00E || op = 0x023 || op = 0x024 || op = 0x025 || op = 0x121 || (0x040 ≤ op && op ≤ 0x05B) then sreg f.d else []
  | .i f => if op = 0x00C || 0x060 ≤ op then sreg f.d else []
  | .b f => if op = 0x005 then sreg f.b else []
  | .m f =>
    if op = 0x100 || op = 0x102 || (0x110 ≤ op && op ≤ 0x117) then sreg f.d else []
  | .v f => if op = 0x1BF then sreg f.d else vreg f.d
  | .x f => if op = 0x1E4 || op = 0x1E6 then vreg f.d else if op = 0x1E7 then sreg f.d else []
  | .k f => if op = 0x0C0 || op = 0x0C2 || op = 0x0C7 || op = 0x0C8 then sreg f.d else []
  | .e f =>
    if op = 0x162 || op = 0x16E || op = 0x184 then sreg f.d
    else if op = 0x16C then sreg f.d ++ payloadRegs
    else []

/-- The fixed latency of an instruction (R78); none for an interlocked one. A floating format decides between the rows. -/
def latencyOf (op fmt : Nat) : Option Nat :=
  if op = 0x044 || op = 0x043 || op = 0x042 || op = 0x084 || op = 0x083 || op = 0x082 then some 3
  else if (0x045 ≤ op && op ≤ 0x048) || (0x085 ≤ op && op ≤ 0x088) then none
  else if (0x040 ≤ op && op ≤ 0x05B) || (0x080 ≤ op && op ≤ 0x09B) then some 1
  else if op = 0x060 || op = 0x061 || op = 0x00C || op = 0x00D || op = 0x00E then some 1
  else if 0x002 ≤ op && op ≤ 0x007 then some 1
  else if op = 0x062 then some 2
  else if op = 0x1A2 && grpI fmt then none
  else if (op = 0x1A0 || op = 0x1A1) && grpI fmt then some 2
  else if 0x1A0 ≤ op && op ≤ 0x1A4 then (if fmt = 11 then some 6 else some 4)
  else if op = 0x1A5 || op = 0x1A6 || op = 0x1BA then none
  else if 0x1A7 ≤ op && op ≤ 0x1AA then some 6
  else if op = 0x1B7 then some 3
  else if op = 0x1B8 || op = 0x1B9 then some 6
  else if 0x1A0 ≤ op && op ≤ 0x1BF then some 2
  else none

/-- How long the vector unit takes no other V-format instruction, and how long an interlocked one of its instructions takes
to complete (R290). -/
def vecHold (op fmt : Nat) : Nat :=
  if op = 0x1A2 && grpI fmt then 3
  else if op = 0x1BA then 8
  else if op = 0x1A5 || op = 0x1A6 then (if fmt = 11 then 24 else 12)
  else if 0x1A0 ≤ op && op ≤ 0x1A4 && fmt = 11 then 2
  else 1

/-- Instructions that may set a sticky flag (R234). -/
def setsFlags (op : Nat) : Bool :=
  (0x1A0 ≤ op && op ≤ 0x1AE) || op = 0x1B7 || op = 0x1B8 || op = 0x1B9 || op = 0x1E6

end Sys2Proof.Machine
end

