-- ==== Sys2Proof/WellFormed.lean ====
section
/-! DEFINITION. Which terms of `Instr` are instructions of the device: those whose word exists and whose coded and operand
fields hold values the spec defines for them (R207, R208, check 5 of R220), and those events whose operands name agents,
ports and transactions the device has. -/
namespace Sys2Proof

/-- The operands of an event are in range: clusters below 576, core numbers `16 * cluster + index` with index below 9, tiles
and engines below four and two per cluster, launch slots below 1024, partitions below 8, islands below 24 (R13, R14, R155, R391, R414). -/
def okCore (c : Nat) : Bool := c / 16 < 576 && c % 16 < 9

/-- Events whose operands are out of range are no steps of the device. -/
def okEvent : Instr → Bool
  | .detach c => okCore c
  | .groupBusy c => okCore c
  | .copyOperation e => e < 1152
  | .compactOperation e => e < 1152
  | .fillOperation e => e < 1152
  | .passStart t => t < 2304
  | .passDeliver t => t < 2304
  | .taskStart c => okCore c
  | .leafSteal c => okCore c && c % 16 < 4
  | .taskOverrun c => okCore c
  | .parkTimeout c _ => okCore c
  | .admission p q => p < 8 && q < 4096
  | .regionTake k => k < 1024
  | .sliceEnd k => k < 1024
  | .quiescence k => k < 1024
  | .saveComplete k => k < 1024
  | .restore k _ => k < 1024
  | .boxReload k cl => k < 1024 && cl < 576
  | .boxRetire k _ => k < 1024
  | .replayStart k => k < 1024
  | .faultRingWrite p _ => p < 8
  | .setFree cl x => cl < 576 && x < 8
  | .coalesceReply cl _ => cl < 576
  | .xinvCommand p => p < 8
  | .patrolScrub x => x.stack < 16
  | .flitReplay l => l < 18
  | .wearUpdate i _ _ => i < 24
  | .thermalThrottle i _ => i < 24
  | .thermalTrip i _ => i < 24
  | .pointChangeDone i => i < 24
  | .linkDown l => l < 18
  | .linkActive l => l < 18
  | .semaphoreAcquire n a b => n < 32 && (a || b)
  | .partitionReady p => p < 8
  | .leafResetEnd t => t < 2304
  | .peerPortExchange x => x.part < 8 && x.comm < 1024
  | _ => true

/-- An instruction whose coded and operand fields are defined, or an event whose operands are in range. The three forms
of give share one opcode: each is its own variant (R267). A hint is any word of the region (R219). -/
def Instr.wellFormed (i : Instr) : Bool :=
  match i with
  | .give f => f.sub = 0#4
  | .giveRes f => f.sub = 1#4
  | .giveRel f => f.sub = 2#4
  | _ =>
    match Machine.view i with
    | some (op, f) => Machine.okFields op f
    | none => okEvent i

end Sys2Proof
end

