-- ==== Sys2Proof/Decode.lean ====
section
/-! DEFINITION. Decoding, total on any bytes (R206 to R218), and the encoder written from the same tables. -/
namespace Sys2Proof
open Sys2Proof.Machine

/-- Why bytes are not an instruction. -/
inductive DecodeError where
  /-- Fewer than eight bytes. -/
  | short
  /-- The word names this instruction, and a coded or operand field of it holds a value not defined for it (R207, R208):
  issuing it raises ILLEGAL_OP. -/
  | undefinedField (i : Instr)
deriving DecidableEq, Repr

/-- The opcode of a word (R206). -/
def opcodeOf (w : Word) : Nat := (w.extractLsb' 55 9).toNat

/-- The fields of R209. -/
def fieldsS (w : Word) : FmtS :=
  { stall := w.extractLsb' 52 3, d := w.extractLsb' 46 6, a := w.extractLsb' 40 6, b := w.extractLsb' 34 6,
    c := w.extractLsb' 28 6, amod := w.extractLsb' 16 12, lw := w.extractLsb' 13 3, sub := w.extractLsb' 10 3 }
/-- The fields of R210. -/
def fieldsI (w : Word) : FmtI :=
  { stall := w.extractLsb' 52 3, d := w.extractLsb' 46 6, a := w.extractLsb' 40 6, sub := w.extractLsb' 32 8,
    imm := w.extractLsb' 0 32 }
/-- The fields of R211. -/
def fieldsB (w : Word) : FmtB :=
  { stall := w.extractLsb' 52 3, cond := w.extractLsb' 49 3, a := w.extractLsb' 43 6, b := w.extractLsb' 37 6,
    offs := w.extractLsb' 0 32 }
/-- The fields of R212. -/
def fieldsM (w : Word) : FmtM :=
  { stall := w.extractLsb' 52 3, d := w.extractLsb' 46 6, a := w.extractLsb' 40 6, b := w.extractLsb' 34 6,
    sp := w.extractLsb' 32 2, ord := w.extractLsb' 30 2, sco := w.extractLsb' 28 2, sz := w.extractLsb' 25 3,
    sx := w.extractLsb' 24 1, hf := w.extractLsb' 23 1, hnd := w.extractLsb' 19 4, disp := w.extractLsb' 0 19 }
/-- The fields of R213. -/
def fieldsV (w : Word) : FmtV :=
  { stall := w.extractLsb' 52 3, d := w.extractLsb' 46 6, a := w.extractLsb' 40 6, b := w.extractLsb' 34 6,
    c := w.extractLsb' 28 6, amod := w.extractLsb' 16 12, fmt := w.extractLsb' 12 4, fmt2 := w.extractLsb' 8 4,
    sub := w.extractLsb' 5 3, sat := w.extractLsb' 4 1 }
/-- The fields of R214. -/
def fieldsX (w : Word) : FmtX :=
  { stall := w.extractLsb' 52 3, d := w.extractLsb' 46 6, a := w.extractLsb' 40 6, ta := w.extractLsb' 37 3,
    tb := w.extractLsb' 34 3, acc := w.extractLsb' 33 1, imm8 := w.extractLsb' 25 8, sub := w.extractLsb' 21 4 }
/-- The fields of R215. -/
def fieldsK (w : Word) : FmtK :=
  { stall := w.extractLsb' 52 3, d := w.extractLsb' 46 6, a := w.extractLsb' 40 6, mask := w.extractLsb' 32 8,
    axis := w.extractLsb' 29 3, mode := w.extractLsb' 27 2, lr := w.extractLsb' 23 4, rr := w.extractLsb' 19 4,
    join := w.extractLsb' 14 5, leaf := w.extractLsb' 10 4, sub := w.extractLsb' 8 2 }
/-- The fields of R216. -/
def fieldsE (w : Word) : FmtE :=
  { stall := w.extractLsb' 52 3, d := w.extractLsb' 46 6, a := w.extractLsb' 40 6, b := w.extractLsb' 34 6,
    c := w.extractLsb' 28 6, tag := w.extractLsb' 16 12, core := w.extractLsb' 12 4, sub := w.extractLsb' 8 4,
    hnd := w.extractLsb' 4 4, ic := w.extractLsb' 3 1 }

/-- The instruction a word names, whatever its fields hold: the opcode map of R218. -/
def decodeRaw (w : Word) : Instr :=
  match opcodeOf w with
  | 0x001 => .nop (fieldsS w)
  | 0x002 => .br (fieldsB w)
  | 0x003 => .jmp (fieldsB w)
  | 0x004 => .jmpr (fieldsB w)
  | 0x005 => .call (fieldsB w)
  | 0x006 => .ret (fieldsB w)
  | 0x007 => .rep (fieldsI w)
  | 0x008 => .endTask (fieldsS w)
  | 0x009 => .fmt (fieldsI w)
  | 0x00A => .trapOp (fieldsI w)
  | 0x00B => .brk (fieldsS w)
  | 0x00C => .csrr (fieldsI w)
  | 0x00D => .csrw (fieldsI w)
  | 0x00E => .timeOp (fieldsS w)
  | 0x00F => .resume (fieldsS w)
  | 0x010 => .abandon (fieldsS w)
  | 0x020 => .wpset (fieldsS w)
  | 0x021 => .eret (fieldsS w)
  | 0x022 => .bmapw (fieldsS w)
  | 0x023 => .ctxsave (fieldsS w)
  | 0x024 => .ctxload (fieldsS w)
  | 0x025 => .unfsave (fieldsS w)
  | 0x026 => .unfload (fieldsS w)
  | 0x027 => .halt (fieldsS w)
  | 0x03F => .poolHeaderWord { params := w.extractLsb' 54 1, count := w.extractLsb' 0 32 }
  | 0x040 => .add (fieldsS w)
  | 0x041 => .sub (fieldsS w)
  | 0x042 => .mul (fieldsS w)
  | 0x043 => .mulh (fieldsS w)
  | 0x044 => .mulhu (fieldsS w)
  | 0x045 => .divOp (fieldsS w)
  | 0x046 => .divu (fieldsS w)
  | 0x047 => .remOp (fieldsS w)
  | 0x048 => .remu (fieldsS w)
  | 0x049 => .andOp (fieldsS w)
  | 0x04A => .orOp (fieldsS w)
  | 0x04B => .xorOp (fieldsS w)
  | 0x04C => .andn (fieldsS w)
  | 0x04D => .shl (fieldsS w)
  | 0x04E => .shr (fieldsS w)
  | 0x04F => .sar (fieldsS w)
  | 0x050 => .rot (fieldsS w)
  | 0x051 => .minOp (fieldsS w)
  | 0x052 => .maxOp (fieldsS w)
  | 0x053 => .minu (fieldsS w)
  | 0x054 => .maxu (fieldsS w)
  | 0x055 => .setOp (fieldsS w)
  | 0x056 => .sel (fieldsS w)
  | 0x057 => .clz (fieldsS w)
  | 0x058 => .ctz (fieldsS w)
  | 0x059 => .popc (fieldsS w)
  | 0x05A => .bfx (fieldsS w)
  | 0x05B => .bfi (fieldsS w)
  | 0x060 => .movi (fieldsI w)
  | 0x061 => .movhi (fieldsI w)
  | 0x062 => .lit (fieldsI w)
  | 0x080 => .addImm (fieldsI w)
  | 0x081 => .subImm (fieldsI w)
  | 0x082 => .mulImm (fieldsI w)
  | 0x083 => .mulhImm (fieldsI w)
  | 0x084 => .mulhuImm (fieldsI w)
  | 0x085 => .divImm (fieldsI w)
  | 0x086 => .divuImm (fieldsI w)
  | 0x087 => .remImm (fieldsI w)
  | 0x088 => .remuImm (fieldsI w)
  | 0x089 => .andImm (fieldsI w)
  | 0x08A => .orImm (fieldsI w)
  | 0x08B => .xorImm (fieldsI w)
  | 0x08C => .andnImm (fieldsI w)
  | 0x08D => .shlImm (fieldsI w)
  | 0x08E => .shrImm (fieldsI w)
  | 0x08F => .sarImm (fieldsI w)
  | 0x090 => .rotImm (fieldsI w)
  | 0x091 => .minImm (fieldsI w)
  | 0x092 => .maxImm (fieldsI w)
  | 0x093 => .minuImm (fieldsI w)
  | 0x094 => .maxuImm (fieldsI w)
  | 0x095 => .setImm (fieldsI w)
  | 0x096 => .selImm (fieldsI w)
  | 0x097 => .clzImm (fieldsI w)
  | 0x098 => .ctzImm (fieldsI w)
  | 0x099 => .popcImm (fieldsI w)
  | 0x09A => .bfxImm (fieldsI w)
  | 0x09B => .bfiImm (fieldsI w)
  | 0x0C0 => .boxr (fieldsK w)
  | 0x0C1 => .boxn (fieldsK w)
  | 0x0C2 => .pathOp (fieldsK w)
  | 0x0C3 => .splitOp (fieldsK w)
  | 0x0C4 => .splitf (fieldsK w)
  | 0x0C5 => .prune (fieldsK w)
  | 0x0C6 => .leafOp (fieldsK w)
  | 0x0C7 => .fitq (fieldsK w)
  | 0x0C8 => .ruleq (fieldsK w)
  | 0x100 => .ld (fieldsM w)
  | 0x101 => .st (fieldsM w)
  | 0x102 => .lds (fieldsM w)
  | 0x103 => .sts (fieldsM w)
  | 0x104 => .ldq (fieldsM w)
  | 0x105 => .stq (fieldsM w)
  | 0x106 => .gather (fieldsM w)
  | 0x107 => .scatter (fieldsM w)
  | 0x108 => .pref (fieldsM w)
  | 0x109 => .flush (fieldsM w)
  | 0x10A => .inval (fieldsM w)
  | 0x10B => .fence (fieldsM w)
  | 0x110 => .aadd (fieldsM w)
  | 0x111 => .amin (fieldsM w)
  | 0x112 => .amax (fieldsM w)
  | 0x113 => .aand (fieldsM w)
  | 0x114 => .aor (fieldsM w)
  | 0x115 => .axor (fieldsM w)
  | 0x116 => .axchg (fieldsM w)
  | 0x117 => .acas (fieldsM w)
  | 0x118 => .aaddn (fieldsE w)
  | 0x120 => let f := fieldsE w; if f.sub = 1#4 then .giveRes f else if f.sub = 2#4 then .giveRel f else .give f
  | 0x121 => .bmapr (fieldsS w)
  | 0x128 => .tload (fieldsM w)
  | 0x129 => .tstore (fieldsM w)
  | 0x12A => .tstoreCol (fieldsM w)
  | 0x160 => .sems (fieldsE w)
  | 0x161 => .semw (fieldsE w)
  | 0x162 => .qstat (fieldsE w)
  | 0x163 => .ctrwait (fieldsE w)
  | 0x164 => .ctrtrig (fieldsE w)
  | 0x165 => .arrive (fieldsE w)
  | 0x168 => .send (fieldsE w)
  | 0x169 => .sendc (fieldsE w)
  | 0x16A => .sendt (fieldsE w)
  | 0x16B => .recvp (fieldsE w)
  | 0x16C => .recvx (fieldsE w)
  | 0x16D => .tagset (fieldsE w)
  | 0x16E => .tagr (fieldsE w)
  | 0x16F => .reply (fieldsE w)
  | 0x170 => .grpset (fieldsE w)
  | 0x171 => .grpfree (fieldsE w)
  | 0x172 => .mcast (fieldsE w)
  | 0x173 => .wrq (fieldsE w)
  | 0x180 => .xcopy (fieldsE w)
  | 0x181 => .xcompact (fieldsE w)
  | 0x182 => .xfill (fieldsE w)
  | 0x183 => .xred (fieldsE w)
  | 0x184 => .xstat (fieldsE w)
  | 0x1A0 => .vadd (fieldsV w)
  | 0x1A1 => .vsub (fieldsV w)
  | 0x1A2 => .vmul (fieldsV w)
  | 0x1A3 => .vfma (fieldsV w)
  | 0x1A4 => .vfms (fieldsV w)
  | 0x1A5 => .vdiv (fieldsV w)
  | 0x1A6 => .vsqrt (fieldsV w)
  | 0x1A7 => .vrcp (fieldsV w)
  | 0x1A8 => .vrsq (fieldsV w)
  | 0x1A9 => .vexp2 (fieldsV w)
  | 0x1AA => .vlog2 (fieldsV w)
  | 0x1AB => .vmin (fieldsV w)
  | 0x1AC => .vmax (fieldsV w)
  | 0x1AD => .vabs (fieldsV w)
  | 0x1AE => .vneg (fieldsV w)
  | 0x1AF => .vcmp (fieldsV w)
  | 0x1B0 => .vsel (fieldsV w)
  | 0x1B1 => .vand (fieldsV w)
  | 0x1B2 => .vor (fieldsV w)
  | 0x1B3 => .vxor (fieldsV w)
  | 0x1B4 => .vshl (fieldsV w)
  | 0x1B5 => .vshr (fieldsV w)
  | 0x1B6 => .vsar (fieldsV w)
  | 0x1B7 => .vcvt (fieldsV w)
  | 0x1B8 => .vred (fieldsV w)
  | 0x1B9 => .vscan (fieldsV w)
  | 0x1BA => .vtopk (fieldsV w)
  | 0x1BB => .vidx (fieldsV w)
  | 0x1BC => .vmov (fieldsV w)
  | 0x1BD => .vbcast (fieldsV w)
  | 0x1BE => .vins (fieldsV w)
  | 0x1BF => .vext (fieldsV w)
  | 0x1E0 => .tshape (fieldsX w)
  | 0x1E1 => .tzero (fieldsX w)
  | 0x1E2 => .mma (fieldsX w)
  | 0x1E3 => .acczero (fieldsX w)
  | 0x1E4 => .accrd (fieldsX w)
  | 0x1E5 => .accwr (fieldsX w)
  | 0x1E6 => .accepi (fieldsX w)
  | 0x1E7 => .sclwait (fieldsX w)
  | 0x1E8 => .sclsend (fieldsE w)
  | _ =>
    if 0x1F0 ≤ opcodeOf w then .hint { stall := w.extractLsb' 52 3, op := w.extractLsb' 55 4 }
    else .unassignedOpcode { stall := w.extractLsb' 52 3, op := w.extractLsb' 55 9 }

/-- The instruction of a word, refused by name where a field of it is undefined. -/
def decodeWord (w : Word) : Except DecodeError Instr :=
  if (decodeRaw w).wellFormed then .ok (decodeRaw w) else .error (.undefinedField (decodeRaw w))

/-- Decoding: the first eight bytes, little-endian (R5, R206), and the bytes that follow. -/
def decode (bs : List Byte) : Except DecodeError (Instr × List Byte) :=
  if bs.length < 8 then .error .short
  else (decodeWord (wordOfBytes (bs.take 8))).map fun i => (i, bs.drop 8)

/-- The word of an opcode and fields, every reserved field zero (R207). -/
def encodeFields (op : Nat) : Fields → Word
  | .s f => BitVec.ofNat 9 op ++ f.stall ++ f.d ++ f.a ++ f.b ++ f.c ++ f.amod ++ f.lw ++ f.sub ++ 0#10
  | .i f => BitVec.ofNat 9 op ++ f.stall ++ f.d ++ f.a ++ f.sub ++ f.imm
  | .b f => BitVec.ofNat 9 op ++ f.stall ++ f.cond ++ f.a ++ f.b ++ 0#5 ++ f.offs
  | .m f => BitVec.ofNat 9 op ++ f.stall ++ f.d ++ f.a ++ f.b ++ f.sp ++ f.ord ++ f.sco ++ f.sz ++ f.sx ++ f.hf ++ f.hnd ++ f.disp
  | .v f => BitVec.ofNat 9 op ++ f.stall ++ f.d ++ f.a ++ f.b ++ f.c ++ f.amod ++ f.fmt ++ f.fmt2 ++ f.sub ++ f.sat ++ 0#4
  | .x f => BitVec.ofNat 9 op ++ f.stall ++ f.d ++ f.a ++ f.ta ++ f.tb ++ f.acc ++ f.imm8 ++ f.sub ++ 0#21
  | .k f => BitVec.ofNat 9 op ++ f.stall ++ f.d ++ f.a ++ f.mask ++ f.axis ++ f.mode ++ f.lr ++ f.rr ++ f.join ++ f.leaf ++ f.sub ++ 0#8
  | .e f => BitVec.ofNat 9 op ++ f.stall ++ f.d ++ f.a ++ f.b ++ f.c ++ f.tag ++ f.core ++ f.sub ++ f.hnd ++ f.ic ++ 0#3
  | .hint f => 0x1F#5 ++ f.op ++ f.stall ++ 0#52
  | .raw f => f.op ++ f.stall ++ 0#52
  | .pool f => 0x03F#9 ++ f.params ++ 0#22 ++ f.count

/-- The word of an instruction; none for an event. -/
def encode (i : Instr) : Option Word := (view i).map fun p => encodeFields p.1 p.2

/-- The bytes of an instruction, as memory holds them. -/
def encodeBytes (i : Instr) : Option (List Byte) := (encode i).map fun w => bytesOf 8 w

/-- What the decoder reads from an instruction whose bits are `w`, bit 0 the least significant bit of its one 64-bit word. -/
def decodeTableWord (nbits w : Nat) : Option Instr :=
  match decode (bytesOfNat 8 (w % 2 ^ nbits)) with
  | .ok (i, _) => some i
  | .error _ => none

end Sys2Proof
end

