-- ==== Sys2Proof/Config.lean ====
section
/-! DEFINITION. What the spec leaves to the device or to its surroundings: the order of the steps of its agents (the
schedule), the fuses and the nonces of signatures, and values that it does not state. Each is an opaque constant: nothing can
be proved about a particular value (entries 1, 4, 5, 11, 21, 26 and 85 of the assumption log). -/
namespace Sys2Proof

/-- One turn of the device: the agent that takes the next step. Cores, islands and clusters are named by number:
core `16 * cluster + index`, compute island `4 * die + k`. -/
inductive Turn where
  /-- The core fetches and runs its next instruction (R77). -/
  | issue (core : Nat)
  /-- A step of the device that no instruction word stands for; an instruction here is no step. -/
  | event (i : Instr)
  /-- An engine-command parcel in flight is accepted by its copy engine (R14, R162). -/
  | engineCommand (n : Nat)
  /-- One cycle of a compute island's clock (R18, R414). -/
  | tick (island : Nat)
  /-- One cycle of the mesh clock (R18, R122). -/
  | meshTick
  /-- One nanosecond of the time base (R18). -/
  | nsTick
  /-- Surroundings: a host sends a transaction (R378). -/
  | hostSends (t : HostTx)
  /-- Surroundings: bits of one byte of device memory flip (R403, R405). -/
  | memUpset (pa : Nat) (x : Byte)
  /-- Surroundings: an error in a line's check symbols, which the code corrects (R403, R404). -/
  | memCorrected (pa : Nat)
  /-- Surroundings: a physical vector lane of an X-core, of its 33, computes its next result wrong by the pattern given (R406). -/
  | laneFault (core : Nat) (lane : Nat) (x : Word)
  /-- A home slice writes a line back and drops it (R121, R197). -/
  | sliceEvict (cluster : Nat) (line : Nat)
  /-- Surroundings: bits of a byte of an on-chip store flip (R403, R405); the access that finds them is whichever comes to it. `unit` is
  R405's CAUSE, 1 to 5; `place` is a cluster (1), a core (2, 4), a bank set `8 * cluster + set` (3) or a tile (5); `off` is a byte offset,
  for a slice or an L1 a virtual address, for a tile over its registers, accumulators, side-buffers and queues in that order. -/
  | chipUpset (unit : Nat) (place : Nat) (off : Nat) (x : Byte)
  /-- Surroundings: an error in the check bits of a word of an on-chip store, named as an upset is, is corrected (R403, R404). -/
  | chipCorrected (unit : Nat) (place : Nat) (off : Nat)
  /-- Surroundings: a router finds an uncorrectable error in the header of a parcel in flight: in TENANT, or elsewhere; its link-level
  source fields are readable or lost (R376). -/
  | headerUpset (n : Nat) (tenant lost : Bool)
  /-- Surroundings: a router corrects an error in the header of a parcel in flight (R403, R404). -/
  | headerCorrected (n : Nat)
  /-- Power is applied: a cold reset begins, at step 1 (R399). -/
  | powerOn
  /-- A write of BOOTCTL is applied and its boot begins, at step 3 (R399, R402). -/
  | bootBegins
  /-- The boot controller takes the step in progress, with what the board presents (R399). -/
  | bootStep (i : BootInput)
  /-- A write of ATTGO is applied and the report begins (R400, R401). -/
  | attestBegins
  /-- The report that is being built is signed and shown (R400, R401). -/
  | attestEnds
  /-- An uncorrectable error in the dispatcher's SRAM or the boot controller (R412). -/
  | controlUpset
deriving DecidableEq, Repr, Inhabited

/-- The turn taken when the state holds no turn still to come, by the count of turns drawn so far (entry 1). -/
opaque Config.turn : Nat → Turn

/-- The private half of the fused identity key (R401), before it is brought into the curve's range (entry 5). -/
opaque Config.idSecret : Nat

/-- The nonce of a signature, by the count of signatures made before it (R401; entry 5). -/
opaque Config.idNonce : Nat → Nat

/-- The four fused key digests (R398). -/
opaque Config.fuseKeys : List (List Byte)

/-- The revoke bit of each fused key digest (R398). -/
opaque Config.fuseRevoked : Nat → Bool

/-- The fused minimum security version (R398). -/
opaque Config.fuseMinSvn : Nat

/-- The fused serial number (R400). -/
opaque Config.fuseSerial : Word

/-- EOL of R415 where the formula's value does not fit its 32 bits: powered hours and DRIFT (entry 85). -/
opaque Config.eolBeyond : Nat → Nat → BitVec 32

/-- The value the fuses give LSTEER of an X-core at reset (R406). -/
opaque Config.fuseLsteer : Nat → Word

/-- Bits [45:40] of the root's status word after an integer sum of xred that saturated: R174 says that SAT is set there and R166
gives it no bit (entry 21). -/
opaque Config.redSat : BitVec 6

/-- Whether the spur engine of a launch with DET zero places a box on the member with the most free sets, as R46 allows:
the launch's admission number and the box's name. -/
opaque Config.placeByFree : Nat → Word → Bool

/-- The place, in the order of their keys, of the line a full slice gives up for a new one; the spec names no replacement (R20, R121;
entry 11). -/
opaque Config.victim : Nat → Nat

end Sys2Proof
end

