-- ==== Sys2Proof/Machine/State.lean ====
section
/-! DEFINITION. The state of the machine, as plain data: everything the spec gives the device, and the model's own schedule. -/
namespace Sys2Proof.Machine

/-- Why a step stops the machine. -/
inductive Fault where
  /-- Raised by a step that reaches a physical address at or above 2^40, which "reaches nothing" (R389): the spec gives
  such an access no effect. Safe: the machine stops and claims nothing further. -/
  | physicalHole (pa : Nat)
deriving DecidableEq, Repr

/-- Why the model has no meaning for a step. -/
inductive Refusal where
  /-- Answered by exec for an instruction that has no meaning yet. Safe: nothing is claimed of it. -/
  | notModelled (mnemonic : String)
deriving DecidableEq, Repr

/-- A sparse map from numbers. -/
abbrev NMap (α : Type) := List (Nat × α)

/-! ## The detector (R179 to R199, R416) -/

/-- A party of the detector: a task by its identity, with `op` 0, or one of its engine operations by issue number (R191). -/
structure Party where
  id : Nat
  op : Nat
deriving DecidableEq, Repr, Inhabited

/-- An acquire-table entry (V, n) (R195). -/
structure Acq where
  who : Party
  n : Nat
deriving DecidableEq, Repr, Inhabited

/-- The scopes (R124). -/
inductive Scope where
  | core
  | dev
  | sys
deriving DecidableEq, Repr, Inhabited

/-- One entry of a line's release record (R194): who released, the epoch, the scope class of the release and, for core
scope, the releasing core, and the launch it belongs to. -/
structure Rel where
  slot : Nat
  who : Party
  n : Nat
  coreScope : Bool
  core : Nat
deriving DecidableEq, Repr, Inhabited

/-- A writer or reader entry of a check record (R197); `weak` names the bytes of the mask that weak accesses touched,
which R182 needs: two strong accesses never race. -/
structure CEntry where
  who : Party
  stamp : Nat
  mask : Mask
  weak : Mask
deriving DecidableEq, Repr, Inhabited

/-- The summary of a check record (R197). -/
structure CSum where
  box : Word
  sw : Mask
  sr : Mask
  swWeak : Mask
  srWeak : Mask
deriving DecidableEq, Repr, Inhabited

/-- The check record of one line for one launch (R197). -/
structure Check where
  w : Option CEntry := none
  took : List CEntry := []       -- earlier accesses whose bytes `w` took over (entry 74)
  readers : List CEntry := []
  sum : Option CSum := none
  away : Bool := false   -- written to the partition's record region (R375)
deriving DecidableEq, Repr, Inhabited

/-- The kinds of task, in the order of TASKCTL.KIND (R63). -/
inductive TaskKind where
  | rule
  | join
  | leafA
  | leafX
  | handler
  | carried
  | fault
  | system
deriving DecidableEq, Repr, Inhabited

/-- Where an identity stands in the tree (R193, R347): its kind, box name and mode bits; a fault task takes the place of
the identity it serves. -/
structure Place where
  kind : TaskKind
  name : Word
  modes : BitVec 128
  serves : Option Nat
  cls : Nat
  parks : Bool := false          -- a fault task of a parked task, whose accesses count as that task's (R181)
deriving DecidableEq, Repr, Inhabited

/-- A held-back line (R183, R416). -/
structure HeldLine where
  line : Nat
  mask : Mask
  data : Line
  stamp : Nat
deriving DecidableEq, Repr, Inhabited

/-! ## Boxes (R27 to R56, R344) -/

/-- One axis of a box. -/
structure Axis where
  org : BitVec 32
  ext : BitVec 32
deriving DecidableEq, Repr, Inhabited

/-- A box: what its image shows (R28, R29). -/
structure Box where
  axes : List Axis
  name : Word
  rule : Nat
  level : Nat
  sumanc : Bool
  refused : Bool
  narrowed : Bool
  lstat : Nat
  rstat : Nat
  smode : Nat
  saxis : Nat
  tile : Nat        -- 0 to 3 bound, 4 unbound
  leaf : Nat
  modes : BitVec 128
deriving DecidableEq, Repr, Inhabited

/-- How far a box has come. -/
inductive BoxPhase where
  /-- On its way to its cluster's spur engine (R52). -/
  | travelling (src : Nat)
  /-- In the pending boxes: its rule task is not queued yet (R70). -/
  | pending
  /-- Its rule task is queued, running or parked. -/
  | ruling
  /-- The right child of a SEQ split, held (R50). -/
  | heldRight
  /-- A leaf in the wait list (R38). -/
  | leafWait
  /-- A leaf whose sets are reserved and whose A-side task is queued (R73). -/
  | leafReserved
  /-- A leaf whose tasks have started. -/
  | leafRun
  /-- Split: the join entry, with the children not yet retired. -/
  | split (left : Nat)
  /-- Its join task is to be queued. -/
  | joinPending
  /-- Its join task is queued, running or parked. -/
  | joining
  /-- Its tasks have ended: it retires when what they issued has joined (R47). -/
  | ending
deriving DecidableEq, Repr, Inhabited

/-- A box with its place in its spur engine. -/
structure BoxRec where
  box : Box
  phase : BoxPhase
  cid : Nat
  seqno : Nat
  join : Nat := 31
  acq : List Acq := []          -- inherited or merged table (R196)
  fin : List Acq := []          -- tables held at their ends by the tasks of the subtree
  ids : List Nat := []          -- identities of its own tasks
  parent : BitVec 32 := 0xFFFFFFFF#32  -- the rule task whose verdict made it, or that splits it
  verdictBy : BitVec 32 := 0xFFFFFFFF#32
  outcome : Nat := 0
  waitNo : Nat := 0             -- place in the wait list, by order of verdict (R38)
  sets : List Nat := []         -- sets reserved (R38)
  running : Nat := 0            -- tasks of a leaf still to end
  queued : Bool := false        -- a reserved leaf: its A-side task is in a run queue (R73; entry 64)
  spilled : Bool := false       -- in the save block's spill area (R53)
deriving DecidableEq, Repr, Inhabited

/-! ## Tasks (R61 to R94) -/

/-- What a core keeps for a task beside its frame (R71). -/
structure Ctx where
  pc : Word := 0
  status : Word := 0
  pfx : BitVec 32 := 0
  lc : Word := 0
  ls : Word := 0
  le : Word := 0
  btgt : Word := 0
  seed : Word := 0
  budget : BitVec 32 := 0
deriving DecidableEq, Repr, Inhabited

/-- A fault record: eight words (R91, R364). -/
structure FRec where
  fctl : Word := 0
  pc : Word := 0
  addr : Word := 0
  aux0 : Word := 0
  aux1 : Word := 0
  ctx : Word := 0
  time : Word := 0
  other : Word := 0
deriving DecidableEq, Repr, Inhabited

/-- The detector's view of a task (R189, R191, R195). -/
structure Det where
  id : Nat := 0
  epoch : Nat := 0
  acq : List Acq := []
  arm : Option (Scope × Nat) := none   -- the release a fence armed, and the epoch it covers (R189)
  seen : List Rel := []          -- release records observed since the last acquiring fence (R189)
  issued : Nat := 0              -- engine issue number (R191)
deriving DecidableEq, Repr, Inhabited

/-- A writer's digest (R409): the bytes it wrote in the window, and the sum of its atomics. -/
structure Digest where
  bytes : NMap Byte := []
  sum : Word := 0
deriving DecidableEq, Repr, Inhabited

/-- A task that has a frame: running or parked. -/
structure Task where
  handle : BitVec 32 := 0
  frame : Nat := 0
  wp : Nat := 0                    -- WP (R66)
  kind : TaskKind := .system
  slot : Option Nat := none        -- its launch; none for a system task
  cls : Nat := 0
  parent : BitVec 32 := 0xFFFFFFFF#32
  box : Option Box := none         -- the box it reads (R243)
  ctx : Ctx := {}
  det : Det := {}
  held : List HeldLine := []
  dig : Digest := {}
  fromMem : Bool := false          -- after a sys acquire: L1 misses are served from memory (R124)
  code : List Word := []           -- carried code: its payload words (R156, R242)
  frec : FRec := {}                -- parked: its record
  due : Bool := false              -- parked: its fault task is still to start (R340)
  resumed : Bool := false          -- parked: marked resumed (R71)
  debug : Bool := false            -- parked by a breakpoint of the debug ring (R370)
  parkAt : Nat := 0                -- parked: running time of the launch when it parked (R368)
  committed : Nat := 0             -- wrq: bytes committed (R169)
  sender : Option Nat := none      -- carried code: the identity of the task that sent it (R367)
  mmxNext : Option FRec := none    -- a race found at an invalidation, to raise at the next boundary (R416)
  recheck : Bool := false          -- parked by an MMX of the instruction it re-issues (R416)
deriving DecidableEq, Repr, Inhabited

/-- A task waiting to start (R69). -/
structure QTask where
  kind : TaskKind
  slot : Option Nat
  cls : Nat
  parent : BitVec 32
  pc : Word
  regs : List (Nat × Word) := []     -- scalar registers loaded by the starting mechanism
  acq : List Acq := []
  box : Option Box := none
  tag : BitVec 12 := 0
  rule : Nat := 0
  leaf : Nat := 0
  flink : BitVec 32 := 0xFFFFFFFF#32
  take : Option Nat := none          -- the handle of a pending set a give's handler takes (R109)
  code : List Word := []
  serves : Option Nat := none        -- a fault task: the identity it serves
  owner : Option (Nat × Nat) := none -- a fault parcel's operation: it joins at acceptance
  sender : Option Nat := none        -- carried code: the identity of the task that sent it (R367)
  soft : Bool := false               -- started by a software pend or a trigger, by no parcel (R153)
  buf : Bool := false                -- its fault parcel still holds an inbox buffer (R151, R367)
deriving DecidableEq, Repr, Inhabited

/-! ## Cores -/

/-- A line of an L1 (R119, R257). The list of lines of a core is in order of use, most recent first. -/
structure L1Line where
  line : Nat           -- va[48:7]
  pa : Nat             -- physical address of the line, as its fill translated it
  data : Line
  dirty : Mask
  wr : Bool            -- the fill confirmed write permission
  rd : Bool
  stamps : List (Mask × Nat)   -- stamp of the dirty bytes (R195)
  hc : Bool
deriving DecidableEq, Repr, Inhabited

/-- Who holds an attached set (R102). -/
inductive Holder where
  | task (handle : BitVec 32)
  | resident (slot : Nat)
  | pending (slot : Nat)
deriving DecidableEq, Repr, Inhabited

/-- Who is named by a source match (R157). -/
structure Recv where
  slot : Nat
  tag : BitVec 12
  src : Option (BitVec 15)
  buf : Word
  ctr : Word
  set : Option Nat            -- the set that holds the buffer
  ctrSet : Option Nat         -- the set that holds the counter
deriving DecidableEq, Repr, Inhabited

/-- An armed trigger (R168). -/
structure Trig where
  slot : Nat
  ctr : Word
  val : Word
  tag : BitVec 12
  set : Option Nat
  parent : BitVec 32
  acq : List Acq
deriving DecidableEq, Repr, Inhabited

/-- A write in flight (R77, R79): the register, the cycle of completion, and the value before it. -/
structure InFlight where
  vec : Bool
  n : Nat
  fin : Nat
  old : Line
  ilk : Bool           -- of an interlocked producer: never short, never read stale (R77)
deriving DecidableEq, Repr, Inhabited

/-- The kinds of engine operation (R162). -/
inductive EngKind where
  | copy
  | compact
  | fill
  | reduce
deriving DecidableEq, Repr, Inhabited

/-- An engine operation issued and not joined (R162, R280): with its parcel in flight, or accepted. -/
structure EngOp where
  kind : EngKind
  ref : Word                 -- descriptor reference
  head : List Word           -- the descriptor words read at issue, for the handles it named
  core : Nat                 -- issuing core, by number
  slot : Nat
  id : Nat
  handle : BitVec 32
  no : Nat                   -- issue number (R191)
  acq : List Acq             -- the issuer's accesses happen before its own (R190)
  stamp : Nat
  sets : List (Nat × Nat)    -- handle and physical set recorded at issue
  all : Bool
  peer : Bool
  cls : Nat
  lines : List (Nat × Line) := []  -- lines that coalescing windows have delivered to it at the head of its engine (R122)
deriving DecidableEq, Repr, Inhabited

/-- A parcel (R149, R170). -/
structure Parcel where
  hdr : Word
  payload : List Word
  src : Nat                          -- COREID layout; index 15 a home slice, 13 or 14 a host port
  from_ : Nat := 0                    -- the core to which a drop is reported, by number
  parent : BitVec 32 := 0xFFFFFFFF#32 -- handle of the task that caused it
  owner : Option (Nat × Nat) := none -- launch slot and identity of the task it joins for
  acq : List Acq := []               -- what its receiver acquires (R192)
  sys : Bool := false                -- a system parcel from a permitted source (R329)
  hw : Bool := false                 -- sent by hardware (a fault parcel, R367)
  part : Option Nat := none          -- the injecting partition (R386)
  port : Option Bool := none         -- injecting port: false A, true B
  give : Option Nat := none          -- a give's parcel: the handle of the pending set (R109)
  badHdr : Nat := 0                  -- 1 an uncorrectable header error, 2 in TENANT (R376)
  srcLost : Bool := false            -- its link-level source fields are lost (R376)
  waits : Bool := false              -- it waits at its destination for a free buffer (R150, R151)
  srcPart : Option Nat := none       -- partition of the source
  serves : Option Nat := none        -- a fault parcel: the identity whose place its fault task takes (R243, R367)
  fbox : Option Box := none          -- a fault parcel whose sender is no task of the launch: the box of that task (R367)
  soft : Bool := false               -- no parcel: a software pend's task that waits for a run-queue slot (R153)
  op : Option EngOp := none          -- an engine-command parcel: the operation it starts, with what its issue recorded (R162, R280)
deriving DecidableEq, Repr, Inhabited

/-- What an instruction that waits has already begun (R108, R122, R159, R172). -/
inductive Waiting where
  /-- A give between issue and detach (R108): handle, entry, target index, tag, what its receiver acquires, stall count. -/
  | giving (h : Nat) (entry : BitVec 32) (target : Nat) (tag : BitVec 12) (acq : List Acq) (stall : Nat)
  /-- A grpset or grpfree stalled since a cycle (R172). -/
  | group (since : Nat) (g : Nat)
  /-- An instruction with weak reads: the line a home slice's window will deliver to it, with the window's number, and those delivered so
  far (R122). -/
  | lines (pending : Option (Nat × Nat)) (got : List (Nat × Line))
  /-- A recvx waiting for a tag, and the parcel it took (R159). -/
  | recv (tag : BitVec 12) (got : Option Parcel)
  /-- An axchg on XINV waiting for its command; served, the old value with the release record it observed, or none where its release
  or acquire does not fit (R194, R195, R360). -/
  | inval (got : Option (Option (Word × List Rel)))
deriving DecidableEq, Repr, Inhabited

/-- What a member core records of a group (R172): generation, and whether it was freed. -/
structure GroupMark where
  gen : Nat
  freed : Bool
deriving DecidableEq, Repr, Inhabited

/-- A bank-map entry as it stood before the cycle in which another core's instruction changed it (R110). -/
structure WasMap where
  h : Nat
  cycle : Nat
  entry : BitVec 32
  holder : Option Holder
deriving DecidableEq, Repr, Inhabited

/-- A control core. -/
structure Core where
  store : NMap Word := []            -- the core-local store by 8-byte words (R61)
  seqno : Nat := 0                   -- sequence number of handles (R63)
  run : Option Task := none
  parked : List Task := []
  runq : List QTask := []            -- the run queue of 32 (R69)
  sysq : List QTask := []            -- system tasks waiting for frame 7 (R329)
  faultq : List QTask := []          -- fault tasks waiting to start (R71, R367)
  inbox : List Parcel := []          -- the 16 inbox buffers (R151)
  tags : NMap Word := []             -- tag table; bit 62 is the software pend (R152)
  tagsBy : List Nat := []            -- entries a task of the launch wrote with tagset (R94)
  tagAcq : NMap (List Acq) := []     -- what the task of a software pend that is set inherits (R190)
  gaveAt : Option (Nat × Nat) := none  -- the last give attached here: cycle and giver's core index (R110)
  bmap : NMap (BitVec 32) := []      -- BMAP0 to BMAP15 (R101)
  holders : NMap Holder := []        -- by handle (R102)
  was : List WasMap := []            -- entries changed from outside in a cycle, as they stood before it (R110)
  l1 : List L1Line := []
  prefs : List (Nat × Nat) := []     -- lines requested into the L1, with the number of the window that will deliver each (R122, R262)
  laneErr : List (Nat × Word) := []  -- physical lanes, of 33, that compute their next result wrong, with the bits that are wrong (R406)
  recvs : List Recv := []
  trigs : List Trig := []
  groups : NMap GroupMark := []
  discards : BitVec 16 := 0          -- group parcels discarded (R173)
  sysent : Word := 0
  steer : Option Word := none        -- LSTEER as software wrote it; none: as the fuses gave it (R406)
  halted : Bool := false
  ready : Nat := 0                   -- the next instruction issues in this cycle or later (R77)
  wr : List InFlight := []
  vecFree : Nat := 0                 -- the vector unit is free from this cycle (R290)
  vecFin : Nat := 0                  -- every V-format instruction issued has completed by this cycle (R290, R407)
  flagFin : Nat := 0                 -- every instruction issued that may set a flag has completed by this cycle (R234)
  wait : Option Waiting := none
deriving DecidableEq, Repr, Inhabited

/-! ## Tiles (R113 to R118, R140, R161, R270, R303 to R305) -/

/-- A pass as it was taken at its start (R303) or waits to start. -/
structure Pass where
  acc : Nat
  ta : Nat
  tb : Nat
  pfx : BitVec 32
  owner : BitVec 32                   -- handle of the issuing task
  slot : Option Nat := none           -- its launch slot; none for a system task
  id : Nat := 0                       -- its identity
deriving DecidableEq, Repr, Inhabited

/-- A pass that has started: when it leaves the unit, when it delivers, and what it computes from (R303, R304). -/
structure Running where
  pass : Pass
  started : Nat
  rowsA : Nat
  rowsB : Nat
  colsA : Nat
  colsB : Nat
  a : List Row
  b : List Row
  scaleA : List (BitVec 16)
  scaleB : List (BitVec 16)
deriving DecidableEq, Repr, Inhabited

/-- A side-buffer's fill mask and status (R140). -/
structure Side where
  fill : BitVec 256 := 0
  epoch : BitVec 8 := 0
  stale : Nat := 0
deriving DecidableEq, Repr, Inhabited

/-- A store-queue entry reserved at the issue of the instruction that fills it, and the cycle it is filled (R286). -/
structure Push where
  q : Nat
  fin : Nat
  data : Line
deriving DecidableEq, Repr, Inhabited

/-- The part of a line that an entry of a load queue still waits for, or has: the line and the number of the window that will deliver it,
where the part begins, its length, the bytes that the A-core's own earlier stores put over it, and the line once it is there (R113, R184,
R257). -/
structure Part1 where
  line : Nat := 0
  win : Nat := 0
  off : Nat := 0
  n : Nat
  mine : Line := 0
  mask : Mask := 0
  got : Option Line
deriving DecidableEq, Repr, Inhabited

/-- A load-queue entry reserved by an ldq and not yet filled, or filled behind one that is not (R113, R261). -/
structure Fill where
  q : Nat
  parts : List Part1
deriving DecidableEq, Repr, Inhabited

/-- A tile. -/
structure Tile where
  rows : NMap Row := []              -- row r of t_k at 64k + r
  shapes : NMap (BitVec 32) := []    -- unlisted: the reset value 0x0040_6001 (R115)
  entries : NMap (BitVec 16) := []   -- side-buffer entry b of row r of t_k at 256k + 4r + b
  sides : NMap Side := []
  acc : NMap (BitVec 32) := []       -- element (i, j) of acc_n at 4096n + 64i + j
  sems : NMap (BitVec 8) := []
  lq : NMap (List Line) := []
  sq : NMap (List Line) := []
  pushes : List Push := []           -- reserved entries of sq0 to sq3 still to be filled, in order of issue
  fills : List Fill := []            -- reserved entries of lq0 to lq3 still to be filled, in order of issue
  chans : NMap (List Word) := []
  discards : BitVec 16 := 0          -- queue entries discarded at the last leaf-pair end (R114)
  chanDiscards : BitVec 16 := 0      -- channel words discarded last (R161)
  waiting : Option Pass := none
  running : List Running := []       -- started and not yet delivered, oldest first
  resetEnd : Option Nat := none      -- the cycle a leaf reset ends; none when none runs (R116)
  resetDue : Bool := false           -- a leaf reset waits for earlier passes (R116)
  pair : Option (Nat × Nat) := none  -- the leaf pair present: launch slot and box name
  scaleWait : List Parcel := []      -- scale parcels to apply at the end of the cycle, or when the reset has ended (R141, R142)
deriving DecidableEq, Repr, Inhabited

/-! ## Clusters -/

/-- What a bank set is doing (R102, R105). -/
inductive SetUse where
  | free
  | reserved (slot : Nat) (name : Nat)
  | attached (core : Nat) (handle : Nat)
  | clearing (until_ : Nat)
  /-- Released by a task while an engine operation of that task that names it has not joined (R280). -/
  | draining
deriving DecidableEq, Repr, Inhabited

/-- A bank set: 16-byte scratchpad words (R95). -/
structure BankSet where
  data : NMap (BitVec 128) := []
  use : SetUse := .free
deriving DecidableEq, Repr, Inhabited

/-- A cluster. -/
structure Cluster where
  sets : NMap BankSet := []
  holder : Option Nat := none        -- the launch slot that holds it (R338)
  part : Option Nat := none          -- the partition it belongs to
  eng0 : List EngOp := []
  eng1 : List EngOp := []
  overflow : List Parcel := []       -- 64 tagged-data parcels (R158)
  nextWait : Nat := 0                -- next place in its wait list (R38)
  nextSeq : Nat := 0                 -- next SEQNO of its spur engine (R344)
  lastBox : Option (Nat × Nat) := none  -- the last box that reached it from another cluster: cycle and source (R52)
  stopped : List Nat := []           -- launch slots the dispatcher has stopped it for (R340)
  spillArea : Option Nat := none     -- offset of its spill area in the save block (R343)
deriving DecidableEq, Repr, Inhabited

/-- A line of a home slice: data, dirty bytes (R121). -/
structure SLine where
  pa : Nat
  data : Line
  dirty : Mask
deriving DecidableEq, Repr, Inhabited

/-- A leaf entry of a translation cache (R359). -/
structure Tlb where
  part : Nat
  page : Nat           -- va / 2^16, for a 32 MiB page its first
  big : Bool
  base : Nat           -- physical base
  rd : Bool
  wr : Bool
  ex : Bool
  hc : Bool
  d : Bool
deriving DecidableEq, Repr, Inhabited

/-- An entry of a walk cache (R359): level, index bits of va, table entry. -/
structure WalkEnt where
  part : Nat
  level : Nat
  idx : Nat
  entry : Word
deriving DecidableEq, Repr, Inhabited

/-- An access that consumes data: the task it is of, the party that makes it (R91), and its address (R93). -/
structure Consumer where
  slot : Nat
  id : Nat
  core : Nat
  handle : BitVec 32
  party : Nat
  addr : Nat
deriving DecidableEq, Repr, Inhabited

/-- An open coalescing window (R122): its line, its number among those of its slice, the mesh cycle it opened in, the translation that its
first read confirmed; the line as the reply was formed, where a write that could not wait has formed it; those to be answered. -/
structure Window where
  line : Nat
  no : Nat := 0
  opened : Nat
  pa : Nat := 0
  hc : Bool := false
  reply : Option Line := none
  fresh : Bool := false               -- a read after a sys acquire is among them, which memory serves (R124)
  dead : Bool := false                -- an invalidation has dropped its translation (R360)
  late : List (Nat × Line × Mask) := []  -- what a core's own write-backs have merged since the reply was formed (R184)
  cores : List Nat := []
  engs : List (Nat × Party) := []     -- copy engines, 2 * cluster + engine, each with the operation that reads
  who : List Consumer := []           -- the accesses it answers, as the consumers of an error in the line (R405)
deriving DecidableEq, Repr, Inhabited

/-- A home slice. -/
structure Slice where
  lines : NMap SLine := []
  tlb : List Tlb := []               -- at most 512, most recently used first
  walk : List WalkEnt := []          -- at most 32, most recently used first
  windows : List Window := []
  opens : Nat := 0                   -- windows opened so far
deriving DecidableEq, Repr, Inhabited

/-! ## Partitions, groups, queues -/

/-- A group (R172). -/
structure Group where
  members : List (BitVec 15) := []   -- COREID layout, in member order
  gen : Nat := 0
  installed : Bool := false
deriving DecidableEq, Repr, Inhabited

/-- An invalidation command waiting at the sequencer (R360). -/
structure XCmd where
  core : Nat
  slot : Nat
  id : Nat
  va : Nat
  operand : Word
deriving DecidableEq, Repr, Inhabited

/-- A partition. -/
structure Part where
  desc : NMap Word := []             -- the 16 words of its descriptor (R391); PCTL.V reads as `valid`
  valid : Bool := false
  preparing : Bool := false          -- R393
  groups : NMap Group := []
  rel : NMap (List Rel) := []        -- release records of lines (R194)
  xinv : List XCmd := []
  fwait : List FRec := []            -- records waiting for the fault ring (at most 256, R391)
  dwait : List FRec := []
deriving DecidableEq, Repr, Inhabited

/-- A queue resident in the dispatcher (R336). -/
structure ResQ where
  part : Nat
  q : Nat
  rhead : Nat
  qctl : Word
  rbase : Nat
  rnent : Nat
  ten : Nat
  rtail : Nat
deriving DecidableEq, Repr, Inhabited

/-- A completion record that waits to be written, or an interrupt that waits to be raised (R178). -/
structure Deferred where
  slot : Nat
  part : Nat
  ring : Nat                         -- virtual address of the ring descriptor
  hdrAddr : Nat
  lid : BitVec 32
  stat : Nat
  drops : Nat
  fsum : Word
  digest : Word
  held : Bool                        -- its launch keeps its slot until the record is written (R155)
deriving DecidableEq, Repr, Inhabited

/-- What the dispatcher keeps of an event ring to raise its interrupts (R178). -/
structure RingMark where
  part : Nat
  ring : Nat
  virt : Bool                        -- the descriptor's address is virtual (an event ring)
  last : Nat                         -- TAIL at the last interrupt
  oldest : Option Nat                -- time of the oldest unsignalled record
deriving DecidableEq, Repr, Inhabited

/-! ## Launches -/

/-- The states of a launch slot (R337). -/
inductive LState where
  | waiting
  | running
  | draining
  | saving
  | saved
  | restoring
  /-- The first run is closed and a replay is to start (R410). -/
  | replaying
  /-- Aborted; what it issued is still joining (R373). -/
  | aborting
  /-- Its record is written, or waits for its ring; a handler still runs (R155). -/
  | closing
deriving DecidableEq, Repr, Inhabited

/-- A placement region (R22). -/
structure Region where
  x0 : Nat
  y0 : Nat
  x1 : Nat
  y1 : Nat
deriving DecidableEq, Repr, Inhabited

/-- An increment of a counter's hidden list (R191): who made it, the epoch an observer acquires, and the count after it; one
of no task of the launch has `n` zero. -/
structure Incr where
  who : Party
  n : Nat
  at_ : Word
deriving DecidableEq, Repr, Inhabited

/-- The hidden list of a counter: the counter's place (0 a core store, 1 a set), the core or cluster, the offset. -/
structure CtrList where
  isSet : Bool
  unit : Nat
  off : Nat
  incs : List Incr                   -- at most four, most recent first
deriving DecidableEq, Repr, Inhabited

/-- What the device keeps of a box beside its record (R344): its maker and verdict task (R63), and the tables whose entries for
engine operations a record cannot name (R191, R196). -/
structure BoxLeft where
  parent : BitVec 32 := 0xFFFFFFFF#32
  verdictBy : BitVec 32 := 0xFFFFFFFF#32
  acq : List Acq := []
  fin : List Acq := []
  ids : List Nat := []                   -- identities of its own tasks
  phase : Option BoxPhase := none        -- a join entry whose join task has started: how far it has come (R352)
deriving DecidableEq, Repr, Inhabited

/-- What the device keeps of a core of a saved launch beside its core record (R344, R345 give these no place): the held parcels
and triggers with what their receivers acquire, who held its sets, and the lists of its counters. -/
structure Left where
  parcels : List Parcel := []
  trigs : List Trig := []
  holders : NMap Holder := []
  ctrs : List CtrList := []
  softs : List Parcel := []          -- tasks of software pends not started, with what they inherit
  tags : List Word := []             -- tag states beyond the 255 that NTAG counts, as R345 lays them out
  tagAcq : NMap (List Acq) := []
  chans : NMap (List Word) := []     -- channel words of a tile that no tile record describes (R161)
deriving DecidableEq, Repr, Inhabited

/-- A launch in a launch slot (R155, R337). -/
structure Launch where
  part : Nat
  q : Nat
  order : Nat                        -- admission order
  hdrAddr : Nat
  hdr : List Word                    -- the 32 words of the header as read at admission
  leaves : List (List Word)          -- the leaf table as read at admission
  code : List Host.Cell              -- memory as instruction fetch of this launch sees it (R87)
  tenant : Nat
  budget : BitVec 32                 -- the task budget in force (R65, R339)
  state : LState
  region : Region
  dx : Int
  dy : Int
  slice : Nat                        -- SLICE of its queue, in µs
  sliceEnd : Option Nat              -- time base at which its slice ends (R338)
  savedAt : Nat                      -- order of saving (R338)
  runNs : Nat                        -- time it has been Running (R368)
  ids : Nat                          -- next detector identity (R347)
  places : NMap Place
  checks : NMap Check
  boxes : NMap BoxRec                -- by name
  faults : Nat
  first : Option (Nat × BitVec 32)   -- code and handle of the first fault
  firstAt : Nat × Nat × Nat := (0, 0, 0)  -- its time, the core it was reported for, and that core's cycle (R373)
  drops : Nat
  digest : Word
  replay : Bool
  last : Word := 0                   -- LAST of its digest record (R410)
  abort : Option (Nat × BitVec 32)   -- code and handle that FSUM names (R373)
  obase : Nat                        -- digest window (R408)
  olen : Nat
  rootDone : Bool                    -- the root has retired
  recorded : Bool                    -- its record has been written or reported
  bwPending : Bool                   -- taking its bellwether sets (R143)
  retired : NMap Box := []           -- the boxes that have retired, as they were, by name: fault tasks may still read them (R243)
  recFull : Bool := false            -- a check record of it found its bucket full: it is to be aborted (R375)
  handles : NMap BoxLeft := []       -- by name, of boxes written out by unfsave: what R344's record has no place for
  left : NMap Left := []             -- by core, while the launch is saved
  kept : NMap Task := []             -- of tasks written out by ctxsave, by identity: what R344's record has no place for
deriving DecidableEq, Repr, Inhabited

/-! ## Things in flight -/

/-- A posted atomic on its way to its home slice (R265, R266). -/
structure Posted where
  core : Nat
  slot : Nat
  id : Nat
  handle : BitVec 32
  op : Nat                           -- OP[3:0]; 8 for aaddn
  sz : Nat
  addr : Nat
  b : Word
  cmp : Word
  rel : Option Scope                 -- the release it carries
  stamp : Nat
  epoch : Nat                        -- the epoch its release entry carries
  acq : List Acq
  notify : Option (BitVec 15 × BitVec 12 × Nat)   -- aaddn: destination, tag, class
deriving DecidableEq, Repr, Inhabited

/-- A contribution that a reduction's root has accepted and whose operation has not joined, or whose value waits (R174). -/
structure Contrib where
  member : Nat                       -- the contributing core
  eng : Nat                          -- the engine it was issued to
  op : EngOp
  fmt : Nat
  fold : Nat                         -- OP of the descriptor: 0 sum, 1 min, 2 max
  vals : List Word
  gen : Nat
  joined : Bool
  raced : List Nat := []             -- lines on which a race of the operation has been reported (R183)
deriving DecidableEq, Repr, Inhabited

/-- A reduction being gathered at its root (R174), or exchanging with its peers (R175). -/
structure Reduction where
  part : Nat
  g : Nat
  contribs : List Contrib
  stale : Bool := false              -- a contribution of a stale generation was discarded
  value : List Word := []            -- the running value between packages
  sat : Bool := false
  err : Nat := 0                     -- ERR of the root's status
  step : Nat := 0                    -- step of the peer tree
  down : Bool := false               -- the result is on its way back
  folded : Bool := false             -- the package's own fold is done
deriving DecidableEq, Repr, Inhabited

/-- A reported atomic on a queue's RTAIL (R335). -/
structure Report where
  part : Nat
  q : Nat
deriving DecidableEq, Repr, Inhabited

/-! ## Host side, boot, health -/

/-- The completion shown at a host port: status and data (R381). -/
structure Shown where
  status : Nat
  data : List Byte
deriving DecidableEq, Repr, Inhabited

/-- One host port's injection window and last completion (R385). -/
structure PortSt where
  image : NMap Word := []
  busy : Bool := false
  aborted : Nat := 0
  status : Nat := 0
  shown : Option Shown := none
  active : Bool := true
deriving DecidableEq, Repr, Inhabited

/-- Boot and attestation (R399 to R401). -/
structure Boot where
  stage : Nat := 1
  err : Nat := 0
  svn : BitVec 32 := 0
  meas : List Byte := []
  window : NMap Byte := []           -- the boot window, 4 MiB
  anonce : NMap Byte := []
  arep : List Byte := []
  asig : List Byte := []
  avalid : Bool := false
  building : Bool := false           -- a report is being built: ASTAT.BUSY (R400)
  signed : Nat := 0
  cfg2 : NMap Word := []             -- the communicator table (R397)
  links : NMap Bool := []            -- peer ports 0 to 15: active
  fsel : Word := 0
deriving DecidableEq, Repr, Inhabited

/-- An entry of a recorder ring (R411). -/
structure REntry where
  time : Nat
  seq : Nat
  kind : Nat
  part : Nat
  clid : Nat
  w0 : Word
  w1 : Word
deriving DecidableEq, Repr, Inhabited

/-- A die's recorder and error counters (R404, R411, R412). -/
structure Die where
  ring : List REntry := []           -- at most 4096, most recent first
  seq : Nat := 0
  frozen : Bool := false
  tripped : Bool := false            -- every island stopped by a thermal trip (R414)
  corrMem : Word := 0
  corrChip : Word := 0
  uncorr : Word := 0
  lane : Word := 0
  lastCorr : NMap Nat := []          -- time of the last corrected-error event by unit
deriving DecidableEq, Repr, Inhabited

/-- An island (R414, R415). -/
structure Island where
  point : Nat := 0
  wanted : Nat := 0
  target : Nat := 0                  -- the point a change in progress goes to
  changing : Bool := false
  hot : Bool := false                -- thermal control has slowed it, and it is not back at its requested point (R414)
  steppedAt : Option Nat := none     -- when thermal control last changed its point (R414)
  sensor : BitVec 16 := 0
  eol : BitVec 32 := 0xFFFFFFFF#32
  low : BitVec 32 := 0xFFFFFFFF#32
  high : BitVec 32 := 0xFFFFFFFF#32
  drift : BitVec 16 := 0
  stress : BitVec 16 := 0
deriving DecidableEq, Repr, Inhabited

/-- An interrupt raised at a host port (R178). -/
structure Irq where
  port : Bool
  vec : Nat
deriving DecidableEq, Repr, Inhabited

/-- A write to a host-coherent page as a host port carries it (R121, R378, R391): the port, the line's physical address, the bytes written. -/
structure HostOut where
  port : Bool
  pa : Nat
  mask : Mask
  data : Line
deriving DecidableEq, Repr, Inhabited

/-- The host side of the device. -/
structure Hosts where
  pa : PortSt := {}
  pb : PortSt := {}
  sems : NMap Word := []
  boot : Boot := {}
  islands : NMap Island := []
  dies : NMap Die := []
  irqs : List Irq := []
  writes : List HostOut := []        -- writes to host-coherent pages that the links have carried, in order (R378)
  ties : NMap Bool := []             -- by arbiter, the port that goes first at the next tie: false A, true B (R379)
  tx : List HostTx := []             -- transactions the ports have yet to apply, in order of arrival (R379)
deriving DecidableEq, Repr, Inhabited

/-- Clocks (R18): the cycle of each compute island, the mesh cycle, the time base. -/
structure Clocks where
  cyc : NMap Nat := []
  mesh : Nat := 0
  ns : Nat := 0
deriving DecidableEq, Repr, Inhabited

/-- The dispatcher (R334 to R338). -/
structure Dispatch where
  queues : List ResQ := []           -- at most 64
  swapped : List (Nat × Nat) := []   -- queues swapped out with entries still to take (R336)
  stopped : List (Nat × Nat) := []   -- queues stopped by QUEUE_OVERRUN (R335)
  held : List Parcel := []           -- launch parcels waiting for room (R335)
  deferred : List Deferred := []
  rings : List RingMark := []
  admitted : Nat := 0
  saves : Nat := 0
  lastDone : Option (Nat × Nat × Nat) := none  -- the launch that completed last: mesh cycle, queue, admission order (R178)
deriving DecidableEq, Repr, Inhabited

/-- The model's schedule (entry 1): the turns still to come, and how many were drawn beyond them. -/
structure Sched where
  turns : List Turn := []
  drawn : Nat := 0
deriving DecidableEq, Repr, Inhabited

/-- Bits of a word of an on-chip store that have flipped (R403): unit and place as R405 names them, the word within the place, and the
bits. One bit is corrected when the word is read; the data already shows more than one. -/
structure Upset where
  unit : Nat
  place : Nat
  word : Nat
  mask : BitVec 128
deriving DecidableEq, Repr, Inhabited

/-- The machine. -/
structure State where
  sched : Sched := {}
  cur : Nat := 0                     -- the core whose instruction runs
  clk : Clocks := {}
  mem : List Host.Cell := []         -- device memory by physical address; unlisted bytes read 0 (entry 2)
  bad : NMap (BitVec 64) := []       -- lines of memory with an uncorrectable error: their failing 16-bit symbols (R403, R405)
  flips : NMap Byte := []            -- bits of memory bytes that have flipped and that the line's code corrects (R403)
  upsets : List Upset := []          -- words of on-chip stores with flipped bits that stand there (R403)
  stuck : Bool := false              -- the step in progress has met a slice or stack of a die that a thermal trip has stopped (R414)
  cores : NMap Core := []
  tiles : NMap Tile := []
  clusters : NMap Cluster := []
  slices : NMap Slice := []
  parts : NMap Part := []
  disp : Dispatch := {}
  launches : NMap Launch := []       -- by launch slot
  net : List Parcel := []            -- parcels in flight, oldest first
  posted : List Posted := []
  reds : List Reduction := []
  ctrs : List CtrList := []
  reports : List Report := []
  host : Hosts := {}
deriving DecidableEq, Repr, Inhabited

/-- What an unlisted byte of memory reads as (entry 2). -/
def memDefault : Byte := 0

/-- The canonical form of memory: addresses strictly rising, below 2^40, no entry equal to what an unlisted one reads as. -/
def Memory.wf (m : List Host.Cell) : Bool :=
  canonical memDefault m && m.all fun e => decide (e.1 < 2 ^ 40)

/-- The machine right after a cold reset is released: STAGE 1 of R399, the time base at zero (R18), nothing running. -/
def State.reset : State := {}

end Sys2Proof.Machine
end

