-- ==== Sys2Proof/Machine/Access.lean ====
section
/-! DEFINITION. Reading and replacing parts of the state by number, the geometry of the device (R13 to R16, R61, R62),
registers and STATUS fields (R64, R67), and the codes of traps and faults (R363). -/
namespace Sys2Proof.Machine

/-! Geometry. A core is named by `16 * cluster + index`, a tile by `4 * cluster + k`, an engine by `2 * cluster + e`. -/

def cidOf (c : Nat) : Nat := c / 16
def idxOf (c : Nat) : Nat := c % 16
def coreNo (cid idx : Nat) : Nat := 16 * cid + idx
def xOf (cid : Nat) : Nat := cid % 24
def yOf (cid : Nat) : Nat := cid / 24
def cidAt (x y : Nat) : Nat := 24 * y + x
def dieOf (cid : Nat) : Nat := xOf cid / 6
/-- The compute island of a cluster, 0 to 15: `4 * die + k`. -/
def islandOf (cid : Nat) : Nat := 4 * dieOf cid + yOf cid / 6
/-- The number R414 gives a compute island. -/
def islandNo (i : Nat) : Nat := 6 * (i / 4) + i % 4
/-- The column group of a cluster (R390). -/
def groupOf (cid : Nat) : Nat := xOf cid / 3
/-- COREID layout (R66): y, x, core index. -/
def coreIdOf (c : Nat) : Nat := yOf (cidOf c) * 1024 + xOf (cidOf c) * 32 + idxOf c
/-- A core from COREID layout; x and y are read as five bits each. -/
def coreOfId (v : Nat) : Nat := coreNo (cidAt (bitsOf v 9 5) (bitsOf v 14 10)) (bitsOf v 3 0)
/-- Whether COREID layout names a core the device has. -/
def idOk (v : Nat) : Bool := bitsOf v 9 5 < 24 && bitsOf v 14 10 < 24 && bitsOf v 3 0 < 9
/-- The core a handle names (R63). -/
def coreOfHandle (h : BitVec 32) : Nat :=
  coreNo (cidAt (bitsOf h.toNat 26 22) (bitsOf h.toNat 31 27)) (bitsOf h.toNat 21 18)
/-- The frame a handle names. -/
def frameOfHandle (h : BitVec 32) : Nat := bitsOf h.toNat 17 15
/-- A handle (R63). -/
def mkHandle (c frame seq : Nat) : BitVec 32 :=
  BitVec.ofNat 32 (yOf (cidOf c) * 2 ^ 27 + xOf (cidOf c) * 2 ^ 22 + idxOf c * 2 ^ 18 + frame * 2 ^ 15 + seq % 2 ^ 15)
/-- The handle that stands for none. -/
def noHandle : BitVec 32 := 0xFFFFFFFF#32
/-- Bytes of a core's store (R61). -/
def storeSize (c : Nat) : Nat := if classOf (idxOf c) = .x then 0x10000 else 0x8000
/-- Base of a frame (R61). -/
def frameBase (c f : Nat) : Nat := if classOf (idxOf c) = .x then 0x8000 + 0x1000 * f else 0x6000 + 0x400 * f
/-- First byte above the general store (R61). -/
def generalTop (c : Nat) : Nat := frameBase c 0
/-- Bytes of a frame (R61). -/
def frameSize (c : Nat) : Nat := if classOf (idxOf c) = .x then 0x1000 else 0x400
/-- The persistent store (R94): its first byte; 4096 bytes. -/
def persistBase (c : Nat) : Nat := if classOf (idxOf c) = .x then 0x7000 else 0x5000

/-! Parts of the state. -/

def getCore (s : State) (c : Nat) : Core := look {} s.cores c
def setCore (s : State) (c : Nat) (x : Core) : State := { s with cores := put s.cores c x }
def modCore (s : State) (c : Nat) (f : Core → Core) : State := setCore s c (f (getCore s c))
def getTile (s : State) (t : Nat) : Tile := look {} s.tiles t
def setTile (s : State) (t : Nat) (x : Tile) : State := { s with tiles := put s.tiles t x }
def modTile (s : State) (t : Nat) (f : Tile → Tile) : State := setTile s t (f (getTile s t))
def getCl (s : State) (k : Nat) : Cluster := look {} s.clusters k
def setCl (s : State) (k : Nat) (x : Cluster) : State := { s with clusters := put s.clusters k x }
def modCl (s : State) (k : Nat) (f : Cluster → Cluster) : State := setCl s k (f (getCl s k))
def getSl (s : State) (k : Nat) : Slice := look {} s.slices k
def setSl (s : State) (k : Nat) (x : Slice) : State := { s with slices := put s.slices k x }
def modSl (s : State) (k : Nat) (f : Slice → Slice) : State := setSl s k (f (getSl s k))
def getPart (s : State) (p : Nat) : Part := look {} s.parts p
def setPart (s : State) (p : Nat) (x : Part) : State := { s with parts := put s.parts p x }
def modPart (s : State) (p : Nat) (f : Part → Part) : State := setPart s p (f (getPart s p))
def launchAt (s : State) (k : Nat) : Option Launch := find s.launches k
def setLaunch (s : State) (k : Nat) (l : Launch) : State := { s with launches := put s.launches k l }
def modLaunch (s : State) (k : Nat) (f : Launch → Launch) : State :=
  match launchAt s k with
  | some l => setLaunch s k (f l)
  | none => s
def dropLaunch (s : State) (k : Nat) : State := { s with launches := drop s.launches k }
def getDie (s : State) (d : Nat) : Die := look {} s.host.dies d
def modDie (s : State) (d : Nat) (f : Die → Die) : State :=
  { s with host := { s.host with dies := put s.host.dies d (f (getDie s d)) } }
def getIsland (s : State) (i : Nat) : Island := look {} s.host.islands i
def modIsland (s : State) (i : Nat) (f : Island → Island) : State :=
  { s with host := { s.host with islands := put s.host.islands i (f (getIsland s i)) } }
def getSet (k : Cluster) (n : Nat) : BankSet := look {} k.sets n
def setSet (s : State) (cid n : Nat) (x : BankSet) : State :=
  modCl s cid fun k => { k with sets := put k.sets n x }
def setUse (s : State) (cid n : Nat) (u : SetUse) : State := setSet s cid n { getSet (getCl s cid) n with use := u }

/-- The cycle of a core's island. -/
def cycOf (s : State) (c : Nat) : Nat := look 0 s.clk.cyc (islandOf (cidOf c))
/-- The cycle of a cluster's island. -/
def cycOfCl (s : State) (cid : Nat) : Nat := look 0 s.clk.cyc (islandOf cid)
/-- The partition of a core's cluster (R390); 0 where it has none, and then nothing runs there. -/
def partOf (s : State) (cid : Nat) : Nat := (getCl s cid).part.getD 0
/-- The clusters of a partition, ascending (R120). -/
def clustersOf (s : State) (p : Nat) : List Nat :=
  (List.range 576).filter fun k => (getCl s k).part = some p
/-- A descriptor word of a partition (R391). -/
def partWord (s : State) (p i : Nat) : Word := look 0 (getPart s p).desc i

/-- The running task of a core. -/
def runOf (s : State) (c : Nat) : Option Task := (getCore s c).run
/-- The running task of the core whose instruction runs. -/
def taskOf (s : State) : Task := ((getCore s s.cur).run).getD {}
def setTask (s : State) (t : Task) : State := modCore s s.cur fun c => { c with run := some t }
def modTask (s : State) (f : Task → Task) : State := setTask s (f (taskOf s))
def ctxOf (s : State) : Ctx := (taskOf s).ctx
def setCtx (s : State) (x : Ctx) : State := modTask s fun t => { t with ctx := x }
def modCtx (s : State) (f : Ctx → Ctx) : State := setCtx s (f (ctxOf s))
def setDet (s : State) (d : Det) : State := modTask s fun t => { t with det := d }
/-- The launch of the running task, with its slot. -/
def myLaunch (s : State) : Option (Nat × Launch) := do
  let k ← (taskOf s).slot
  let l ← launchAt s k
  return (k, l)

/-! Launch header fields (R22, R23). -/

def hword (l : Launch) (i : Nat) : Word := l.hdr.getD i 0
def hdrField (l : Launch) (lo w : Nat) : Nat := (field (hword l 0) lo w).toNat
def naxes (l : Launch) : Nat := hdrField l 52 4
def nrules (l : Launch) : Nat := hdrField l 47 5
def rootRule (l : Launch) : Nat := hdrField l 43 4
def nleaves (l : Launch) : Nat := hdrField l 38 5
def lclass (l : Launch) : Nat := hdrField l 36 2
def ldet (l : Launch) : Bool := bit (hword l 0) 35
def lbw (l : Launch) : Bool := bit (hword l 0) 34
def roleOf (l : Launch) (a : Nat) : Nat := hdrField l (16 + 2 * a) 2
def codeBase (l : Launch) : Word := hword l 1
def grainOf (l : Launch) (a : Nat) : Nat := (field (hword l (10 + a / 2)) (32 * (a % 2)) 32).toNat
def rootAxis (l : Launch) (a : Nat) : Axis := { org := field (hword l (2 + a)) 0 32, ext := field (hword l (2 + a)) 32 32 }
def levelOf (l : Launch) (i : Nat) : Nat × Nat := ((field (hword l 14) (9 * i + 3) 6).toNat, (field (hword l 14) (9 * i) 3).toNat)
def ruleEntry (l : Launch) (i : Nat) : BitVec 32 := field (hword l (16 + i / 2)) (32 * (i % 2)) 32
def ruleOffs (l : Launch) (i : Nat) : Nat := 8 * (field (ruleEntry l i) 14 18).toNat
def ruleDleaf (l : Launch) (i : Nat) : Nat := (field (ruleEntry l i) 10 4).toNat
def ruleFmask (l : Launch) (i : Nat) : Nat := (field (ruleEntry l i) 0 8).toNat
def paramsOf (l : Launch) : Word := hword l 25
def foldws (l : Launch) : Nat := (hword l 26).toNat
def digestPtr (l : Launch) : Nat := (hword l 27).toNat
def savePtr (l : Launch) : Nat := (hword l 28).toNat
def ringPtr (l : Launch) : Nat := (hword l 29).toNat
def faulth (l : Launch) : BitVec 32 := field (hword l 30) 0 32
def lidOf (l : Launch) : BitVec 32 := field (hword l 30) 32 32
def headerBudget (l : Launch) : BitVec 32 := field (hword l 15) 32 32
/-- Clusters of a region shifted by where the launch now stands (R22, R346), ascending. -/
def regionClusters (r : Region) (dx dy : Int) : List Nat :=
  (List.range 576).filter fun k =>
    let x : Int := xOf k - dx
    let y : Int := yOf k - dy
    decide ((r.x0 : Int) ≤ x) && decide (x ≤ r.x1) && decide ((r.y0 : Int) ≤ y) && decide (y ≤ r.y1)
def lclusters (l : Launch) : List Nat := regionClusters l.region l.dx l.dy
/-- The lowest-id cluster of a launch's region. -/
def rootCluster (l : Launch) : Nat := (lclusters l).headD 0

/-! STATUS (R67). -/

def stPriv (x : Word) : Bool := bit x 55
def stChk (x : Word) : Bool := bit x 54
def stPP (x : Word) : Bool := bit x 53
def stDS (x : Word) : Nat := (field x 49 2).toNat
def stTKN (x : Word) : Bool := bit x 48
def stRM (x : Word) : Nat := (field x 0 3).toNat
def setPP (x : Word) (b : Bool) : Word := setField x 53 (b1 b)
def setDS (x : Word) (d : Nat) (t : Bool) : Word := setField (setField x 49 (BitVec.ofNat 2 d)) 48 (b1 t)
/-- STATUS with its reserved bits zero (R8, R67). -/
def statusBits (x : Word) : Word := x &&& 0x00FF0000000003F7#64
/-- PFX with its reserved bits zero (R8, R68). -/
def pfxBits (x : BitVec 32) : BitVec 32 := x &&& 0x00FFFFC0#32
/-- Flag bits of STATUS: NX 4, UF 5, OF 6, DZ 7, NV 8, SAT 9. -/
structure Flags where
  nv : Bool := false
  dz : Bool := false
  of_ : Bool := false
  uf : Bool := false
  nx : Bool := false
  sat : Bool := false
deriving DecidableEq, Repr, Inhabited
def Flags.or (a b : Flags) : Flags :=
  ⟨a.nv || b.nv, a.dz || b.dz, a.of_ || b.of_, a.uf || b.uf, a.nx || b.nx, a.sat || b.sat⟩
/-- The sticky bits a set of flags raises. -/
def flagBits (f : Flags) : Word :=
  (b1 f.nx).setWidth 64 <<< 4 ||| (b1 f.uf).setWidth 64 <<< 5 ||| (b1 f.of_).setWidth 64 <<< 6
    ||| (b1 f.dz).setWidth 64 <<< 7 ||| (b1 f.nv).setWidth 64 <<< 8 ||| (b1 f.sat).setWidth 64 <<< 9
def orFlags (s : State) (f : Flags) : State := modCtx s fun x => { x with status := x.status ||| flagBits f }

/-! Core store and registers (R61, R62, R64). -/

def storeBytes (k : Core) (o n : Nat) : List Byte := readUnits 8 k.store o n
def storeWrite (k : Core) (o : Nat) (bs : List Byte) : Core := { k with store := writeUnits 8 k.store o bs }
def storeWord (k : Core) (o : Nat) : Word := look 0 k.store (o / 8)
def storeSetWord (k : Core) (o : Nat) (v : Word) : Core := { k with store := writeOne 0 k.store (o / 8) v }
/-- The first 8-byte word of a register in the store. -/
def regWord (wp : Nat) (r : Reg) : Nat := if r.vec then wp / 8 + 48 + 16 * r.n else wp / 8 + r.n
/-- A register as the frame holds it: the newest value in program order. -/
def frameReg (k : Core) (wp : Nat) (r : Reg) : Line :=
  if r.vec then
    BitVec.ofNat 1024 ((List.range 16).foldr (fun i acc => (look 0 k.store (regWord wp r + i)).toNat + 2 ^ 64 * acc) 0)
  else (look 0 k.store (regWord wp r)).setWidth 1024
def frameSetReg (k : Core) (wp : Nat) (r : Reg) (v : Line) : Core :=
  if r.vec then { k with store := writeRun 0 k.store (regWord wp r) ((List.range 16).map fun i => field v (64 * i) 64) }
  else { k with store := writeOne 0 k.store (regWord wp r) (v.setWidth 64) }
/-- A register as an instruction issued now reads it: the newest value whose write has completed (R79). -/
def regNow (k : Core) (wp now : Nat) (r : Reg) : Line :=
  match k.wr.find? (fun p => p.vec = r.vec && p.n = r.n && now < p.fin) with
  | some p => p.old
  | none => frameReg k wp r
/-- The writes in flight after a write of `r` that completes in cycle `fin`: an earlier write that would complete in the same
cycle or later is discarded (R79). -/
def noteWrite (wr : List InFlight) (r : Reg) (fin : Nat) (old : Line) (ilk : Bool) : List InFlight :=
  let late (p : InFlight) : Bool := p.vec = r.vec && p.n = r.n && fin ≤ p.fin
  let base := match wr.find? late with
    | some p => p.old
    | none => old
  wr.filter (fun p => !late p) ++ [{ vec := r.vec, n := r.n, fin := fin, old := base, ilk := ilk }]
/-- A register written, its value delivered `lat` cycles from now. -/
def writeReg (s : State) (r : Reg) (v : Line) (lat : Nat) (ilk : Bool) : State :=
  modCore s s.cur fun k =>
    let wp := (taskOf s).wp
    let k' := frameSetReg k wp r v
    if lat ≤ 1 && !(k.wr.any fun p => p.vec = r.vec && p.n = r.n) then k'
    else { k' with wr := noteWrite k.wr r (cycOf s s.cur + lat) (frameReg k wp r) ilk }
/-- ReadOp(scalar, f) (R208, R221). -/
def readS (s : State) (f : BitVec 6) : Word :=
  if f.toNat < 32 then (regNow (getCore s s.cur) (taskOf s).wp (cycOf s s.cur) ⟨false, f.toNat⟩).setWidth 64 else 0
/-- WriteOp(scalar, f, v) with a latency; 63 discards. -/
def writeSLat (s : State) (f : BitVec 6) (v : Word) (lat : Nat) (ilk : Bool) : State :=
  if f.toNat < 32 then writeReg s ⟨false, f.toNat⟩ (v.setWidth 1024) lat ilk else s
/-- WriteOp(scalar, f, v) of an interlocked instruction, completed with it. -/
def writeS (s : State) (f : BitVec 6) (v : Word) : State := writeSLat s f v 1 true

/-! Codes (R363). -/

def cILLEGAL_OP := 0x0001
def cILLEGAL_CLASS := 0x0002
def cILLEGAL_SLOT := 0x0003
def cILLEGAL_LOOP_END := 0x0004
def cILLEGAL_CARRIED := 0x0005
def cPREFIX_MISMATCH := 0x0006
def cPOOL_ENTRY := 0x0007
def cSTALL_SHORT := 0x0008
def cTRAP := 0x0009
def cBREAKPOINT := 0x000A
def cBAD_VERDICT := 0x000B
def cBAD_HANDLE := 0x000C
def cDETACHED := 0x0010
def cRANGE := 0x0011
def cALIGN := 0x0012
def cBANK_PROT := 0x0013
def cGIVE_INVALID := 0x0014
def cSHAPE_INVALID := 0x0015
def cSCALE_INVALID := 0x0016
def cPAGE := 0x0020
def cMMX := 0x0021
def cACQ_OVERFLOW := 0x0022
def cOVERFLOW_FULL := 0x0030
def cGROUP_BUSY := 0x0031
def cGROUP_INVALID := 0x0032
def cPARCEL_DROPPED := 0x0033
def cPARCEL_INVALID := 0x0034
def cRECV_FULL := 0x0035
def cTRIG_FULL := 0x0036
def cTAG_DENIED := 0x0037
def cDESC_INVALID := 0x0038
def cGROUP_STALE := 0x0039
def cTASK_OVERRUN := 0x0040
def cSAVE_FULL := 0x0041
def cPARK_TIMEOUT := 0x0042
def cNESTED_FAULT := 0x0043
def cRECORD_FULL := 0x0044
def cIDENT_FULL := 0x0045
def cQUEUE_OVERRUN := 0x0046
def cNO_RING := 0x0047
def cSET_BUSY := 0x0050
def cFRAME_BUSY := 0x0051
def cUNF_ACTIVE := 0x0052
def cMEM_UE := 0x0060

/-- The codes R363 lists. -/
def codeKnown (c : Nat) : Bool :=
  (1 ≤ c && c ≤ 0x0C) || (0x10 ≤ c && c ≤ 0x16) || (0x20 ≤ c && c ≤ 0x22) || (0x30 ≤ c && c ≤ 0x39)
  || (0x40 ≤ c && c ≤ 0x47) || (0x50 ≤ c && c ≤ 0x52) || c = 0x60

/-- What a trap or fault carries into its record, beside what the machine adds (R91, R93). -/
structure TrapInfo where
  code : Nat
  cause : Nat := 0
  addr : Word := 0
  aux0 : Word := 0
  aux1 : Word := 0
  other : Word := 0
  late : Bool := false   -- found at an invalidation, and raised at a later boundary (R416)
deriving DecidableEq, Repr, Inhabited

/-- Why an instruction did not complete. -/
inductive Stop where
  /-- It raises a trap or fault; the state is the one it leaves. -/
  | trap (t : TrapInfo) (s : State)
  /-- It waits: it has not issued, or holds what `Waiting` says. -/
  | wait (s : State)
  /-- A physical address that reaches nothing (R389). -/
  | hole (pa : Nat)

/-- The result of a step of an instruction. -/
abbrev Res (α : Type) := Except Stop α

def raise {α : Type} (s : State) (code : Nat) : Res α := .error (.trap { code := code } s)
def raiseAt {α : Type} (s : State) (code : Nat) (addr : Word) : Res α := .error (.trap { code := code, addr := addr } s)

/-- Where an instruction leaves the flow of control. -/
inductive Flow where
  /-- To the next instruction. -/
  | seq
  /-- A branch: taken or not; its target is in BTGT (R227). -/
  | branch (taken : Bool)
  /-- To an address (rep with count zero, R82). -/
  | jump (pc : Word)
  /-- The instruction has completed and the task parks (trap and brk, R232). -/
  | park (t : TrapInfo)
  /-- The task has ended. -/
  | over

/-- The effect of an instruction: the next state and the flow of control. -/
abbrev Body := State → Res (State × Flow)

/-- An effect that goes on to the next instruction. -/
def seqBody (f : State → Res State) : Body := fun s => (f s).map fun s' => (s', Flow.seq)

end Sys2Proof.Machine
end

