-- ==== Sys2Proof/Machine/Detect.lean ====
section
/-! DEFINITION. The detector: tree order, acquire tables, release records and check records (R188 to R198). -/
namespace Sys2Proof.Machine

/-! Box names (R27). -/

def depthOf (name : Word) : Nat := (field name 58 6).toNat
def pathOf (name : Word) : Nat := (field name 0 58).toNat
/-- The name of a child: right when `r`. -/
def childName (name : Word) (r : Bool) : Word :=
  let d := depthOf name
  BitVec.ofNat 64 ((d + 1) * 2 ^ 58 + pathOf name + (if r then 2 ^ (57 - d) else 0))
/-- The ancestor of a box at depth `d`. -/
def ancestorAt (name : Word) (d : Nat) : Word :=
  BitVec.ofNat 64 (d * 2 ^ 58 + pathOf name / 2 ^ (58 - d) * 2 ^ (58 - d))
/-- Whether `a` is a proper ancestor of `b`. -/
def properAncestor (a b : Word) : Bool := depthOf a < depthOf b && ancestorAt b (depthOf a) = a
/-- The parent of a box. -/
def parentName (name : Word) : Word := ancestorAt name (depthOf name - 1)
/-- Whether a box is the right child of its parent. -/
def isRight (name : Word) : Bool := pathOf name / 2 ^ (58 - depthOf name) % 2 = 1
/-- The depth of the deepest box whose subtree holds both. -/
def commonDepth (a b : Word) : Nat :=
  ((List.range 59).filter fun d => d ≤ depthOf a && d ≤ depthOf b && ancestorAt a d = ancestorAt b d).foldl max 0
/-- The deepest box whose subtree holds both. -/
def commonAncestor (a b : Word) : Word := ancestorAt a (commonDepth a b)
/-- The mode bits of the split at a depth (R31, R63). -/
def modeAt (m : BitVec 128) (d : Nat) : Nat := (field m (2 * d) 2).toNat

/-! Boxes of a launch by name. -/

def getBox (l : Launch) (name : Word) : Option BoxRec := find l.boxes name.toNat
/-- A box as it is, or as it was when it retired. -/
def boxNamed (l : Launch) (name : Word) : Option Box := ((getBox l name).map fun r => r.box).orElse fun _ => find l.retired name.toNat

/-! Tree order (R193). -/

def isTree (k : TaskKind) : Bool := k = .rule || k = .join || k = .leafA || k = .leafX

/-- The identity whose place an identity takes: a fault task stands for the task it serves (R193), as its start resolved it. -/
def canon (l : Launch) (i : Nat) : Nat :=
  match find l.places i with
  | some p => p.serves.getD i
  | none => i
/-- The task whose accesses an identity's count as: those of a fault task are the parked task's (R181). -/
def actor (l : Launch) (i : Nat) : Nat :=
  match find l.places i with
  | some p => if p.parks then p.serves.getD i else i
  | none => i
/-- One party, a fault task counting as the parked task it serves (R181). -/
def sameParty (l : Launch) (a b : Party) : Bool := actor l a.id = actor l b.id && a.op = b.op
def placeOf (l : Launch) (i : Nat) : Option Place := find l.places (canon l i)

/-- Tree order between two places: `a` before `b`. -/
def placeBefore (a b : Place) : Bool :=
  if !(isTree a.kind && isTree b.kind) then false
  else if a.name = b.name then a.kind = .rule && b.kind ≠ .rule
  else if properAncestor a.name b.name then a.kind = .rule
  else if properAncestor b.name a.name then b.kind = .join
  else
    let d := commonDepth a.name b.name
    modeAt b.modes d = 2 && !(isRight (ancestorAt a.name (d + 1)))

/-- R193 between two identities. -/
def treeBefore (l : Launch) (u t : Nat) : Bool :=
  match placeOf l u, placeOf l t with
  | some a, some b => placeBefore a b
  | _, _ => false

/-- An access by `u` stamped `n` is ordered before `t`, whose table is `tbl` (R196). That of an engine operation has no place in the tree
of its own: its issuer must be before `t` itself. -/
def ordered (l : Launch) (tbl : List Acq) (u : Party) (n : Nat) (t : Party) : Bool :=
  sameParty l u t || treeBefore l u.id t.id
    || tbl.any fun e => (sameParty l e.who u && n < e.n) || (u.op = 0 && treeBefore l u.id e.who.id)

/-- Every tree task of the subtree of a box is before a place (R197). -/
def subtreeBefore (b : Word) (t : Place) : Bool :=
  isTree t.kind &&
  (if t.name = b then t.kind = .join
   else if properAncestor t.name b then t.kind = .join
   else if properAncestor b t.name then false
   else
     let d := commonDepth b t.name
     modeAt t.modes d = 2 && !(isRight (ancestorAt b (d + 1))))
def afterAll (l : Launch) (tbl : List Acq) (b : Word) (t : Party) : Bool :=
  (match placeOf l t.id with
   | some p => subtreeBefore b p
   | none => false)
  || tbl.any fun e =>
    match placeOf l e.who.id with
    | some p => subtreeBefore b p
    | none => false

/-- The box of a party for a summary: a task without a place in the tree counts as the root (R197). -/
def boxOf (l : Launch) (p : Party) : Word :=
  match placeOf l p.id with
  | some q => if isTree q.kind then q.name else 0
  | none => 0

/-! Acquire tables (R195). -/

def addAcq (tbl : List Acq) (e : Acq) : List Acq :=
  if tbl.any fun x => x.who = e.who then tbl.map fun x => if x.who = e.who then { x with n := max x.n e.n } else x
  else tbl ++ [e]
/-- The table after merging entries: entries for tasks already before the task by R193 are dropped, and those of the task itself and of
engine operations whose issuer is before it (DEDUCED, entry 107); none where more than 32 entries would be left. -/
def mergeAcq (l : Launch) (t : Party) (tbl es : List Acq) : Option (List Acq) :=
  let r := (es.foldl addAcq tbl).filter fun e =>
    !(treeBefore l e.who.id t.id) && !(sameParty l e.who t)
  if r.length ≤ 32 then some r else none

/-! Release records (R194). -/

/-- The entries of a release: the releaser's own and its table. -/
def relEntries (slot : Nat) (who : Party) (n : Nat) (tbl : List Acq) (sc : Scope) (core : Nat) : List Rel :=
  (addAcq tbl { who := who, n := n }).map fun e =>
    { slot := slot, who := e.who, n := e.n, coreScope := sc = .core, core := if sc = .core then core else 0 }
def sameRel (a b : Rel) : Bool := a.slot = b.slot && a.who = b.who && a.coreScope = b.coreScope && a.core = b.core
def addRel (r : List Rel) (e : Rel) : List Rel :=
  if r.any (sameRel e) then r.map fun x => if sameRel e x then { x with n := max x.n e.n } else x else r ++ [e]
/-- A release record with a release merged; none above 32 entries. -/
def mergeRel (r es : List Rel) : Option (List Rel) :=
  let q := es.foldl addRel r
  if q.length ≤ 32 then some q else none
/-- The entries an acquire of a scope on a core takes (R194). -/
def takeRel (r : List Rel) (slot core : Nat) (sc : Scope) : List Acq :=
  (r.filter fun e => e.slot = slot && (if sc = .core then e.coreScope && e.core = core else !e.coreScope)).map
    fun e => { who := e.who, n := e.n }

/-! Check records (R197). -/

/-- Who a race names as the earlier party (R93). -/
inductive Race where
  | entry (e : CEntry)
  | summary (box : Word)

/-- Whether an access conflicts with an entry on a byte: two strong accesses never race (R182). -/
def clash (mask weak m : Mask) (strong : Bool) : Bool := (if strong then weak else mask) &&& m ≠ 0#128

/-- An entry without some bytes. -/
def CEntry.without (e : CEntry) (m : Mask) : CEntry := { e with mask := e.mask &&& ~~~m, weak := e.weak &&& ~~~m }
/-- Entries without some bytes, those with none left dropped. -/
def takenLess (es : List CEntry) (m : Mask) : List CEntry := (es.map fun e => e.without m).filter fun e => e.mask ≠ 0#128
/-- The bytes that were taken over. -/
def tookMask (c : Check) : Mask := c.took.foldl (fun a e => a ||| e.mask) 0
/-- The entries whose bytes a writer takes over: the earlier entry's own and those it took over, but for the bytes written again. -/
def takenBy (c : Check) (m : Mask) : List CEntry :=
  match c.w with
  | some e => takenLess (e.without (tookMask c) :: c.took) m
  | none => takenLess c.took m
/-- The bytes of an access that it must be ordered after the writer's entry for. A writer takes over the bytes of earlier accesses and
counts as their writer (R197, R199); an access that is ordered after the one which wrote a byte has no conflict there, whatever the
writer's later bytes of the line are (R179, R182, R318, R325, R327; DEDUCED, entry 74). -/
def ownBytes (l : Launch) (tbl : List Acq) (t : Party) (c : Check) (m : Mask) : Mask :=
  m &&& ~~~(c.took.foldl (fun a e => if ordered l tbl e.who e.stamp t then a ||| e.mask else a) (0 : Mask))

/-- An access of party `t`, table `tbl`, stamp `n`, mask `m`: the race it makes, or the record after it (R197). -/
def checkAccess (l : Launch) (tbl : List Acq) (t : Party) (n : Nat) (m : Mask) (write strong : Bool) (c : Check) :
    Except Race Check :=
  let wk : Mask := if strong then 0 else m
  let badW := match c.w with
    | some e => if clash e.mask e.weak m strong && !(ordered l tbl e.who e.stamp t)
        && clash e.mask e.weak (ownBytes l tbl t c m) strong then some e else none
    | none => none
  let badR := if write then c.readers.find? fun e => clash e.mask e.weak m strong && !(ordered l tbl e.who e.stamp t) else none
  -- bytes taken over by a writer that the summary has replaced stand with those of SW
  let old : Mask := match c.w with
    | some e => m &&& ~~~e.mask
    | none => m
  let badS := match c.sum with
    | some q =>
      let hit := clash q.sw q.swWeak m strong || (write && clash q.sr q.srWeak m strong)
        || c.took.any fun e => clash e.mask e.weak old strong && !(ordered l tbl e.who e.stamp t)
      if hit && !(afterAll l tbl q.box t) then some q.box else none
    | none => none
  match badW, badR, badS with
  | some e, _, _ => .error (.entry e)
  | none, some e, _ => .error (.entry e)
  | none, none, some b => .error (.summary b)
  | none, none, none =>
    if write then
      let rs := c.readers.filter fun e => !(ordered l tbl e.who e.stamp t)
      match c.w with
      | none => .ok { c with readers := rs, w := some { who := t, stamp := n, mask := m, weak := wk }, took := takenLess c.took m }
      | some e =>
        if ordered l tbl e.who e.stamp t then
          .ok { c with
            readers := rs
            w := some { who := t, stamp := n, mask := m ||| e.mask, weak := (e.weak &&& ~~~m) ||| wk }
            took := if sameParty l e.who t && e.stamp = n then takenLess c.took m else takenBy c m }
        else
          let q := c.sum.getD { box := commonAncestor (boxOf l e.who) (boxOf l t), sw := 0, sr := 0, swWeak := 0, srWeak := 0 }
          .ok { c with
            readers := rs
            w := none
            took := takenLess c.took m
            sum := some { q with
              box := commonAncestor q.box (commonAncestor (boxOf l e.who) (boxOf l t))
              sw := q.sw ||| (e.without (tookMask c)).mask ||| m
              swWeak := q.swWeak ||| (e.without (tookMask c)).weak ||| wk } }
    else if c.readers.any fun e => sameParty l e.who t then
      .ok { c with readers := c.readers.map fun e =>
              if sameParty l e.who t then { e with mask := e.mask ||| m, weak := e.weak ||| wk } else e }
    else if c.readers.length < 4 then
      .ok { c with readers := c.readers ++ [{ who := t, stamp := n, mask := m, weak := wk }] }
    else
      let b0 := c.readers.foldl (fun b e => commonAncestor b (boxOf l e.who)) (boxOf l t)
      let q := c.sum.getD { box := b0, sw := 0, sr := 0, swWeak := 0, srWeak := 0 }
      .ok { c with
        readers := []
        sum := some { q with
          box := commonAncestor q.box b0
          sr := c.readers.foldl (fun a e => a ||| e.mask) (q.sr ||| m)
          srWeak := c.readers.foldl (fun a e => a ||| e.weak) (q.srWeak ||| wk) } }

end Sys2Proof.Machine
end

