-- ==== Sys2Proof/Machine/Report.lean ====
section
/-! DEFINITION. Physical memory, fault records, the recorder, rings and interrupts, and records that travel as fault
parcels (R91, R176, R178, R364, R367, R391, R405, R411). -/
namespace Sys2Proof.Machine

/-! Physical memory. Addresses from 2^40 reach nothing (R389): translation stops there (`Fault.physicalHole`). -/

def memByte (s : State) (a : Nat) : Byte := look memDefault s.mem a
def memRead (s : State) (a n : Nat) : List Byte := (List.range n).map fun i => memByte s (a + i)
def memWord (s : State) (a : Nat) : Word := wordOfBytes (memRead s a 8)
def mem32 (s : State) (a : Nat) : Nat := natOfBytes (memRead s a 4)
/-- Bytes written to memory; bytes at or above 2^40 go nowhere (R389). -/
def memWrite (s : State) (a : Nat) (bs : List Byte) : State :=
  if a < 2 ^ 40 then { s with mem := writeRun memDefault s.mem a (bs.take (2 ^ 40 - a)) } else s
def memWriteWord (s : State) (a : Nat) (v : Word) : State := memWrite s a (bytesOf 8 v)
def memWrite32 (s : State) (a : Nat) (v : Nat) : State := memWrite s a (bytesOfNat 4 v)
/-- Whether a line of memory holds an uncorrectable error (R405). -/
def lineBad (s : State) (pa : Nat) : Bool := look 0 s.bad (pa / 128) ≠ 0#64
/-- How many 16-bit symbols of a line fail (R403), as a MEM_UE record's AUX1 counts them: R405 gives the field eight bits and no
coding (DESIGN CHOICE, entry 75). -/
def badSymbols (s : State) (pa : Nat) : Nat := ((List.range 64).filter fun i => bit (look 0 s.bad (pa / 128)) i).length
/-- A line of memory as a value. -/
def memLine (s : State) (pa : Nat) : Line := ofBytes 1024 (memRead s (pa / 128 * 128) 128)
/-- The masked bytes of a line written to memory. -/
def memMerge (s : State) (pa : Nat) (d : Line) (m : Mask) : State :=
  memWrite s (pa / 128 * 128) (bytesOf 128 (overlay (memLine s pa) d m))

/-- Whether the stack of an address belongs to a die that a thermal trip has stopped (R414). -/
def stackStopped (s : State) (pa : Nat) : Bool := (getDie s (bitsOf pa 15 12 / 4)).tripped
/-- The step in progress meets a part of a die; where the die has stopped it does not come about (R414; entry 99). -/
def meets (s : State) (die : Nat) : State := if (getDie s die).tripped then { s with stuck := true } else s
/-- The step in progress meets the stacks of a range of memory. -/
def meetsMem (s : State) (a n : Nat) : State := meets (meets s (bitsOf a 15 12 / 4)) (bitsOf (a + n - 1) 15 12 / 4)

/-! Fault records (R91). -/

def recWords (r : FRec) : List Word := [r.fctl, r.pc, r.addr, r.aux0, r.aux1, r.ctx, r.time, r.other]
def recOfWords (l : List Word) : FRec :=
  ⟨l.getD 0 0, l.getD 1 0, l.getD 2 0, l.getD 3 0, l.getD 4 0, l.getD 5 0, l.getD 6 0, l.getD 7 0⟩
def recBytes (r : FRec) : List Byte := (recWords r).flatMap fun w => bytesOf 8 w
/-- FCTL (R91). -/
def mkFctl (code cause party : Nat) (async pp : Bool) (ds : Nat) (h : BitVec 32) : Word :=
  BitVec.ofNat 64 (code * 2 ^ 48 + cause * 2 ^ 40 + party * 2 ^ 36 + (if async then 2 ^ 35 else 0)
    + (if pp then 2 ^ 34 else 0) + ds * 2 ^ 32 + h.toNat)
def timeNow (s : State) : Word := BitVec.ofNat 64 s.clk.ns
/-- The record of a task that parks (R91): the context is the one kept, the pc that of the instruction. -/
def parkRecord (s : State) (t : Task) (pc : Word) (st : Word) (i : TrapInfo) : FRec :=
  { fctl := mkFctl i.code i.cause 0 false (stPP t.ctx.status) (stDS st) t.handle
    pc := pc
    addr := i.addr
    aux0 := i.aux0
    aux1 := i.aux1
    ctx := BitVec.ofNat 64 (t.det.id % 2 ^ 32 * 2 ^ 32 + (if stPP t.ctx.status then 2 ^ 31 else 0)
      + (if stTKN st then 2 ^ 30 else 0) + (field t.ctx.pfx 0 24).toNat)
    time := timeNow s
    other := i.other }
/-- The record of a fault that parks no task (R91, R367). -/
def asyncRecord (s : State) (id : Nat) (h : BitVec 32) (party : Nat) (i : TrapInfo) : FRec :=
  { fctl := mkFctl i.code i.cause party true false 0 h
    pc := 0
    addr := i.addr
    aux0 := i.aux0
    aux1 := i.aux1
    ctx := BitVec.ofNat 64 (id % 2 ^ 32 * 2 ^ 32)
    time := timeNow s
    other := i.other }
def recCode (r : FRec) : Nat := (field r.fctl 48 16).toNat
def recHandle (r : FRec) : BitVec 32 := field r.fctl 0 32

/-! The recorder (R411, R412). -/

/-- An event put among those of its cycle by ascending cluster id, then kind; the later ones move up a number (R411). Events of one
TIME count as one cycle's. -/
def recInsert : List REntry → REntry → List REntry
  | [], e => [e]
  | x :: t, e =>
    if x.time = e.time && (e.clid < x.clid || (e.clid = x.clid && e.kind < x.kind)) then
      { x with seq := e.seq } :: recInsert t { e with seq := x.seq }
    else e :: x :: t
def recEvent (s : State) (die kind part clid : Nat) (w0 w1 : Word) : State :=
  if (getDie s die).frozen then s
  else modDie s die fun d =>
    { d with
      ring := (recInsert d.ring { time := s.clk.ns, seq := d.seq % 2 ^ 32, kind := kind, part := part, clid := clid, w0 := w0, w1 := w1 }).take 4096
      seq := d.seq + 1 }
/-- A freeze: a kind 10 entry on every die, and nothing more is entered. -/
def freezeRings (s : State) (kind : Nat) : State :=
  (List.range 4).foldl (fun s d =>
    modDie (recEvent s d 10 0 0 (BitVec.ofNat 64 kind) 0) d fun x => { x with frozen := true }) s
/-- A fault event (kind 3). -/
def recFault (s : State) (cid part : Nat) (r : FRec) : State := recEvent s (dieOf cid) 3 part cid r.fctl r.addr
def satInc (x : Word) : Word := if x = BitVec.allOnes 64 then x else x + 1
/-- A corrected error: counted, and entered at most once per unit and millisecond (R404, R411). -/
def corrected (s : State) (die unit cid : Nat) (aux0 : Word) : State :=
  let s := modDie s die fun d =>
    if unit = 0 then { d with corrMem := satInc d.corrMem } else { d with corrChip := satInc d.corrChip }
  if (find (getDie s die).lastCorr unit).any fun t => s.clk.ns < t + 1000000 then s
  else
    let s := recEvent s die 4 (if unit = 0 then 0 else partOf s cid) cid (BitVec.ofNat 64 unit) aux0
    modDie s die fun d => { d with lastCorr := put d.lastCorr unit s.clk.ns }

/-- Bits of a line that its code corrects are corrected in place, and counted, when the line is read (R404). -/
def fixLine (s : State) (pa : Nat) : State :=
  if s.flips.any fun f => f.1 / 128 = pa / 128 then
    corrected { s with flips := s.flips.filter fun f => f.1 / 128 ≠ pa / 128 } (bitsOf pa 15 12 / 4) 0 0 (BitVec.ofNat 64 pa)
  else s
/-- An uncorrectable error found: counted, and entered in the recorder (R404, R405). -/
def ueEvent (s : State) (die part cid cause : Nat) (aux0 : Word) : State :=
  recEvent (modDie s die fun d => { d with uncorr := satInc d.uncorr }) die 5 part cid (BitVec.ofNat 64 cause) aux0
/-- The management partition (R390). -/
def mgmtPart (s : State) : Nat :=
  ((List.range 8).find? fun p => (getPart s p).valid && bit (partWord s p 0) 62).getD 0
/-- A record that waits for a ring of its partition; where 256 wait it is lost (R391). -/
def ringWait (s : State) (p : Nat) (dbg : Bool) (r : FRec) : State :=
  modPart s p fun x =>
    if dbg then { x with dwait := (x.dwait ++ [r]).take 256 } else { x with fwait := (x.fwait ++ [r]).take 256 }
/-- MEM_UE of a line of memory as a record's words (R405); the virtual address is 0 where it is not known. -/
def lineUE (s : State) (pa va : Nat) : TrapInfo :=
  { code := cMEM_UE
    addr := BitVec.ofNat 64 va
    aux0 := BitVec.ofNat 64 pa
    aux1 := BitVec.ofNat 64 (bitsOf pa 15 12 + 256 * badSymbols s pa) }
/-- The lines of a range of memory that the device reads for itself (R404, R405). The management copy of an error goes among the records
that wait for its ring, for the ring may be what is read (DESIGN CHOICE, entry 98). -/
def linesRead (s : State) (a n : Nat) : State :=
  if s.bad.isEmpty && s.flips.isEmpty then s
  else (List.range ((a + n + 127) / 128 - a / 128)).foldl (fun s i =>
    let pa := a / 128 * 128 + 128 * i
    let s := fixLine s pa
    if lineBad s pa then
      let r := asyncRecord s 0 noHandle 0 (lineUE s pa 0)
      ringWait (recFault (ueEvent s (bitsOf pa 15 12 / 4) 0 0 0 (BitVec.ofNat 64 pa)) 0 (mgmtPart s) r) (mgmtPart s) false r
    else s) s
/-- The check bits of the lines of a range computed anew (R403): no error is left in them. -/
def recoded (s : State) (a n : Nat) : State :=
  let kept (ln : Nat) : Bool := ln < a / 128 || (a + n + 127) / 128 ≤ ln
  if s.bad.isEmpty && s.flips.isEmpty then s
  else { s with bad := s.bad.filter (fun e => kept e.1), flips := s.flips.filter fun f => kept (f.1 / 128) }
/-- Bytes that the device writes to memory for itself: the rest of their lines is read first (R403, R404). -/
def physWrite (s : State) (a : Nat) (bs : List Byte) : State := memWrite (recoded (linesRead s a bs.length) a bs.length) a bs
def physWrite32 (s : State) (a v : Nat) : State := physWrite s a (bytesOfNat 4 v)

/-! Rings and interrupts (R176, R178, R391). -/

def portActive (s : State) (b : Bool) : Bool := if b then s.host.pb.active else s.host.pa.active
/-- An interrupt on the named port, or on the other when that port's link is not active. -/
def raiseIrq (s : State) (b : Bool) (vec : Nat) : State :=
  let b' := if portActive s b then b else !b
  { s with host := { s.host with irqs := s.host.irqs ++ [{ port := b', vec := vec }] } }
def sameRing (p ring : Nat) (virt : Bool) (m : RingMark) : Bool := m.part = p && m.ring = ring && m.virt = virt
def ringMark (s : State) (p ring : Nat) (virt : Bool) (last : Nat) : RingMark :=
  (s.disp.rings.find? (sameRing p ring virt)).getD { part := p, ring := ring, virt := virt, last := last, oldest := none }
def setRingMark (s : State) (m : RingMark) : State :=
  { s with disp := { s.disp with rings := s.disp.rings.filter (fun x => !sameRing m.part m.ring m.virt x) ++ [m] } }
/-- The interrupt a ring raises after a record made TAIL what it is (R178). -/
def ringSignal (s : State) (p ring : Nat) (virt : Bool) (tail cntthr timethr vec : Nat) : State :=
  let m := ringMark s p ring virt ((tail + 2 ^ 32 - 1) % 2 ^ 32)
  if cntthr ≤ (tail + 2 ^ 32 - m.last) % 2 ^ 32 || timethr = 0 then
    setRingMark (raiseIrq s (vec / 2 ^ 31 % 2 = 1) (vec % 2 ^ 16)) { m with last := tail, oldest := none }
  else setRingMark s { m with oldest := some (m.oldest.getD s.clk.ns) }
/-- Whether a ring with its descriptor at a physical address is full. -/
def ringFull (s : State) (d : Nat) : Bool := (mem32 s (d + 24) + 2 ^ 32 - mem32 s (d + 28)) % 2 ^ 32 = mem32 s (d + 8)
/-- Where the next record of a ring goes. -/
def ringSlot (s : State) (d size : Nat) : Nat := (memWord s d).toNat + size * (mem32 s (d + 24) % max 1 (mem32 s (d + 8)))
/-- Whether a ring, its descriptor or its next slot, lies in a stack that has stopped (R414). -/
def ringStopped (s : State) (d size : Nat) : Bool := stackStopped s d || stackStopped s (ringSlot s d size)
/-- A record put on a ring whose descriptor stands at a physical address; the descriptor is read once. -/
def ringPutPhys (s : State) (p d size : Nat) (bs : List Byte) : State :=
  let s := linesRead s d 64
  let tail := mem32 s (d + 24)
  let s := physWrite s (ringSlot s d size) bs
  let s := memWrite32 (recoded s (d + 24) 4) (d + 24) ((tail + 1) % 2 ^ 32)
  ringSignal s p d false ((tail + 1) % 2 ^ 32) (mem32 s (d + 12)) (memWord s (d + 16)).toNat (mem32 s (d + 32))
/-- A record for a partition's fault ring (or debug ring): written, waiting for room in order, or lost and counted (R391). -/
def toRing (s : State) (p : Nat) (dbg : Bool) (r : FRec) : State :=
  let d := (partWord s p (if dbg then 9 else 8)).toNat
  let q := if dbg then (getPart s p).dwait else (getPart s p).fwait
  if q.isEmpty && !ringFull s d && !ringStopped s d 64 then ringPutPhys s p d 64 (recBytes r)
  else if q.length < 256 then ringWait s p dbg r
  else if stackStopped s d then s
  else
    let n := mem32 s (d + 36)
    physWrite32 s (d + 36) (if n = 2 ^ 32 - 1 then n else n + 1)
/-- Records that wait for a partition's ring go to it while there is room. -/
def pumpRing (s : State) (p : Nat) (dbg : Bool) : State :=
  let d := (partWord s p (if dbg then 9 else 8)).toNat
  (if dbg then (getPart s p).dwait else (getPart s p).fwait).foldl (fun s r =>
    let x := getPart s p
    let rest := if dbg then x.dwait else x.fwait
    if ringFull s d || ringStopped s d 64 || rest.head? ≠ some r then s
    else
      ringPutPhys (setPart s p (if dbg then { x with dwait := rest.drop 1 } else { x with fwait := rest.drop 1 })) p d 64 (recBytes r)) s
/-- A record for a partition's fault ring, entered in the recorder as well. -/
def toFaultRing (s : State) (p cid : Nat) (r : FRec) : State := toRing (recFault s cid p r) p false r

/-! Faults of launches. -/

/-- A fault counted in FSUM (R373). The first is the one reported first; of reports in one cycle, the one of the lowest cluster id and then
core index. Reports of different islands count as one cycle's where their TIME is one. -/
def countFault (s : State) (slot code : Nat) (h : BitVec 32) (core : Nat) : State :=
  modLaunch s slot fun l =>
    let f := l.firstAt
    let same : Bool := f.1 = s.clk.ns && (islandOf (cidOf f.2.1) ≠ islandOf (cidOf core) || f.2.2 = cycOf s core)
    if l.first.isNone || (same && core < f.2.1) then
      { l with faults := l.faults + 1, first := some (code, h), firstAt := (s.clk.ns, core, cycOf s core) }
    else { l with faults := l.faults + 1 }
/-- A record that parks no task: counted, entered in the recorder, and sent as a fault parcel to a core (R367). `f` says whose place,
class and box its fault task takes. -/
def sendFaultOf (s : State) (slot id core : Nat) (r : FRec) (f : Parcel → Parcel) : State :=
  let s := recFault (countFault s slot (recCode r) (recHandle r) core) (cidOf core) (partOf s (cidOf core)) r
  let p : Parcel :=
    { hdr := BitVec.ofNat 64 (3 * 2 ^ 62 + 0xD * 2 ^ 50 + xOf (cidOf core) * 2 ^ 45 + yOf (cidOf core) * 2 ^ 40
        + idxOf core * 2 ^ 36 + 8 * 2 ^ 24 + slot * 8)
      payload := recWords r
      src := coreIdOf core
      from_ := core
      parent := recHandle r
      owner := some (slot, id)
      hw := true }
  { s with net := s.net ++ [f p] }
/-- The fault task takes the place and reads the box of the task of an identity (R243). -/
def sendFaultFor (s : State) (slot id serves core : Nat) (r : FRec) : State :=
  sendFaultOf s slot id core r fun p => { p with serves := some serves }
def sendFault (s : State) (slot id core : Nat) (r : FRec) : State := sendFaultFor s slot id id core r
/-- An identity that no task has: that of a sender which is no task of the launch the record goes to (R347, R376). -/
def noIdentity : Nat := 2 ^ 32

/-- The launch slot that stands for a system task's own accesses. -/
def noSlotNo : Nat := 1024
/-- An operation of engine `e` of its cluster as the consumer of an error (R91, R405): its party is its engine. -/
def opConsumer (o : EngOp) (e va : Nat) : List Consumer :=
  if o.slot = noSlotNo then [] else [{ slot := o.slot, id := o.id, core := o.core, handle := o.handle, party := 1 + e, addr := va }]
/-- An uncorrectable error (R405): a recorder event, a record to the core of every task whose access consumed the data, with the
access's address for an error of device memory (R93), and a copy to the management partition. -/
def memUE (s : State) (who : List Consumer) (die cid : Nat) (i : TrapInfo) : State :=
  let recOf (c : Consumer) : FRec :=
    asyncRecord s c.id c.handle c.party (if i.cause = 0 then { i with addr := BitVec.ofNat 64 c.addr } else i)
  let copy : FRec := match who with
    | c :: _ => recOf c
    | [] => asyncRecord s 0 noHandle 0 i
  let s := ueEvent s die (partOf s cid) cid i.cause i.aux0
  toFaultRing (who.foldl (fun s c => sendFault s c.slot c.id c.core (recOf c)) s) (mgmtPart s) cid copy

/-- The task of a core as the consumer of an error found at an address; a system task is of no launch, and has no fault handler. -/
def consumerOf (s : State) (c addr : Nat) : List Consumer :=
  match (getCore s c).run with
  | some t => (t.slot.map fun k : Nat => ({ slot := k, id := t.det.id, core := c, handle := t.handle, party := 0, addr := addr } : Consumer)).toList
  | none => []

end Sys2Proof.Machine
end

