-- ==== Sys2Proof/Machine/Mem.lean ====
section
/-! DEFINITION. Translation, home slices, the L1, write-backs, releases and acquires, weak and strong accesses, and
instruction fetch (R17, R87, R119 to R125, R180 to R189, R255 to R259, R356 to R362, R416). -/
namespace Sys2Proof.Machine

/-- Kinds of access, in the code AUX0 gives (R93). -/
inductive Acc where
  | read
  | write
  | atomic
  | fetch
deriving DecidableEq, Repr

def accCode : Acc → Nat
  | .read => 0
  | .write => 1
  | .atomic => 2
  | .fetch => 3

/-- A translation: physical address, permissions, host-coherent (R356). -/
structure Xl where
  pa : Nat
  rd : Bool
  wr : Bool
  hc : Bool
deriving DecidableEq, Repr, Inhabited

/-- Why a translation fails: a PAGE cause, or an address that reaches nothing. -/
inductive XErr where
  | page (cause : Nat)
  | hole (pa : Nat)
deriving DecidableEq, Repr

/-- The home slice of a line (R120): a cluster id. -/
def homeOf (s : State) (p ln : Nat) : Nat :=
  let cs := clustersOf s p
  cs.getD (pick ln cs.length) 0

/-! The walk (R356, R357). -/

def pteV (e : Word) : Bool := bit e 63
def pteType (e : Word) : Nat := (field e 61 2).toNat
def pteAddr (e : Word) : Nat := (field e 12 32).toNat * 2 ^ 12
/-- check(e, l) of R357: none, or the cause. -/
def pteCheck (e : Word) (lvl : Nat) : Option Nat :=
  if !(pteV e) then some 1
  else if 2 ≤ pteType e || field e 44 11 ≠ 0#11 then some 2
  else
    let leaf := pteType e = 1
    let align := if leaf then (if lvl = 1 then 2 ^ 25 else 2 ^ 16) else (if lvl = 0 then 2 ^ 15 else 2 ^ 12)
    if (leaf && lvl = 0) || (lvl = 2 && !leaf) || pteAddr e % align ≠ 0 then some 2 else none
/-- A table entry read from memory (R357), with the report of an uncorrectable error (R405). -/
def readPte (s : State) (h a : Nat) : State × Except XErr Word :=
  let s := meets (fixLine s a) (bitsOf a 15 12 / 4)
  if 2 ^ 40 ≤ a then (s, .error (.hole a))
  else if lineBad s a then
    (memUE s [] (bitsOf a 15 12 / 4) h (lineUE s a 0), .error (.page 6))
  else (s, .ok (memWord s a))
/-- The permission check of a leaf, in the cause order of R358. -/
def leafCause (k : Acc) (rd wr ex : Bool) : Option Nat :=
  match k with
  | .read => if rd then none else some 3
  | .write => if wr then none else some 4
  | .atomic => if !rd then some 3 else if !wr then some 4 else none
  | .fetch => if ex && rd then none else some 5
def isWriteAcc (k : Acc) : Bool := k = .write || k = .atomic

/-- The index bits of an address at a level of the tables (R356). -/
def vaIndex (va lvl : Nat) : Nat := if lvl = 0 then bitsOf va 48 37 else if lvl = 1 then bitsOf va 36 25 else bitsOf va 24 16
/-- The walk from a table entry at a level; `a` is the entry's address. The leaf, and the pointer entries passed, deepest first. -/
def walkFrom : Nat → State → Nat → Nat → Nat → Nat → List (Nat × Word) → State × Except XErr (Nat × Word × Nat × List (Nat × Word))
  | 0, s, _, _, _, _, _ => (s, .error (.page 2))
  | n + 1, s, h, va, lvl, a, seen =>
    match readPte s h a with
    | (s, .error e) => (s, .error e)
    | (s, .ok e) =>
      match pteCheck e lvl with
      | some c => (s, .error (.page c))
      | none =>
        if pteType e = 1 then (s, .ok (a, e, lvl, seen))
        else walkFrom n s h va (lvl + 1) (pteAddr e + 8 * vaIndex va (lvl + 1)) ((lvl, e) :: seen)

def tlbHit (p va : Nat) (t : Tlb) : Bool :=
  t.part = p && (if t.big then t.page / 512 = va / 2 ^ 25 else t.page = va / 2 ^ 16)
def xlOf (t : Tlb) (va : Nat) : Xl :=
  { pa := t.base + va % (if t.big then 2 ^ 25 else 2 ^ 16), rd := t.rd, wr := t.wr, hc := t.hc }

/-- The walk a slice makes for a miss, starting at what its walk cache holds (R357, R359). -/
def walk (s : State) (p h va : Nat) : State × Except XErr (Nat × Word × Nat × List (Nat × Word)) :=
  let w := (getSl s h).walk
  match w.find? (fun e => e.part = p && e.level = 1 && e.idx = bitsOf va 48 25) with
  | some e => walkFrom 3 s h va 2 (pteAddr e.entry + 8 * vaIndex va 2) [(1, e.entry)]
  | none =>
    match w.find? (fun e => e.part = p && e.level = 0 && e.idx = bitsOf va 48 37) with
    | some e => walkFrom 3 s h va 1 (pteAddr e.entry + 8 * vaIndex va 1) [(0, e.entry)]
    | none => walkFrom 3 s h va 0 ((partWord s p 4).toNat + 8 * vaIndex va 0) []
/-- The pointer entries a walk used, from the tables or from the walk cache, kept in the walk cache of 32 (R359). -/
def noteWalk (s : State) (p h va : Nat) (seen : List (Nat × Word)) : State :=
  let new : List WalkEnt := seen.map fun q => ⟨p, q.1, if q.1 = 0 then bitsOf va 48 37 else bitsOf va 48 25, q.2⟩
  modSl s h fun x =>
    { x with walk := (new ++ x.walk.filter fun w => !(new.any fun n => n.part = w.part && n.level = w.level && n.idx = w.idx)).take 32 }

/-- Translation at a home slice (R357 to R359): the translation cache of 512 entries, else a walk that sets A, and D for a
write, when the leaf grants the access. -/
def translate (s : State) (p h va : Nat) (k : Acc) : State × Except XErr Xl :=
  let s := meets s (dieOf h)
  if 2 ^ 49 ≤ va then (s, .error (.page 0))
  else
    match (getSl s h).tlb.find? (fun t => tlbHit p va t && (t.d || !isWriteAcc k || !t.wr)) with
    | some t =>
      let s := modSl s h fun x => { x with tlb := t :: x.tlb.filter (· ≠ t) }
      match leafCause k t.rd t.wr t.ex with
      | some c => (s, .error (.page c))
      | none => (s, .ok (xlOf t va))
    | none =>
      match walk s p h va with
      | (s, .error e) => (s, .error e)
      | (s, .ok (a, e, lvl, seen)) =>
        match leafCause k (bit e 60) (bit e 59) (bit e 58) with
        | some c => (s, .error (.page c))
        | none =>
          let dSet := isWriteAcc k || bit e 55
          let e' := e ||| (1#64 <<< 56) ||| (if isWriteAcc k then 1#64 <<< 55 else 0)
          let s := if e' = e then s else physWrite s a (bytesOf 8 e')
          let big := lvl = 1
          let t : Tlb :=
            { part := p, page := if big then va / 2 ^ 25 * 512 else va / 2 ^ 16, big := big, base := pteAddr e,
              rd := bit e 60, wr := bit e 59, ex := bit e 58, hc := bit e 57, d := dSet }
          let s := modSl (noteWalk s p h va seen) h fun x =>
            { x with tlb := (t :: x.tlb.filter fun u => !(tlbHit p va u)).take 512 }
          let r := xlOf t va
          if 2 ^ 40 ≤ r.pa then (s, .error (.hole r.pa)) else (s, .ok r)

/-- A translation for an instruction: PAGE as R93 records it. -/
def xlate (s : State) (p h va : Nat) (k : Acc) (lgSize : Nat) (aux1 : Word := 0) : Res (State × Xl) :=
  match translate s p h va k with
  | (s, .ok x) => .ok (s, x)
  | (_, .error (.hole a)) => .error (.hole a)
  | (s, .error (.page c)) =>
    .error (.trap { code := cPAGE, cause := c, addr := BitVec.ofNat 64 va, aux0 := BitVec.ofNat 64 (accCode k + 256 * lgSize), aux1 := aux1 } s)

/-! Home slices (R121). -/

/-- Lines never kept in a slice: host-coherent pages, and XINV's line (R121, R360). -/
def uncached (s : State) (p : Nat) (x : Xl) : Bool := x.hc || x.pa / 128 = (partWord s p 6).toNat / 128
/-- The error of a memory line that is read (R403 to R405): bits that its code corrects are corrected in place and counted; one it
cannot correct is reported. -/
def readBad (s : State) (h pa ln : Nat) (who : List Consumer) : State :=
  let s := fixLine s pa
  if lineBad s pa then
    memUE s who (bitsOf pa 15 12 / 4) h (lineUE s pa (128 * ln))
  else s
/-- The lines of a range of memory that a unit of the device reads by physical address: an error is reported as one no task's access
consumed (R404, R405). -/
def tableRead (s : State) (a n : Nat) : State :=
  let s := meetsMem s a n
  if s.bad.isEmpty && s.flips.isEmpty then s
  else (List.range ((a + n + 127) / 128 - a / 128)).foldl (fun s i => readBad s 0 (a / 128 * 128 + 128 * i) 0 []) s
/-- A write of the QCTL of a stopped queue that leaves V one: the dispatcher reloads its descriptor at the next submission (R335). -/
def qctlSeen (s : State) (a n : Nat) : State :=
  let again (q : Nat × Nat) : Bool :=
    let d := (partWord s q.1 5).toNat + 64 * q.2
    d < a + n && a < d + 8 && bit (memWord s d) 63
  if s.disp.stopped.any again then
    { s with disp := { s.disp with
      queues := s.disp.queues.filter fun r => !(s.disp.stopped.any fun q => again q && q = (r.part, r.q))
      stopped := s.disp.stopped.filter fun q => !(again q) } }
  else s
/-- A line written to memory: the controller computes its check bytes anew; an error it held is reported first (R405). -/
def lineToMem (s : State) (h ln pa : Nat) (d : Line) (m : Mask) : State :=
  let s := meets (if m = BitVec.allOnes 128 then s else readBad s h pa ln []) (bitsOf pa 15 12 / 4)
  let s := memMerge (recoded s pa 1) pa d m
  if s.disp.stopped.isEmpty then s
  else (List.range 16).foldl (fun s i => if field m (8 * i) 8 = 0#8 then s else qctlSeen s (pa + 8 * i) 8) s
/-- A check record comes back with its line (R197, R375): its place in the region is free again. -/
def bucketAddr (s : State) (p ln : Nat) : Nat :=
  let n := 2 ^ (field (partWord s p 0) 48 6).toNat / 1024
  (partWord s p 7).toNat + 1024 * pick ln n
def crecMatch (s : State) (a ln slot : Nat) : Bool :=
  (memWord s a).toNat = 128 * ln && mem32 s (a + 8) / 2 ^ 31 = 1 && mem32 s (a + 8) % 1024 = slot
def recordBack (s : State) (p ln : Nat) : State :=
  s.launches.foldl (fun s e =>
    match find e.2.checks ln with
    | some c =>
      if c.away && e.2.part = p then
        let b := bucketAddr s p ln
        let s := (List.range 4).foldl (fun s i => if crecMatch s (b + 256 * i) ln e.1 then physWrite32 s (b + 256 * i + 8) 0 else s)
          (tableRead s b 1024)
        modLaunch s e.1 fun l => { l with checks := put l.checks ln { c with away := false } }
      else s
    | none => s) s
/-- A slice's dirty bytes of one line written to memory. -/
def flushLine (s : State) (h ln : Nat) : State :=
  match find (getSl s h).lines ln with
  | some e =>
    if e.dirty = 0#128 then s
    else modSl (lineToMem (meets s (dieOf h)) h ln e.pa e.data e.dirty) h fun y => { y with lines := put y.lines ln { e with dirty := 0 } }
  | none => s

/-! Check records leave with their line (R197, R375). -/

def centryBytes (e : Option CEntry) : List Byte :=
  match e with
  | some e => bytesOfNat 4 e.who.id ++ bytesOfNat 4 e.stamp ++ bytesOf 16 e.mask ++ List.replicate 8 (0 : Byte)
  | none => List.replicate 32 (0 : Byte)
/-- A check record as R375 lays it out. -/
def checkBytes (ln slot : Nat) (c : Check) : List Byte :=
  bytesOfNat 8 (128 * ln) ++ bytesOfNat 4 (2 ^ 31 + slot) ++ bytesOfNat 4 0 ++ centryBytes c.w
    ++ (List.range 4).flatMap (fun i => centryBytes c.readers[i]?)
    ++ (match c.sum with
        | some q => bytesOf 8 q.box ++ bytesOf 16 q.sw ++ bytesOf 16 q.sr
        | none => List.replicate 40 (0 : Byte))
    ++ List.replicate 40 (0 : Byte)
/-- Whether a place of a bucket is free: not valid, or of a launch that is no longer running. -/
def placeFree (s : State) (a : Nat) : Bool :=
  let w := mem32 s (a + 8)
  w / 2 ^ 31 = 0 ||
  (match launchAt s (w % 1024) with
   | some l => (match find l.checks ((memWord s a).toNat / 128) with
      | some c => !c.away
      | none => true)
   | none => true)
/-- The check record of a line of one launch written to the partition's region; where its bucket is full the launch is to be
aborted with RECORD_FULL (R375). -/
def recordAway (s : State) (p ln slot : Nat) (c : Check) : State :=
  let b := bucketAddr s p ln
  let s := tableRead s b 1024
  match (List.range 4).find? fun i => placeFree s (b + 256 * i) with
  | some i =>
    modLaunch (physWrite s (b + 256 * i) (checkBytes ln slot c)) slot fun l => { l with checks := put l.checks ln { c with away := true } }
  | none => modLaunch s slot fun l => { l with recFull := true }
/-- A slice writes a line back and drops it; its check records go to the region (R121, R197). -/
def evict (s : State) (cid ln : Nat) : State :=
  match find (getSl s cid).lines ln with
  | none => s
  | some _ =>
    let s := modSl (flushLine (meets s (dieOf cid)) cid ln) cid fun x => { x with lines := drop x.lines ln }
    let p := partOf s cid
    s.launches.foldl (fun s e =>
      if e.2.part = p then
        match find e.2.checks ln with
        | some c => if c.away || c = {} then s else recordAway s p ln e.1 c
        | none => s
      else s) s
/-- Lines a slice holds: 1 MiB (R20). -/
def sliceLines : Nat := 8192
/-- Room for one more line in a slice: a full one writes a line back and drops it (R20, R121; entry 11). -/
def sliceRoom (s : State) (h : Nat) : State :=
  let ls := (getSl s h).lines
  if ls.length < sliceLines then s
  else
    match ls[Config.victim ls.length % ls.length]? with
    | some e => evict s h e.1
    | none => s

/-- A line at its home slice: kept there, or read from memory and then kept unless it is never cached. `fresh` reads memory
anew, under the slice's dirty bytes (R124). A slice holds 1 MiB (R20). -/
def sliceLine (s : State) (p h ln : Nat) (x : Xl) (fresh : Bool) (who : List Consumer) : State × Line :=
  let pa := x.pa / 128 * 128
  let s := meets s (dieOf h)
  let fromMem (s : State) : State := readBad (meets s (bitsOf pa 15 12 / 4)) h pa ln who
  if uncached s p x then (fromMem s, memLine s pa)
  else
    match find (getSl s h).lines ln with
    | some e =>
      if fresh then
        let d := overlay (memLine s pa) e.data e.dirty
        (modSl (fromMem s) h fun y => { y with lines := put y.lines ln { e with data := d } }, d)
      else (s, e.data)
    | none =>
      let d := memLine s pa
      let s := recordBack (sliceRoom (fromMem s) h) p ln
      (modSl s h fun y => { y with lines := put y.lines ln { pa := pa, data := d, dirty := 0 } }, d)
/-- A write that reaches a slice while a coalescing window is open applies after the reply: the reply is formed first (R122). -/
def formReply (s : State) (h ln : Nat) (d : Line) : State :=
  modSl s h fun y => { y with windows := y.windows.map fun w =>
    if w.line = ln && w.reply = none then { w with reply := some d } else w }
/-- A write to a host-coherent page as the link carries it: on the port that HPORT names, or the other where its link is not active
(R378, R391). -/
def hostCarries (s : State) (p pa : Nat) (d : Line) (m : Mask) : State :=
  let b := bit (partWord s p 12) 16
  let out : HostOut := { port := if portActive s b then b else !b, pa := pa, mask := m, data := d }
  { s with host := { s.host with writes := s.host.writes ++ [out] } }
/-- Masked bytes written at a slice. A reply that a window forms before them delivers an error of the line to those that wait. -/
def sliceMerge (s : State) (p h ln : Nat) (x : Xl) (d : Line) (m : Mask) : State :=
  let ws := (getSl s h).windows.filter fun w => w.line = ln && w.reply.isNone
  let (s, old) := sliceLine s p h ln x (ws.any (·.fresh)) (ws.flatMap (·.who))
  let s := formReply s h ln old
  if uncached s p x then
    let s := lineToMem s h ln (x.pa / 128 * 128) d m
    if x.hc then hostCarries s p (x.pa / 128 * 128) d m else s
  else
    modSl s h fun y =>
      match find y.lines ln with
      | some e => { y with lines := put y.lines ln { e with data := overlay e.data d m, dirty := e.dirty ||| m } }
      | none => y
/-- Every dirty byte of the slices of a partition written to memory (the sys-scope release of R124). -/
def flushSlices (s : State) (p : Nat) : State :=
  s.slices.foldl (fun s e =>
    if (getCl s e.1).part = some p then e.2.lines.foldl (fun s l => flushLine s e.1 l.1) s else s) s

/-! The detector at the slice (R183, R197). -/

def raceTrap (ln : Nat) (m : Mask) (r : Race) : TrapInfo :=
  let base : TrapInfo := { code := cMMX, addr := BitVec.ofNat 64 (128 * ln), aux0 := field m 0 64, aux1 := field m 64 64 }
  match r with
  | .entry e => { base with other := BitVec.ofNat 64 (e.who.id % 2 ^ 32 * 2 ^ 32 + e.stamp % 2 ^ 32) }
  | .summary b => { base with cause := 1, other := b }
/-- The check of an access of a party of a launch; the record is kept with the line. -/
def detect (s : State) (slot : Nat) (tbl : List Acq) (t : Party) (n ln : Nat) (m : Mask) (write strong : Bool) : Except TrapInfo State :=
  match launchAt s slot with
  | none => .ok s
  | some l =>
    match checkAccess l tbl t n m write strong (look {} l.checks ln) with
    | .error r => .error (raceTrap ln m r)
    | .ok c =>
      -- a record that was away is read back, and its place in the region freed (R375)
      let s := if (look {} l.checks ln).away then recordBack s l.part ln else s
      .ok (modLaunch s slot fun l => { l with checks := put l.checks ln { c with away := false } })
/-- The check of an access of the running task; a system task is of no launch and is not checked. -/
def detectMine (s : State) (n ln : Nat) (m : Mask) (write strong : Bool) : Except TrapInfo State :=
  match (taskOf s).slot with
  | none => .ok s
  | some k => detect s k (taskOf s).det.acq { id := (taskOf s).det.id, op := 0 } n ln m write strong
/-- Release records of a line, in the partition (R194). -/
def relOf (s : State) (p ln : Nat) : List Rel := look [] (getPart s p).rel ln
def setRel (s : State) (p ln : Nat) (r : List Rel) : State :=
  modPart s p fun x => { x with rel := if r.isEmpty then drop x.rel ln else put x.rel ln r }

/-! Digests (R409). -/

def inWindow (l : Launch) (va : Nat) : Bool := l.obase ≤ va && va < l.obase + l.olen
/-- The bytes of a masked line that lie in the digest window, added to a writer's. -/
def digestBytes (l : Launch) (ln : Nat) (d : Line) (m : Mask) (g : Digest) : Digest :=
  if !(ldet l) || l.olen = 0 then g
  else
    (List.range 128).foldl (fun g i =>
      if m.getLsbD i && inWindow l (128 * ln + i) then { g with bytes := put g.bytes (128 * ln + i) (byteAt d i) } else g) g
/-- The term of an atomic. -/
def atomicTerm (op sz va : Nat) (b c : Word) : Word :=
  let key : Word := BitVec.ofNat 64 (2 ^ 63 + op % 16 * 2 ^ 53 + sz % 4 * 2 ^ 49 + va)
  mix (key ^^^ mix b ^^^ mix (mix c))
def digestTotal (g : Digest) : Word :=
  g.bytes.foldl (fun a e => a + mix (BitVec.ofNat 64 (256 * e.1 + e.2.toNat))) g.sum
def digestMine (s : State) (ln : Nat) (d : Line) (m : Mask) : State :=
  match myLaunch s with
  | some (_, l) => modTask s fun t => { t with dig := digestBytes l ln d m t.dig }
  | none => s
/-- A final sum joins the launch's digest. -/
def digestJoin (s : State) (slot : Nat) (g : Digest) : State := modLaunch s slot fun l => { l with digest := l.digest + digestTotal g }

/-! Write-backs (R119, R180, R416). All act for the running task of the core that runs. -/

def myPart (s : State) : Nat := partOf s (cidOf s.cur)
/-- A later write of a task takes the place of the bytes it held back (R184). -/
def unhold (s : State) (ln : Nat) (m : Mask) : State :=
  modTask s fun t => { t with held := if t.held.isEmpty then [] else
    (t.held.map fun h => if h.line = ln then { h with mask := h.mask &&& ~~~m } else h).filter fun h => h.mask ≠ 0#128 }
/-- Bytes of the core that runs, merged while a window of their line is open: the reply was formed before them, and what the core itself
reads by it has them (R122, R184). -/
def noteLate (s : State) (h ln : Nat) (d : Line) (m : Mask) : State :=
  if (getSl s h).windows.isEmpty then s
  else modSl s h fun y => { y with windows := y.windows.map fun w => if w.line = ln then { w with late := w.late ++ [(s.cur, d, m)] } else w }
/-- Whether bytes of the core that runs still stand behind the reply of an open window: its next write-back waits until they apply (R122). -/
def lateOut (s : State) : Bool := s.slices.any fun e => e.2.windows.any fun w => w.late.any fun q => q.1 = s.cur
/-- Bytes of one stamp written back to the home slice as the running task's: checked first, held back where the check fails. -/
def wbGroup (s : State) (ln : Nat) (x : Xl) (d : Line) (m : Mask) (stamp : Nat) : State × Option TrapInfo :=
  match detectMine s stamp ln m true false with
  | .error i => (modTask s fun t => { t with held := t.held ++ [{ line := ln, mask := m, data := d, stamp := stamp }] }, some i)
  | .ok s =>
    let p := myPart s
    let s := noteLate (sliceMerge (unhold s ln m) p (homeOf s p ln) ln x d m) (homeOf s p ln) ln d m
    (digestMine (setRel s p ln []) ln d m, none)
/-- The dirty bytes of one L1 line written back; the line stays, clean. -/
def wbLine (s : State) (ln : Nat) : State × Option TrapInfo :=
  match (getCore s s.cur).l1.find? (fun l => l.line = ln) with
  | none => (s, none)
  | some l =>
    let s := modCore s s.cur fun k => { k with l1 := k.l1.map fun e => if e.line = ln then { e with dirty := 0, stamps := [] } else e }
    l.stamps.foldl (fun r g =>
      let (s, i) := wbGroup r.1 ln { pa := l.pa, rd := true, wr := true, hc := l.hc } l.data (g.1 &&& l.dirty) g.2
      (s, r.2 <|> i)) (s, none)
/-- Whether a coalescing window of a line is open: a write waits for its reply (R122). -/
def windowOpen (s : State) (p ln : Nat) : Bool := (getSl s (homeOf s p ln)).windows.any fun w => w.line = ln
/-- The dirty bytes of a line written back at a write-back point of the running task: after an open window's reply (R122), MMX where
the check fails (R183). -/
def wbPoint (s : State) (ln : Nat) : Res State :=
  let dirty : Bool := (getCore s s.cur).l1.any fun l => l.line = ln && l.dirty ≠ 0#128
  if dirty && windowOpen s (myPart s) ln then .error (.wait s)
  else
    match wbLine s ln with
    | (s, none) => .ok s
    | (s, some i) => .error (.trap i s)
/-- Held-back bytes written back and checked again (R183, R416): those of one line, or all. -/
def wbHeld (s : State) (only : Option Nat) : Res State :=
  let mine := (taskOf s).held.filter fun h => only = none || only = some h.line
  let rest := (taskOf s).held.filter fun h => !(only = none || only = some h.line)
  if mine.isEmpty then .ok s
  else if mine.any fun h => windowOpen s (myPart s) h.line then .error (.wait s)
  else
    let step (r : Res (State × Option TrapInfo)) (h : HeldLine) : Res (State × Option TrapInfo) := do
      let (s, i) ← r
      let p := myPart s
      let (s, x) ← xlate s p (homeOf s p h.line) (128 * h.line) .write 7
      let (s, j) := wbGroup s h.line x h.data h.mask h.stamp
      return (s, i <|> j)
    match mine.foldl step (.ok (modTask s fun t => { t with held := rest }, none)) with
    | .error (.trap i _) => .error (.trap i s)
    | .error e => .error e
    | .ok (s, none) => .ok s
    | .ok (s, some i) => .error (.trap i s)
/-- Every dirty byte of the core's L1, and every held-back byte of its task, to the home slices. -/
def wbAll (s : State) : Res State := do
  let s ← if lateOut s then .error (.wait s) else wbHeld s none
  let lines := ((getCore s s.cur).l1.filter fun l => l.dirty ≠ 0#128).map (·.line)
  lines.foldl (fun r ln => do
    let s ← r
    wbPoint s ln) (.ok s)
/-- The write-back of R416 at a park: failing bytes are held back, and no fault is raised. -/
def wbPark (s : State) : State :=
  (((getCore s s.cur).l1.filter fun l => l.dirty ≠ 0#128).map (·.line)).foldl (fun s ln => (wbLine s ln).1) s

/-- The release of a scope (R124): complete when its effect is. -/
def release (s : State) (sc : Scope) : Res State :=
  match sc with
  | .core => .ok s
  | .dev => wbAll s
  | .sys => do
    let s ← wbAll s
    return flushSlices s (myPart s)
/-- The acquire of a scope (R124, R188). -/
def acquire (s : State) (sc : Scope) : Res State :=
  match sc with
  | .core => .ok s
  | .dev => do
    let s ← wbAll s
    return modCore s s.cur fun k => { k with l1 := [], prefs := [] }
  | .sys => do
    let s ← wbAll s
    return modTask (modCore s s.cur fun k => { k with l1 := [], prefs := [] }) fun t => { t with fromMem := true }
/-- The epoch rises (R195). -/
def bumpEpoch (s : State) : State := modTask s fun t => { t with det := { t.det with epoch := t.det.epoch + 1 } }
/-- Entries added to the running task's acquire table; ACQ_OVERFLOW above 32 (R195). -/
def acquireFrom (s : State) (es : List Acq) : Res State :=
  match myLaunch s with
  | none => .ok s
  | some (_, l) =>
    match mergeAcq l { id := (taskOf s).det.id, op := 0 } (taskOf s).det.acq es with
    | some tbl => .ok (modTask s fun t => { t with det := { t.det with acq := tbl } })
    | none => raise s cACQ_OVERFLOW
/-- What a receiver of something the running task sends acquires (R192): its table, and all it did below its epoch. -/
def sentAcq (s : State) : List Acq :=
  addAcq (taskOf s).det.acq { who := { id := (taskOf s).det.id, op := 0 }, n := (taskOf s).det.epoch }
/-- The dev-scope release of a task's end, with the rise of its epoch (R125, R195). What the task has posted joins later (R47). -/
def endRelease (s : State) : Res State := (release s .dev).map bumpEpoch

/-! The L1 (R119, R257). -/

def l1Find (s : State) (ln : Nat) : Option L1Line := (getCore s s.cur).l1.find? fun l => l.line = ln
def l1Touch (s : State) (l : L1Line) : State :=
  modCore s s.cur fun k => { k with l1 := l :: k.l1.filter fun e => e.line ≠ l.line }
def l1Drop (s : State) (ln : Nat) : State := modCore s s.cur fun k => { k with l1 := k.l1.filter fun e => e.line ≠ ln }
/-- Room for a line in its set of eight ways: the least recently used line leaves, its dirty bytes and those of it held back written
back (R119, R180, R416). -/
def l1Room (s : State) (ln : Nat) : Res State :=
  let same := (getCore s s.cur).l1.filter fun e => e.line % 32 = ln % 32 && e.line ≠ ln
  if (l1Find s ln).isSome || same.length < 8 then .ok s
  else
    match same.getLast? with
    | none => .ok s
    | some v => do
      let s ← if v.dirty = 0#128 then Except.ok s
        else do
          let s ← wbHeld s (some v.line)
          match wbPoint s v.line with
          | .error (.trap i s) => Except.error (Stop.trap i (l1Drop s v.line))
          | r => r
      return l1Drop s v.line

/-- The lines that windows have delivered to the instruction of the core. -/
def linesGot (s : State) : List (Nat × Line) :=
  match (getCore s s.cur).wait with
  | some (.lines _ g) => g
  | _ => []
/-- Whether the core waits for a window's reply. -/
def linePending (s : State) : Bool :=
  match (getCore s s.cur).wait with
  | some (.lines (some _) _) => true
  | _ => false
/-- A weak read joins the window of its line, which it opens if there is none (R122). -/
def joinAs (s : State) (h ln : Nat) (x : Xl) (f : Window → Window) : State :=
  modSl s h fun y =>
    if y.windows.any fun w => w.line = ln then { y with windows := y.windows.map fun w => if w.line = ln then f w else w }
    else
      let w : Window := { line := ln, no := y.opens, opened := s.clk.mesh, pa := x.pa / 128 * 128, hc := x.hc }
      { y with windows := y.windows ++ [f w], opens := y.opens + 1 }
/-- The weak read of the core that runs joins a window; `base` is the address of its access (R93). -/
def joinWindow (s : State) (h ln base : Nat) (x : Xl) : State :=
  joinAs s h ln x fun w => { w with
    cores := w.cores ++ [s.cur]
    fresh := w.fresh || (taskOf s).fromMem
    who := w.who ++ consumerOf s s.cur base }
/-- The number of the window of a line that reads join. -/
def windowNo (s : State) (h ln : Nat) : Nat := (((getSl s h).windows.find? fun w => w.line = ln).map (·.no)).getD 0
/-- Whether a weak read of the task that runs is answered by a window: one that is open, or one that it opens where the slice lacks the line.
After a sys acquire memory serves it (R124): a reply formed before the read is none for it, and a line that the slice holds is read anew at
once. -/
def byWindow (s : State) (h ln : Nat) : Bool :=
  match (getSl s h).windows.find? fun w => w.line = ln with
  | some w => !((taskOf s).fromMem && w.reply.isSome)
  | none => (find (getSl s h).lines ln).isNone
/-- What a slice answers to a weak read: the line, or the number of the window that will deliver it (R122). -/
inductive Reply where
  | line (d : Line)
  | window (no : Nat)
/-- A weak read of `n` bytes of one line that reaches the home slice: translated and checked; then its answer (R122, R257). `base` is the address of its access, of which these bytes may be the second part (R93). -/
def sliceRead (s : State) (base va n lg : Nat) (aux1 : Word) : Res (State × Xl × Reply) := do
  let ln := va / 128
  let p := myPart s
  let h := homeOf s p ln
  let (s, x) ← xlate s p h va .read lg aux1
  match detectMine s (taskOf s).det.epoch ln (maskRange (va % 128) n) false false with
  | .error i => .error (.trap i s)
  | .ok s =>
    if byWindow s h ln then
      let s := joinWindow s h ln base x
      return (s, x, .window (windowNo s h ln))
    else
      let (s, d) := sliceLine s p h ln x (taskOf s).fromMem (consumerOf s s.cur base)
      return (s, x, .line d)
/-- A line filled for reading into the core's L1, under the dirty bytes it holds (R119). -/
def l1Fill (s : State) (ln : Nat) (x : Xl) (d : Line) : State :=
  l1Touch s (match l1Find s ln with
    | some o => { o with data := overlay d o.data o.dirty, rd := true }
    | none => { line := ln, pa := x.pa / 128 * 128, data := d, dirty := 0, wr := false, rd := true, stamps := [], hc := x.hc })
/-- What the running task reads in a line of its L1: its own held-back bytes are later writes than those below the dirty ones (R184). -/
def heldOver (s : State) (l : L1Line) : Line :=
  ((taskOf s).held.filter fun h => h.line = l.line).foldl (fun d h => overlay d h.data (h.mask &&& ~~~l.dirty)) l.data
/-- A weak read, of an access of 2^`lg` bytes, of `n` bytes of device memory that lie in one line (R180, R257): through the L1; a
miss goes to the home slice, and may wait there for a window's reply (R122). `base` is the access's address. -/
def weakRead (s : State) (base va n lg : Nat) (aux1 : Word := 0) : Res (State × List Byte) := do
  let ln := va / 128
  match (l1Find s ln).filter (·.rd) with
  | some l => return (l1Touch s l, lineBytes (heldOver s l) (va % 128) n)
  | none =>
    if linePending s then .error (.wait s)
    else do
      let s ← l1Room s ln
      let (s, x, d) ← (match find (linesGot s) ln with
        | some d => do
          let p := myPart s
          let (s, x) ← xlate s p (homeOf s p ln) va .read lg aux1
          return (s, x, .line d)
        | none => sliceRead s base va n lg aux1 : Res (State × Xl × Reply))
      match d with
      | .window w => .error (.wait (modCore s s.cur fun k => { k with wait := some (.lines (some (ln, w)) (linesGot s)) }))
      | .line d =>
        let s := l1Fill s ln x d
        return (s, lineBytes (((l1Find s ln).map (heldOver s)).getD d) (va % 128) n)

/-- A weak write of bytes that lie in one line: kept dirty in the L1, which allocates the line once write permission is
confirmed (R119, R257). -/
def weakWrite (s : State) (va : Nat) (bs : List Byte) (lg : Nat) (aux1 : Word := 0) : Res State := do
  let ln := va / 128
  let m := maskRange (va % 128) bs.length
  let put1 (s : State) (l : L1Line) : State :=
    let e := (taskOf s).det.epoch
    l1Touch (unhold s ln m) { l with
      data := overlay l.data (lineAt (va % 128) bs) m
      dirty := l.dirty ||| m
      stamps := (l.stamps.map fun g => (g.1 &&& ~~~m, g.2)).filter (fun g => g.1 ≠ 0#128) ++ [(m, e)] }
  let hit := match l1Find s ln with
    | some l => if l.wr then some l else none
    | none => none
  match hit with
  | some l => return put1 s l
  | none =>
    let p := myPart s
    let h := homeOf s p ln
    let s ← l1Room s ln
    let (s, x) ← xlate s p h va .write lg aux1
    match l1Find s ln with
    | some l => return put1 s { l with wr := true }
    | none =>
      let (s, d) := sliceLine s p h ln x (taskOf s).fromMem []
      return put1 s { line := ln, pa := x.pa / 128 * 128, data := d, dirty := 0, wr := true, rd := x.rd, stamps := [], hc := x.hc }

/-- Before a strong access: the core's own dirty bytes of the line are written back and its copy dropped (R123, R259). -/
def ownLine (s : State) (ln : Nat) : Res State := do
  let s ← wbHeld s (some ln)
  match wbPoint s ln with
  | .ok s => return l1Drop s ln
  | .error (.trap i s) => .error (.trap i (l1Drop s ln))
  | .error e => .error e

/-- A strong access of the running task at the home slice: the line as it stands, checked (R187, R197); a write comes after the reply
of a window that is open (R122). -/
def strongAt (s : State) (va n : Nat) (k : Acc) (stamp : Nat) : Res (State × Xl × List Byte) := do
  let ln := va / 128
  let p := myPart s
  let h := homeOf s p ln
  let (s, x) ← xlate s p h va k (Nat.log2 n)
  if k ≠ .read && windowOpen s p ln then .error (.wait s)
  else
    match detectMine s stamp ln (maskRange (va % 128) n) (k ≠ .read) true with
    | .error i => .error (.trap i s)
    | .ok s =>
      let (s, d) := sliceLine s p h ln x false (consumerOf s s.cur va)
      return (s, x, lineBytes d (va % 128) n)

/-- The device checks 1 and 2 of R256. -/
def devChecks (s : State) (va : Word) (n : Nat) (k : Acc) : Res Unit :=
  if 2 ^ 49 ≤ va.toNat then
    .error (.trap { code := cPAGE, cause := 0, addr := va, aux0 := BitVec.ofNat 64 (accCode k + 256 * Nat.log2 n) } s)
  else if va.toNat % (if n = 128 then 16 else n) ≠ 0 then raiseAt s cALIGN va
  else .ok ()

/-! Reading device memory for the machine itself: at home slices, by virtual address (R335, R26). -/

/-- Bytes of one line as they stand at the home slice, for a unit of the device. An error that cannot be corrected is reported and
the bytes are those stored (R405), but a checked read fails (R26, R178). -/
def unitReadLine (checked : Bool) (s : State) (p va n : Nat) : State × Option (List Byte) :=
  let ln := va / 128
  let h := homeOf s p ln
  match translate s p h va .read with
  | (s, .ok x) =>
    if checked && lineBad s x.pa && (find (getSl s h).lines ln).isNone then (readBad s h x.pa ln [], none)
    else
      let (s, d) := sliceLine s p h ln x false []
      (s, some (lineBytes d (va % 128) n))
  | (s, .error _) => (s, none)
/-- The pieces of a range of bytes, line by line: address and length. -/
def pieces : Nat → Nat → Nat → List (Nat × Nat)
  | 0, _, _ => []
  | f + 1, va, n =>
    if n = 0 then []
    else
      let k := min n (128 - va % 128)
      (va, k) :: pieces f (va + k) (n - k)
/-- Bytes read by a unit of the device; none when a page is unmapped or unreadable, or where a checked read meets an error that
cannot be corrected. -/
def unitReadAs (checked : Bool) (s : State) (p va n : Nat) : State × Option (List Byte) :=
  (pieces (n / 128 + 2) va n).foldl (fun r q =>
    match r.2 with
    | none => r
    | some acc =>
      match unitReadLine checked r.1 p q.1 q.2 with
      | (s, some b) => (s, some (acc ++ b))
      | (s, none) => (s, none)) (s, some [])
/-- The read of a check of R26 or of a ring descriptor (R178): an error that cannot be corrected fails it. -/
def unitRead (s : State) (p va n : Nat) : State × Option (List Byte) := unitReadAs true s p va n
/-- Any other read of a unit: it takes the bytes as they are stored (R405). -/
def unitTake (s : State) (p va n : Nat) : State × Option (List Byte) := unitReadAs false s p va n
/-- Bytes written by a unit of the device, through the home slices to memory; false when the write cannot be made. An error of the
memory line that cannot be corrected fails a checked write. -/
def unitWriteAs (checked : Bool) (s : State) (p va : Nat) (bs : List Byte) : State × Bool :=
  (pieces (bs.length / 128 + 2) va bs.length).foldl (fun r q =>
    if !r.2 then r
    else
      let ln := q.1 / 128
      let h := homeOf r.1 p ln
      match translate r.1 p h q.1 .write with
      | (s, .ok x) =>
        if checked && lineBad s x.pa && (find (getSl s h).lines ln).isNone then (readBad s h x.pa ln [], false)
        else
          let m := maskRange (q.1 % 128) q.2
          let s := sliceMerge s p h ln x (lineAt (q.1 % 128) ((bs.drop (q.1 - va)).take q.2)) m
          (flushLine (setRel s p ln []) h ln, true)
      | (s, .error _) => (s, false)) (s, true)
/-- A write of a completion record, of its ring's TAIL or of a save block: an error that cannot be corrected fails it (R178, R337). -/
def unitStore (s : State) (p va : Nat) (bs : List Byte) : State × Bool := unitWriteAs true s p va bs
/-- Any other write of a unit. -/
def unitWrite (s : State) (p va : Nat) (bs : List Byte) : State × Bool := unitWriteAs false s p va bs

/-! Instruction fetch (R87, R211, R362). -/

/-- What an 8-byte word of code reads as for the running task: from the code path of its launch, translated at the home slice
of the line with fetch permission; a system task fetches from memory as it stands. An error of the memory line is corrected or reported,
and one that cannot be corrected delivers the bytes as they are stored (R404, R405). -/
def codeWord (s : State) (va : Word) : Res (State × Word) := do
  let v := va.toNat
  let p := myPart s
  let (s, x) ← xlate s p (homeOf s p (v / 128)) v .fetch 3
  let s := readBad (meets s (bitsOf x.pa 15 12 / 4)) (homeOf s p (v / 128)) x.pa (v / 128) (consumerOf s s.cur v)
  match myLaunch s with
  | some (_, l) =>
    let bs := if lineBad s x.pa then memRead s x.pa 8 else (List.range 8).map fun i => look memDefault l.code (x.pa + i)
    return (s, wordOfBytes bs)
  | none => return (s, memWord s x.pa)

end Sys2Proof.Machine
end

