-- ==== Sys2Proof/Machine/Sets.lean ====
section
/-! DEFINITION. Bank sets and their handles, the core store as instructions reach it, references, counters with their hidden
lists, triggers, tags, and parcels as they are built and dropped (R64, R95 to R111, R149 to R155, R164, R168 to R171, R191, R272). -/
namespace Sys2Proof.Machine

/-! Bank-map entries (R101). -/

def bmV (e : BitVec 32) : Bool := bit e 31
def bmSet (e : BitVec 32) : Nat := (field e 0 3).toNat
def bmRes (e : BitVec 32) : Bool := bit e 28
/-- An entry with V, RD and WR one. -/
def bmEntry (res : Bool) (src set : Nat) : BitVec 32 :=
  BitVec.ofNat 32 (2 ^ 31 + 2 ^ 30 + 2 ^ 29 + (if res then 2 ^ 28 else 0) + src * 2 ^ 26 + set)
/-- The entry a bmapw or a restore writes: the bits given with SRC 11b; the reserved ones take no write (R8, R101, R112, R332). -/
def bmWritten (b : BitVec 32) : BitVec 32 := setField (b &&& 0xF0000007#32) 26 3#2
def bmapOf (k : Core) (h : Nat) : BitVec 32 := look 0 k.bmap h
/-- The lowest handle with nothing attached (R103). -/
def freeHandle (k : Core) : Option Nat := (List.range 16).find? fun h => !(bmV (bmapOf k h))
/-- An entry that is about to change is kept as it stands, for what its core does in this cycle (R110). -/
def noteWas (s : State) (c h : Nat) : State :=
  modCore s c fun k =>
    let now := cycOf s c
    let old := k.was.filter fun w => w.cycle = now
    if old.any fun w => w.h = h then { k with was := old }
    else { k with was := old ++ [{ h := h, cycle := now, entry := bmapOf k h, holder := find k.holders h }] }
/-- A set attached at a handle. Attachment and detachment take effect at the end of their cycle (R110). -/
def attachSet (s : State) (c h set : Nat) (e : BitVec 32) (who : Holder) : State :=
  setUse (modCore (noteWas s c h) c fun k => { k with bmap := put k.bmap h e, holders := put k.holders h who }) (cidOf c) set (.attached c h)
/-- An entry and its holder as an access or a bmapr of the core sees them: as they stood before the cycle (R110). -/
def entrySeen (s : State) (c h : Nat) : BitVec 32 × Option Holder :=
  let k := getCore s c
  match k.was.find? fun w => w.h = h && w.cycle = cycOf s c with
  | some w => (w.entry, w.holder)
  | none => (bmapOf k h, find k.holders h)
/-- What hangs on a set leaves with it: triggers on its counters are discarded, receives in it cancelled (R168, R275). -/
def detachCore (s : State) (c h : Nat) : State :=
  modCore (noteWas s c h) c fun k =>
    let n := bmSet (bmapOf k h)
    { k with
      bmap := put k.bmap h 0
      holders := drop k.holders h
      trigs := k.trigs.filter fun t => t.set ≠ some n
      recvs := k.recvs.filter fun r => r.set ≠ some n && r.ctrSet ≠ some n }
/-- The engine operations that a cluster's engines have accepted and not finished. -/
def engOps (k : Cluster) : List EngOp := k.eng0 ++ k.eng1
/-- Contributions whose operation has not joined. -/
def openContribs (s : State) : List Contrib := (s.reds.flatMap fun r => r.contribs).filter fun c => !c.joined
/-- Operations whose engine-command parcel is in flight (R162). -/
def sentOps (s : State) : List EngOp := s.net.filterMap fun p => p.op
/-- The operations that cores of a cluster have issued and that have not joined. -/
def openOps (s : State) (cid : Nat) : List EngOp :=
  ((sentOps s).filter fun o => cidOf o.core = cid) ++ engOps (getCl s cid) ++ ((openContribs s).filter fun c => cidOf c.op.core = cid).map fun c => c.op
/-- Whether an operation that has not joined names a set; where a core is given, one that this core issued. -/
def engNames (s : State) (cid n : Nat) (core : Option Nat) : Bool :=
  (openOps s cid).any fun o => (core = none || core = some o.core) && o.sets.any fun q => q.2 = n
/-- A set released (R105): cleared in the next 1024 cycles, once no operation of its task that names it is left (R280). -/
def releaseSet (s : State) (cid n : Nat) : State :=
  if engNames s cid n none then setUse s cid n .draining
  else setUse { s with ctrs := s.ctrs.filter fun c => !(c.isSet && c.unit = 8 * cid + n) } cid n (.clearing (cycOfCl s cid + 1024))
/-- The set at a handle released and its entry cleared. -/
def releaseHandle (s : State) (c h : Nat) : State :=
  let e := bmapOf (getCore s c) h
  if bmV e then releaseSet (detachCore s c h) (cidOf c) (bmSet e) else s
/-- Sets left draining whose operations have joined are released. -/
def drainSets (s : State) (cid : Nat) : State :=
  (List.range 8).foldl (fun s n =>
    if (getSet (getCl s cid) n).use = .draining && !(engNames s cid n none) then releaseSet s cid n else s) s
/-- Sets of a cluster neither attached, reserved nor being cleared (R42). -/
def freeSets (k : Cluster) : List Nat := (List.range 8).filter fun n => (getSet k n).use = .free

/-! Places that references and scratchpad addresses name. -/

/-- A place in a core store or in a bank set. -/
inductive Loc where
  | store (core off : Nat)
  | set (cid n off : Nat)
deriving DecidableEq, Repr

def setBytes : Nat := 278528
def locRead (s : State) (l : Loc) (n : Nat) : List Byte :=
  match l with
  | .store c o => storeBytes (getCore s c) o n
  | .set cid k o => readUnits 16 (getSet (getCl s cid) k).data o n
/-- Whether a byte of a core's store takes no write: TASKCTL of every frame, whose fields are read-only or reserved (R8, R63), and the
task header of the frame at `wp`, bytes 336 to 383, for the task that runs there (R64). -/
def readOnlyByte (c : Nat) (wp : Option Nat) (a : Nat) : Bool :=
  let o := (a - generalTop c) % frameSize c
  (generalTop c ≤ a && 352 ≤ o && o < 360) || wp.any fun w => w + 336 ≤ a && a < w + 384
/-- Bytes written to a core's store; those that take no write stay. -/
def storeTaken (c : Nat) (wp : Option Nat) (k : Core) (o : Nat) (bs : List Byte) : Core :=
  if generalTop c < o + bs.length && (List.range bs.length).any (fun i => readOnlyByte c wp (o + i)) then
    storeWrite k o (((bs.zip (storeBytes k o bs.length)).zipIdx).map fun x => if readOnlyByte c wp (o + x.2) then x.1.2 else x.1.1)
  else storeWrite k o bs
/-- Bytes written to a place; `wp` is the frame of the task that writes, where one does. -/
def locWrite (s : State) (wp : Option Nat) (l : Loc) (bs : List Byte) : State :=
  match l with
  | .set cid k o =>
    let x := getSet (getCl s cid) k
    setSet s cid k { x with data := writeUnits 16 x.data o bs }
  | .store c o => modCore s c fun k => storeTaken c wp k o bs

/-- Whether a range of a core's store touches register bytes of a frame other than the one at `wp` (R64). -/
def touchesOther (c wp o n : Nat) : Bool :=
  (List.range 8).any fun f =>
    let b := frameBase c f
    b ≠ wp && ((o < b + 256 && b < o + n) || (classOf (idxOf c) = .x && o < b + 2432 && b + 384 < o + n))
/-- The core-store checks of R256. -/
def coreCheck (s : State) (o : Word) (n align : Nat) : Res Nat :=
  let a := o.toNat
  if 2 ^ 16 ≤ a || storeSize s.cur < a + n then raiseAt s cRANGE o
  else if touchesOther s.cur (taskOf s).wp a n then raiseAt s cRANGE o
  else if a % align ≠ 0 then raiseAt s cALIGN o
  else .ok a
/-- Orders 1 and 2 of R100: the handle's set. A pending set is reached by no task (R109). -/
def spHandle (s : State) (a : Word) : Res (Nat × BitVec 32) :=
  if a.toNat / 2 ^ 32 ≠ 0 || bitsOf a.toNat 27 19 ≠ 0 then raiseAt s cRANGE a
  else
    let h := bitsOf a.toNat 31 28
    let (e, who) := entrySeen s s.cur h
    let bad := match who with
      | some (.resident k) => (taskOf s).kind ≠ .system && (taskOf s).slot ≠ some k
      | some (.pending _) => true
      | _ => false
    if !(bmV e) || bad then raiseAt s cDETACHED a else .ok (h, e)
/-- The checks of R100. -/
def spCheck (s : State) (a : Word) (n align : Nat) (write : Bool) : Res Loc := do
  let (_, e) ← spHandle s a
  let o := bitsOf a.toNat 18 0
  if !(bit e (if write then 29 else 30)) then raiseAt s cBANK_PROT a
  else if setBytes < o + n then raiseAt s cRANGE a
  else if o % align ≠ 0 then raiseAt s cALIGN a
  else .ok (.set (cidOf s.cur) (bmSet e) o)
/-- A reference (R272), checked under R256 for its space. -/
def refCheck (s : State) (r : Word) (n align : Nat) (write : Bool) : Res Loc :=
  if bitsOf r.toNat 62 32 ≠ 0 then raiseAt s cRANGE r
  else if bit r 63 then spCheck s (field r 0 32 |>.setWidth 64) n align write
  else (coreCheck s (field r 0 16 |>.setWidth 64) n align).map fun a => .store s.cur a
/-- The physical set a reference names, if it names one. -/
def refSet (s : State) (r : Word) : Option Nat :=
  if bit r 63 then some (bmSet (entrySeen s s.cur (bitsOf r.toNat 31 28)).1) else none
def refOff (r : Word) : Nat := if bit r 63 then bitsOf r.toNat 18 0 else bitsOf r.toNat 15 0

/-! Tags (R152, R153). -/

def tagOf (k : Core) (t : Nat) : Word := look 0 k.tags t
def tagEN (e : Word) : Bool := bit e 63
def tagTenant (e : Word) : Nat := (field e 54 6).toNat
def tagClass (e : Word) : Nat := (field e 60 2).toNat
def tagPc (e : Word) : Word := e &&& 0x1FFFFFFFFFFF8#64
/-- Header fields (R149). -/
def hKind (h : Word) : Nat := (field h 62 2).toNat
def hTag (h : Word) : BitVec 12 := field h 50 12
def hX (h : Word) : Nat := (field h 45 5).toNat
def hY (h : Word) : Nat := (field h 40 5).toNat
def hCore (h : Word) : Nat := (field h 36 4).toNat
def hClass (h : Word) : Nat := (field h 34 2).toNat
def hTenant (h : Word) : Nat := (field h 28 6).toNat
def hLen (h : Word) : Nat := (field h 24 4).toNat
def hGen (h : Word) : Nat := (field h 22 2).toNat
def hGrp (h : Word) : Bool := bit h 21
def hGroup (h : Word) : Nat := (field h 13 8).toNat
def hSlot (h : Word) : Nat := (field h 3 10).toNat
def hDest (h : Word) : Nat := hY h * 1024 + hX h * 32 + hCore h
def hDestCore (h : Word) : Nat := coreNo (cidAt (hX h) (hY h)) (hCore h)
/-- A header (R149); the destination is in COREID layout. -/
def mkHdr (kind : Nat) (tag : BitVec 12) (dest cls tenant len : Nat) (grp : Option (Nat × Nat)) (slot : Nat) : Word :=
  BitVec.ofNat 64 (kind * 2 ^ 62 + tag.toNat * 2 ^ 50 + bitsOf dest 9 5 * 2 ^ 45 + bitsOf dest 14 10 * 2 ^ 40
    + dest % 16 * 2 ^ 36 + cls * 2 ^ 34 + tenant * 2 ^ 28 + len * 2 ^ 24
    + (match grp with
       | some (g, gen) => gen * 2 ^ 22 + 2 ^ 21 + g * 2 ^ 13
       | none => 0) + slot % 1024 * 8)
/-- Parcels an inbox holds for a disabled tag. -/
def heldFor (k : Core) (t : Nat) : List Parcel := k.inbox.filter fun p => !p.soft && hKind p.hdr = 0 && (hTag p.hdr).toNat % 256 = t
/-- A tag entry as it reads: PEND is the software bit or a parcel held (R153). -/
def tagRead (k : Core) (t : Nat) : Word :=
  let e := tagOf k t
  setField e 62 (b1 (bit e 62 || (!(tagEN e) && !(heldFor k t).isEmpty)))

/-- The task a handler parcel starts (R154, R155). -/
def handlerTask (s : State) (c : Nat) (p : Parcel) : QTask :=
  let e := tagOf (getCore s c) ((hTag p.hdr).toNat % 256)
  { kind := .handler
    slot := (getCl s (cidOf c)).holder
    cls := tagClass e
    parent := p.parent
    pc := tagPc e
    regs := [(2, p.hdr), (3, BitVec.ofNat 64 p.src), (4, (hTag p.hdr).setWidth 64)]
      ++ (p.payload.zipIdx.map fun q => (16 + q.2, q.1))
    acq := p.acq
    tag := hTag p.hdr
    take := p.give }
/-- The task a software pend starts: no header, LEN zero (R153, R154). Its TAG, which R135 takes as its route tag, is the number
of its tag entry: it has no starting parcel (DESIGN CHOICE, entry 65). -/
def pendTask (s : State) (c t : Nat) (parent : BitVec 32) (acq : List Acq) : QTask :=
  let e := tagOf (getCore s c) t
  { kind := .handler, slot := (getCl s (cidOf c)).holder, cls := tagClass e, parent := parent, pc := tagPc e,
    regs := [(2, 0), (3, 0), (4, BitVec.ofNat 64 t)], acq := acq, tag := BitVec.ofNat 12 t, soft := true }
/-- A software pend's task while it waits for a run-queue slot behind the parcels of an inbox (R69, R153). -/
def softParcel (s : State) (c t : Nat) (parent : BitVec 32) (acq : List Acq) : Parcel :=
  { hdr := mkHdr 0 (BitVec.ofNat 12 t) (coreIdOf c) 0 0 0 none (((getCl s (cidOf c)).holder).getD 0)
    payload := []
    src := 0
    from_ := c
    parent := parent
    acq := acq
    soft := true }
def queueTask (s : State) (c : Nat) (q : QTask) : State := modCore s c fun k => { k with runq := k.runq ++ [q] }
/-- The task a carried-code parcel starts (R156, R242): words 0 to 7 are its instructions, words 8 to 14 go to s16 to s22, and lit
reads the whole payload. -/
def carriedTask (s : State) (c : Nat) (p : Parcel) : QTask :=
  { kind := .carried
    slot := (getCl s (cidOf c)).holder
    cls := hClass p.hdr
    parent := p.parent
    pc := 0
    regs := [(2, p.hdr), (3, BitVec.ofNat 64 p.src)] ++ (((p.payload.drop 8).take 7).zipIdx.map fun q => (16 + q.2, q.1))
    acq := p.acq
    tag := hTag p.hdr
    code := p.payload
    sender := p.owner.map (·.2) }
/-- Whether an entry of an inbox starts a task once a run-queue slot is free: carried code, a handler parcel of an enabled tag,
the task of a software pend. -/
def startsNow (k : Core) (p : Parcel) : Bool :=
  p.soft || hKind p.hdr = 1 || (hKind p.hdr = 0 && tagEN (tagOf k ((hTag p.hdr).toNat % 256)))
/-- The task an entry of an inbox starts. -/
def taskOfEntry (s : State) (c : Nat) (p : Parcel) : QTask :=
  if p.soft then pendTask s c ((hTag p.hdr).toNat % 256) p.parent p.acq
  else if hKind p.hdr = 1 then carriedTask s c p else handlerTask s c p
/-- Parcels of an inbox that a free run-queue slot lets in, in arrival order (R70). -/
def takeInbox (s : State) (c : Nat) : State :=
  ((getCore s c).inbox.filter (startsNow (getCore s c))).foldl
    (fun s p =>
      if (getCore s c).runq.length < 32 then
        modCore (queueTask s c (taskOfEntry s c p)) c fun k => { k with inbox := k.inbox.erase p }
      else s) s
/-- The task of a software pend of an enabled tag: after the parcels that wait, into the run queue when it has room (R69, R153). -/
def softStart (s : State) (c t : Nat) (parent : BitVec 32) (acq : List Acq) : State :=
  takeInbox (modCore s c fun k => { k with inbox := k.inbox ++ [softParcel s c t parent acq] }) c
/-- A software pend of a tag, by tagset or a trigger (R153, R168). At a disabled tag what its task inherits stays with the bit. -/
def softPend (s : State) (c t : Nat) (parent : BitVec 32) (acq : List Acq) : State :=
  if tagEN (tagOf (getCore s c) t) then softStart s c t parent acq
  else modCore s c fun k =>
    { k with
      tags := put k.tags t (tagOf k t ||| (1#64 <<< 62))
      tagAcq := put k.tagAcq t (acq.foldl addAcq (look [] k.tagAcq t)) }

/-- A tag entry written by the running task: with EN one, held parcels become tasks, then the software pend's task (R153). -/
def tagPut (s : State) (t : Nat) (e : Word) : State :=
  let c := s.cur
  let inherits := look [] (getCore s c).tagAcq t
  let pend := bit e 62
  let s := modCore s c fun k =>
    { k with
      tags := put k.tags t (setField e 62 (b1 (pend && !(tagEN e))))
      tagAcq := if pend && !(tagEN e) then k.tagAcq else drop k.tagAcq t }
  if tagEN e then
    let s := takeInbox s c
    if pend then softStart s c t (taskOf s).handle inherits else s
  else s

/-! Counters (R164, R168, R191). -/

def ctrKey (l : Loc) : Bool × Nat × Nat :=
  match l with
  | .store c o => (false, c, o)
  | .set cid n o => (true, 8 * cid + n, o)
def isCtr (l : Loc) (c : CtrList) : Bool := c.isSet = (ctrKey l).1 && c.unit = (ctrKey l).2.1 && c.off = (ctrKey l).2.2
def incsOf (s : State) (l : Loc) : List Incr :=
  match s.ctrs.find? (isCtr l) with
  | some c => c.incs
  | none => []
def ctrValue (s : State) (l : Loc) : Word := wordOfBytes (locRead s l 8)
/-- What an observation of a counter at a value acquires: the increments of the list within it (R190, R191), of a parcel's delivery the
sender's own entry alone (DESIGN CHOICE, entry 106). -/
def observed (s : State) (l : Loc) (v : Word) : List Acq :=
  (incsOf s l).foldl (fun a i => if i.n ≠ 0 && i.at_.toNat ≤ v.toNat then addAcq a { who := i.who, n := i.n } else a) []
/-- Where a trigger's counter stands. -/
def trigLoc (c : Nat) (t : Trig) : Loc :=
  match t.set with
  | some n => .set (cidOf c) n (refOff t.ctr)
  | none => .store c (refOff t.ctr)
/-- Triggers of a core whose counter has reached their value fire, each once (R168). -/
def fireTrigs (s : State) (c : Nat) : State :=
  (getCore s c).trigs.foldl (fun s t =>
    let l := trigLoc c t
    let v := ctrValue s l
    if t.val.toNat ≤ v.toNat then
      let s := modCore s c fun k => { k with trigs := k.trigs.erase t }
      softPend s c (t.tag.toNat % 256) t.parent ((observed s l v).foldl addAcq t.acq)
    else s) s
/-- The cores that may have armed a trigger on a counter: its core, or the cluster's holders of the set. -/
def ctrCores (l : Loc) : List Nat :=
  match l with
  | .store c _ => [c]
  | .set cid _ _ => (List.range 9).map (coreNo cid)
/-- A counter increment, entered in the hidden list of four, with the triggers it fires (R164, R168, R191). -/
def bumpCounterOf (s : State) (wp : Option Nat) (l : Loc) (v : Word) (who : Party) (n : Nat) : State :=
  let new := ctrValue s l + v
  let s := locWrite s wp l (bytesOf 8 new)
  let incs := ({ who := who, n := n, at_ := new } :: incsOf s l).take 4
  let c : CtrList := { isSet := (ctrKey l).1, unit := (ctrKey l).2.1, off := (ctrKey l).2.2, incs := incs }
  let s := { s with ctrs := s.ctrs.filter (fun x => !(isCtr l x)) ++ [c] }
  (ctrCores l).foldl fireTrigs s
/-- An increment by the device. -/
def bumpCounter (s : State) (l : Loc) (v : Word) (who : Party) (n : Nat) : State := bumpCounterOf s none l v who n
/-- An increment by the running task, whose own header is read-only to it (R64). -/
def bumpMine (s : State) (l : Loc) (v : Word) (who : Party) (n : Nat) : State := bumpCounterOf s (some (taskOf s).wp) l v who n

/-! Sending and dropping parcels (R170, R171, R376). -/

def tenantOf (s : State) : Nat :=
  match myLaunch s with
  | some (_, l) => l.tenant
  | none => 0
def myClass (s : State) : Nat := (taskOf s).cls
def mySlot (s : State) : Nat := (taskOf s).slot.getD 0
/-- A parcel of the running task (R149, R170). -/
def parcelFrom (s : State) (hdr : Word) (payload : List Word) (acq : List Acq) : Parcel :=
  { hdr := hdr
    payload := payload
    src := coreIdOf s.cur
    from_ := s.cur
    parent := (taskOf s).handle
    owner := (taskOf s).slot.map fun k => (k, (taskOf s).det.id)
    acq := acq
    srcPart := some (myPart s) }
/-- A parcel put in flight. -/
def putParcel (s : State) (p : Parcel) : State := { s with net := s.net ++ [p] }
/-- A parcel of the running task, put in flight. -/
def sendFrom (s : State) (hdr : Word) (payload : List Word) (acq : List Acq) (give : Option Nat) (sys : Bool) : State :=
  putParcel s { parcelFrom s hdr payload acq with sys := sys, give := give }
/-- An operation last in the queue of an engine that has accepted its parcel (R162). -/
def addEng (s : State) (cid e : Nat) (o : EngOp) : State :=
  modCl s cid fun k => if e = 0 then { k with eng0 := k.eng0 ++ [o] } else { k with eng1 := k.eng1 ++ [o] }
/-- A parcel leaves the mesh. -/
def takeParcel (s : State) (n : Nat) : State := { s with net := dropNth s.net n }
/-- A set given with a parcel that is dropped or discarded is released (R267). -/
def dropGive (s : State) (c : Nat) (p : Parcel) : State :=
  match p.give with
  | some h => releaseHandle s c h
  | none => s
/-- The partition charged for a parcel whose source fields are lost (R376): its destination's, where TENANT is readable and belongs
to it, else the management partition. -/
def lostCharge (s : State) (p : Parcel) : Nat :=
  match (getCl s (cidOf (hDestCore p.hdr))).part with
  | some q => if p.badHdr = 1 && bit (partWord s q 1) (hTenant p.hdr) then q else mgmtPart s
  | none => mgmtPart s
/-- The fault parcel of a drop whose sender is no task of the launch that holds the sender's cluster: its fault task has the sender's
class, which is that of the parcel, and reads the sender's box, where it is a tree task's (R367). -/
def fromOther (s : State) (p : Parcel) (who : Option (Nat × Nat)) (f : Parcel) : Parcel :=
  { f with
    hdr := setField f.hdr 34 (BitVec.ofNat 2 (hClass p.hdr))
    fbox := who.bind fun w => (launchAt s w.1).bind fun l => (placeOf l w.2).bind fun q =>
      if isTree q.kind then boxNamed l q.name else none }
/-- A drop reported where R376 charges it: the core that sent the parcel, the ring of the injecting partition, or, where the source
is lost, a ring that R376 names. -/
def reportDrop (s : State) (p : Parcel) (cause : Nat) : State :=
  let i : TrapInfo :=
    { code := if cause = 0 then cOVERFLOW_FULL else cPARCEL_DROPPED
      aux0 := BitVec.ofNat 64 cause
      aux1 := if p.badHdr = 0 then p.hdr else 0
      other := BitVec.ofNat 64 (hDest p.hdr) }
  if p.srcLost then toFaultRing s (lostCharge s p) 0 (asyncRecord s 0 noHandle 4 i)
  else
  match p.part with
  | some q => toFaultRing s q 0 (asyncRecord s 0 p.parent 4 i)
  | none =>
    let cid := cidOf p.from_
    match (getCl s cid).holder with
    | some k =>
      match p.owner with
      | some (j, n) =>
        if j = k then sendFault s k n p.from_ (asyncRecord s n p.parent 4 i)
        else sendFaultOf s k noIdentity p.from_ (asyncRecord s 0 p.parent 4 i) (fromOther s p (some (j, n)))
      | none => sendFaultOf s k noIdentity p.from_ (asyncRecord s 0 p.parent 4 i) (fromOther s p none)
    | none => toFaultRing s (partOf s cid) cid (asyncRecord s 0 p.parent 4 i)
/-- An injected parcel accepted or dropped: its port's BUSY ends (R386). -/
def portDone (s : State) (p : Parcel) : State :=
  match p.port with
  | some false => { s with host := { s.host with pa := { s.host.pa with busy := false } } }
  | some true => { s with host := { s.host with pb := { s.host.pb with busy := false } } }
  | none => s
/-- An operation whose command parcel is dropped never starts: the sets that waited for it are released (R171, R280). -/
def dropOp (s : State) (p : Parcel) : State :=
  match p.op with
  | some o => drainSets s (cidOf o.core)
  | none => s
/-- A parcel in flight dropped: it counts as joined (R171). -/
def dropParcel (s : State) (n : Nat) (p : Parcel) (cause : Nat) : State :=
  portDone (reportDrop (dropOp (dropGive (takeParcel s n) (hDestCore p.hdr) p) p) p cause) p

end Sys2Proof.Machine
end

