-- ==== Sys2Proof/Machine/Posted.lean ====
section
/-! DEFINITION. Posted atomics as their home slices perform them, and the releases that wait for them (R182, R187, R194, R264 to
R266, R318, R335, R371, R409). -/
namespace Sys2Proof.Machine

/-! ## What an atomic computes (R264) -/

def atomicNew (op w old b cmp : Nat) : Nat :=
  if op = 0 then (old + b) % 2 ^ w
  else if op = 1 then (if sgn w b < sgn w old then b else old)
  else if op = 2 then (if sgn w old < sgn w b then b else old)
  else if op = 3 then old &&& b
  else if op = 4 then old ||| b
  else if op = 5 then old ^^^ b
  else if op = 6 then b
  else if op = 7 then (if old = cmp then b else old)
  else (old + b) % 2 ^ w
def slotOr (s : State) : Nat := (taskOf s).slot.getD noSlotNo
/-- The code of an atomic's OP and SZ in its digest term (R409); aaddn is OP 0x118 with a 64-bit operand. -/
def digestAtomic (s : State) (k id op sz va : Nat) (b c : Word) : State :=
  match launchAt s k with
  | none => s
  | some l =>
    if !(ldet l) || !((List.range (2 ^ sz)).any fun i => inWindow l (va + i)) then s
    else
      let t := atomicTerm op sz va b c
      -- the sum of the issuing task; a task that has ended has joined D already
      let s' := { s with cores := s.cores.map fun e =>
        (e.1, { e.2 with
          run := e.2.run.map fun x => if x.slot = some k && x.det.id = id then { x with dig := { x.dig with sum := x.dig.sum + t } } else x
          parked := e.2.parked.map fun x => if x.slot = some k && x.det.id = id then { x with dig := { x.dig with sum := x.dig.sum + t } } else x }) }
      if s' = s then modLaunch s k fun l => { l with digest := l.digest + t } else s'
/-- An atomic on the RTAIL word of a queue whose V and DEVSUB are one is reported to the dispatcher (R335). -/
def reportTail (s : State) (p h ln pa n : Nat) : State :=
  let qt := (partWord s p 5).toNat
  let nq := (field (partWord s p 12) 0 16).toNat
  let q := (pa - qt) / 64
  let d := qt + 64 * q
  if qt ≤ pa && q < nq && pa % 64 < 28 && 24 < pa % 64 + n && qt % 64 = 0 then
    let s := tableRead (flushLine s h ln) d 64
    let ctl := memWord s d
    if bit ctl 63 && bit ctl 59 then { s with reports := s.reports ++ [{ part := p, q := q }] } else s
  else s
/-- A fault of a posted atomic: a record to the fault handler of its launch (R371). -/
def postedFault (s : State) (q : Posted) (i : TrapInfo) : State :=
  let r := asyncRecord s q.id q.handle 3 i
  if q.slot = noSlotNo then toFaultRing s (mgmtPart s) (cidOf q.core) r else sendFault s q.slot q.id q.core r
/-- The parcel an aaddn sends when the new value is the one it waits for (R266). -/
def notify (s : State) (q : Posted) (new : Word) (rel : List Acq) : State :=
  match q.notify with
  | none => s
  | some (dest, tag, cls) =>
    if new ≠ q.cmp then s
    else
      let ten := match launchAt s q.slot with
        | some l => l.tenant
        | none => 0
      let h := homeOf s (partOf s (cidOf q.core)) (q.addr / 128)
      let p : Parcel :=
        { hdr := mkHdr 0 tag dest.toNat cls ten 2 none q.slot
          payload := [BitVec.ofNat 64 q.addr, new]
          src := yOf h * 1024 + xOf h * 32 + 15
          from_ := q.core
          parent := q.handle
          owner := if q.slot = noSlotNo then none else some (q.slot, q.id)
          acq := rel
          srcPart := some (partOf s (cidOf q.core)) }
      { s with net := s.net ++ [p] }
/-- The release record an atomic observed when it was performed, kept by its task for a later acquiring fence (R189). -/
def seenBy (s : State) (k id : Nat) (r : List Rel) : State :=
  if r.isEmpty then s
  else
    let note (x : Task) : Task :=
      if x.slot.getD noSlotNo = k && x.det.id = id then { x with det := { x.det with seen := r.foldl addRel x.det.seen } } else x
    { s with cores := s.cores.map fun e => (e.1, { e.2 with run := e.2.run.map note, parked := e.2.parked.map note }) }
/-- A posted atomic as the consumer of an error (R91, R405); a system task has no fault handler. -/
def postedConsumer (q : Posted) : List Consumer :=
  if q.slot = noSlotNo then [] else [{ slot := q.slot, id := q.id, core := q.core, handle := q.handle, party := 3, addr := q.addr }]
/-- A posted atomic performed at its home slice, or the fault it raises there (R265, R266). -/
def performPosted (s : State) (q : Posted) : State :=
  let p := partOf s (cidOf q.core)
  let ln := q.addr / 128
  let h := homeOf s p ln
  let n := 2 ^ q.sz
  match translate s p h q.addr .atomic with
  | (s, .error (.page c)) =>
    postedFault s q { code := cPAGE, cause := c, addr := BitVec.ofNat 64 q.addr, aux0 := BitVec.ofNat 64 (2 + 256 * q.sz) }
  | (s, .error (.hole _)) => s
  | (s, .ok x) =>
    match detect s q.slot q.acq { id := q.id, op := 0 } q.stamp ln (maskRange (q.addr % 128) n) true true with
    | .error i => postedFault s q i
    | .ok s =>
      let rec0 := relOf s p ln
      let merged := match q.rel with
        | some sc => mergeRel rec0 (relEntries q.slot { id := q.id, op := 0 } q.epoch q.acq sc q.core)
        | none => some rec0
      match merged with
      | none => postedFault s q { code := cACQ_OVERFLOW }
      | some r =>
        let (s, d) := sliceLine s p h ln x false (postedConsumer q)
        let old := natOfBytes (lineBytes d (q.addr % 128) n)
        let new := atomicNew q.op (8 * n) old (q.b.toNat % 2 ^ (8 * n)) (q.cmp.toNat % 2 ^ (8 * n))
        let s := sliceMerge s p h ln x (lineAt (q.addr % 128) (bytesOfNat n new)) (maskRange (q.addr % 128) n)
        let s := digestAtomic (setRel (seenBy s q.slot q.id rec0) p ln r) q.slot q.id q.op q.sz q.addr q.b (if q.op = 7 then q.cmp else 0)
        let s := reportTail s p h ln x.pa n
        notify s q (BitVec.ofNat 64 new) (takeRel r q.slot q.core .dev)
/-- Whether a posted atomic is one of the running task's own; those of the parked task that a fault task serves count (R181). -/
def isOwn (s : State) (q : Posted) : Bool :=
  q.slot = slotOr s && q.core = s.cur &&
    (match myLaunch s with
     | some (_, l) => actor l q.id = actor l (taskOf s).det.id
     | none => q.id = (taskOf s).det.id)
/-- Posted atomics performed now, in the order they issued. -/
def performAll (s : State) (qs : List Posted) : State :=
  qs.foldl (fun s q => performPosted { s with posted := s.posted.erase q } q) s
/-- The task's own earlier posted atomics on a line are performed first (R184, R187), with those that a release among them
orders before it. -/
def ownPosted (s : State) (ln : Nat) : State :=
  performAll s ((s.posted.filter (isOwn s)).foldr (fun q r =>
    if r.2 || q.addr / 128 = ln then (q :: r.1, r.2 || q.rel.isSome) else r) ([], false)).1
/-- A release orders the task's earlier accesses before it: what it has posted is performed first (R124, R182, R186). -/
def ownAll (s : State) : State := performAll s (s.posted.filter (isOwn s))
/-- Whether an earlier posted atomic of a task is performed before a later one: on the same line (R187), or where the later one is a
release (R182, R186), those of a fault task counting as the parked task's (R181). Two aaddn have no fixed order (R318). -/
def postedBefore (s : State) (e q : Posted) : Bool :=
  e.slot = q.slot && e.core = q.core
    && (match launchAt s q.slot with
        | some l => actor l e.id = actor l q.id
        | none => e.id = q.id)
    && (e.addr / 128 = q.addr / 128 || q.rel.isSome)
    && !(e.notify.isSome && q.notify.isSome)
/-- The dev-scope release and the rise of the epoch that a send, give or engine issue makes (R182, R195). -/
def sendRelease (s : State) : Res State := (release (ownAll s) .dev).map bumpEpoch

end Sys2Proof.Machine
end

