-- ==== Sys2Proof/Machine/Tasks.lean ====
section
/-! DEFINITION. Boxes and the spur engine, starting and ending tasks, and completion records (R27 to R56, R61 to R74, R103,
R114, R116, R135, R176 to R178, R200, R374). -/
namespace Sys2Proof.Machine

/-! Boxes. -/

/-- The box of a task that has none: R243 gives it for a handler or trigger task. It lists no carried-code and no system task; those read
the same one, so that in a system task, which is of no launch, path reads its zeros and boxr, fitq and ruleq raise BAD_VERDICT (DESIGN
CHOICE, entry 93). -/
def noBox : Box :=
  { axes := List.replicate 8 { org := 0, ext := 1 }, name := 0, rule := 0, level := 0, sumanc := false, refused := false,
    narrowed := false, lstat := 0, rstat := 0, smode := 0, saxis := 0, tile := 4, leaf := 0, modes := 0 }
def axisOf (b : Box) (a : Nat) : Axis := b.axes.getD a { org := 0, ext := 1 }
/-- BOXCTL (R29). -/
def boxctl (l : Launch) (b : Box) (k : TaskKind) : Word :=
  let j := k = .join
  let f := k = .leafA || k = .leafX
  BitVec.ofNat 64 (b.rule * 2 ^ 60 + naxes l * 2 ^ 56 + b.level * 2 ^ 45 + lclass l * 2 ^ 43
    + (if b.sumanc then 2 ^ 42 else 0) + (if b.refused then 2 ^ 41 else 0) + (if b.narrowed then 2 ^ 40 else 0)
    + (if j then b.lstat * 2 ^ 36 + b.rstat * 2 ^ 32 + b.smode * 2 ^ 30 + b.saxis * 2 ^ 27 else 0)
    + b.tile * 2 ^ 24 + (if f then b.leaf * 2 ^ 16 else 0))
/-- The box image (R28): ten words from byte 256 of the frame. -/
def imageWords (l : Launch) (b : Box) (k : TaskKind) : List Word :=
  ((List.range 8).map fun a => (axisOf b a).ext ++ (axisOf b a).org) ++ [b.name, boxctl l b k]
/-- Whether a box is empty (R39). -/
def boxEmpty (b : Box) : Bool := b.axes.any fun a => a.ext = 0
/-- A leaf descriptor's words as read at admission (R25). -/
def leafWord (l : Launch) (j i : Nat) : Word := (l.leaves.getD j []).getD i 0
/-- The footprint of R41, in sets. -/
def setsNeeded (l : Launch) (j : Nat) (b : Box) : Nat :=
  let base := (field (leafWord l j 1) 0 32).toNat
  let nt := (field (leafWord l j 1) 32 8).toNat
  let x (a : Nat) : Nat := if a = 15 then 1 else (axisOf b a).ext.toNat
  let f := (List.range nt).foldl (fun f q =>
    let t := leafWord l j (2 + q)
    f + (field t 0 32).toNat * x (field t 32 4).toNat * x (field t 36 4).toNat) base
  ceilDiv f setBytes
/-- Level boundaries a depth has reached (R29). -/
def levelCount (l : Launch) (d : Nat) : Nat := ((List.range 6).filter fun i => (levelOf l i).1 ≠ 0 && (levelOf l i).1 ≤ d).length
def setBox (s : State) (k : Nat) (b : BoxRec) : State := modLaunch s k fun l => { l with boxes := put l.boxes b.box.name.toNat b }
def modBox (s : State) (k : Nat) (name : Word) (f : BoxRec → BoxRec) : State :=
  match launchAt s k with
  | some l =>
    match getBox l name with
    | some b => setBox s k (f b)
    | none => s
  | none => s
/-- Boxes of a launch at a cluster. -/
def boxesAt (l : Launch) (cid : Nat) : List BoxRec := (l.boxes.map (·.2)).filter fun b => b.cid = cid

/-! Things in flight that keep a box or a launch from retiring (R47, R151, R200, R265, R280). -/

def flying (s : State) : List (Nat × Nat) :=
  (s.net.filterMap (·.owner)) ++ s.posted.map (fun p => (p.slot, p.id))
    ++ s.clusters.flatMap (fun e => (engOps e.2).map fun o => (o.slot, o.id))
    ++ (openContribs s).map fun c => (c.op.slot, c.op.id)
/-- Whether something issued by one of the identities, or by a fault task that serves one, has not joined. -/
def busyIds (s : State) (k : Nat) (l : Launch) (ids : List Nat) : Bool :=
  (flying s).any fun e => e.1 = k && ids.any fun i => canon l i = canon l e.2
def busySlot (s : State) (k : Nat) : Bool := (flying s).any fun e => e.1 = k

/-! Starting tasks (R61 to R65, R73, R103, R116, R135). -/

def kindCode : TaskKind → Nat
  | .rule => 0
  | .join => 1
  | .leafA => 2
  | .leafX => 3
  | .handler => 4
  | .carried => 5
  | .fault => 6
  | .system => 7
/-- SEED at the start of a task (R135). -/
def seedFor (name : Word) (tag : BitVec 12) (lid : BitVec 32) (kind : Nat) : Word :=
  let key : Word := name ^^^ (tag.setWidth 64 <<< 40) ^^^ (lid.setWidth 64 <<< 4) ^^^ BitVec.ofNat 64 kind
  let h := key * BitVec.ofNat 64 golden
  h ^^^ (h >>> 29)
/-- TASKCTL (R63). -/
def taskctl (q : QTask) (tenant : Nat) : Word :=
  BitVec.ofNat 64 (kindCode q.kind * 2 ^ 60 + q.cls * 2 ^ 58 + q.rule * 2 ^ 54 + q.tag.toNat * 2 ^ 42 + tenant * 2 ^ 36 + q.leaf * 2 ^ 32)
def tileOfCore (c : Nat) : Nat := 4 * cidOf c + idxOf c % 4
/-- The leaf reset of R116 begun now, its semaphores zeroed (entry 113): it ends 64 cycles later. -/
def resetTile (s : State) (t : Nat) : State :=
  modTile s t fun x =>
    { x with
      rows := []
      shapes := []
      entries := []
      sides := []
      acc := []
      sems := []
      resetDue := false
      resetEnd := some (cycOfCl s (t / 4) + 64) }
/-- A frame of a core that no task holds: 7 for the kinds that run there, else the lowest of 0 to 6 (R61). -/
def frameFor (k : Core) (kind : TaskKind) : Option Nat :=
  if kind = .fault || kind = .carried || kind = .system then some 7
  else (List.range 7).find? fun f => k.parked.all fun t => t.frame ≠ f
/-- The reserved sets of a leaf attached to its A-core (R103): the state and the mask of handles. -/
def attachLeaf (s : State) (c : Nat) (h : BitVec 32) (sets : List Nat) : State × Nat :=
  sets.foldl (fun r n =>
    match freeHandle (getCore r.1 c) with
    | some b => (attachSet r.1 c b n (bmEntry false 0 n) (.task h), r.2 + 2 ^ b)
    | none => r) (s, 0)
def listSet (l : List (Nat × Word)) (k : Nat) : Word := look 0 l k

/-- The box a task reads from its start (R243): for a fault that parked no task, that of the tree task it serves, as it now is. -/
def servedBox (l : Option Launch) (q : QTask) : Option Box :=
  if q.kind = .fault && q.flink = 0xFFFFFFFF#32 then
    (l.bind fun l => (q.serves.bind (placeOf l)).bind fun p => if isTree p.kind then boxNamed l p.name else none).orElse fun _ => q.box
  else q.box
/-- The parked task that a fault task serves, on its core. -/
def parkedFor (k : Core) (q : QTask) : Option Task :=
  if q.kind = .fault && q.flink ≠ 0xFFFFFFFF#32 then k.parked.find? fun t => t.handle = q.flink else none
/-- A task starts on a core (R65, R69, R125). `l` is its launch, none for a system task, whose LID and TENANT then count as zero
(DESIGN CHOICE, entry 65). A leaf pair's start zeroes its semaphores, and so does its reset where an earlier pass delays that (R116;
DESIGN CHOICE, entry 113). Sets that attach as it starts are there from the next cycle on (R110), in which it issues. -/
def startTask (s : State) (c : Nat) (q : QTask) (f : Nat) : State :=
  let k := getCore s c
  let h := mkHandle c f k.seqno
  let l : Option Launch := q.slot.bind fun k => launchAt s k
  let q := { q with box := servedBox l q }
  let id := match l with
    | some l => l.ids
    | none => 0
  let b := q.box.getD noBox
  let wp := frameBase c f
  let isX := classOf (idxOf c) = .x
  let (s, mask) := match q.kind, q.box, l with
    | .leafA, some bx, some l => attachLeaf s c h (((getBox l bx.name).map fun r : BoxRec => r.sets).getD [])
    | _, _, _ => (s, 0)
  let s := match q.take with
    | some hd => modCore s c fun k => { k with holders := put k.holders hd (.task h), was := k.was.filter fun w => w.h ≠ hd }
    | none => s
  let st : Word := BitVec.ofNat 64 ((if q.kind = .system then 2 ^ 55 else 0)
    + (match l with
       | some l => if ldet l then 2 ^ 54 else 0
       | none => 0) + q.cls * 2 ^ 51)
  let serves := match l, q.serves with
    | some l, some i => (placeOf l i).map fun p => p.kind
    | _, _ => none
  let nm : Word := if q.kind = .rule || q.kind = .join || q.kind = .leafA || q.kind = .leafX then b.name
    else if q.kind = .fault then
      match serves with
      | some x => if isTree x then b.name else 0
      | none => 0
    else 0
  let ctx : Ctx :=
    { pc := q.pc
      status := st
      seed := seedFor nm q.tag ((l.map fun y : Launch => lidOf y).getD 0) (kindCode q.kind)
      budget := match l with
        | some l => l.budget
        | none => 0xFFFFFFFF#32 }
  let regs := (match l with
    | some l => [(1, paramsOf l)]
    | none => []) ++ (if q.kind = .leafA then [(2, BitVec.ofNat 64 mask)] else []) ++ q.regs
  let words := (List.range 32).map fun i => listSet regs i
  let hdr : List Word :=
    [h.setWidth 64, q.parent.setWidth 64, taskctl q ((l.map fun y : Launch => y.tenant).getD 0), field b.modes 0 64, field b.modes 64 64,
     q.flink.setWidth 64]
  let img := match l with
    | some l => if isTree q.kind || q.kind = .fault then imageWords l b q.kind else []
    | none => []
  let s := modCore s c fun k =>
    let k := { k with store := writeRun 0 k.store (wp / 8) words }
    let k := if img.isEmpty then k else { k with store := writeRun 0 k.store (wp / 8 + 32) img }
    let k := { k with store := writeRun 0 k.store (wp / 8 + 42) hdr }
    let k := if isX then { k with store := writeRun 0 k.store (wp / 8 + 48) (List.replicate 256 0) } else k
    { k with seqno := (k.seqno + 1) % 2 ^ 15, l1 := [], prefs := [], wr := [], ready := cycOf s c + (if mask = 0 then 0 else 1), wait := none }
  let t : Task :=
    { handle := h
      frame := f
      wp := wp
      kind := q.kind
      slot := q.slot
      cls := q.cls
      parent := q.parent
      box := some b
      ctx := ctx
      -- a fault task goes on in the epoch and the issue numbers of the parked task whose accesses its own count as (R181, R191)
      det := { id := id
               epoch := ((parkedFor k q).map fun p : Task => p.det.epoch).getD 0
               issued := ((parkedFor k q).map fun p : Task => p.det.issued).getD 0 }
      code := q.code
      sender := q.sender }
  let pl : Place :=
    { kind := q.kind
      name := b.name
      modes := b.modes
      serves := match l with
        | some l => q.serves.map (canon l)
        | none => q.serves
      cls := q.cls
      parks := (parkedFor k q).isSome }
  let s := match q.slot with
    | some sl => modLaunch s sl fun l => { l with ids := l.ids + 1, places := put l.places id pl }
    | none => s
  let t := match q.slot.bind fun k => launchAt s k with
    | some l =>
      match mergeAcq l { id := id, op := 0 } [] q.acq with
      | some tbl => { t with det := { t.det with acq := tbl } }
      | none => { t with mmxNext := some (parkRecord s t q.pc st { code := cACQ_OVERFLOW }) }
    | none => t
  let s := modCore s c fun k => { k with run := some t }
  let s := match q.slot, q.box with
    | some sl, some bx =>
      if isTree q.kind then
        modBox s sl bx.name fun r => { r with
          ids := r.ids ++ [id]
          phase := if q.kind = .leafA then .leafRun else r.phase
          verdictBy := if q.kind = .rule then h else r.verdictBy }
      else s
    | _, _ => s
  match q.kind, q.slot, q.box with
  | .leafA, some sl, some bx =>
    let tl := tileOfCore c
    let x := getTile s tl
    let s := setTile s tl { x with pair := some (sl, bx.name.toNat), sems := [] }
    let s := if x.waiting.isSome || !x.running.isEmpty then modTile s tl fun y => { y with resetDue := true } else resetTile s tl
    match launchAt s sl with
    | some l =>
      let xq : QTask :=
        { kind := .leafX
          slot := some sl
          cls := q.cls
          parent := q.parent
          pc := codeBase l + BitVec.ofNat 64 (field (leafWord l q.leaf 0) 32 32).toNat
          acq := q.acq
          box := some bx
          leaf := q.leaf }
      queueTask s (coreNo (cidOf c) (idxOf c + 4)) xq
    | none => s
  | _, _, _ => s

/-! The spur engine: queues and leaves (R38, R42, R52, R70, R73). -/

/-- The tile a leaf goes to (R73): its own, or the A-core with the fewest queued tasks; tile 0 in a replay (R410). -/
def leafTile (s : State) (l : Launch) (cid : Nat) (b : Box) : Nat :=
  if l.replay then 0
  else if b.tile < 4 then b.tile
  else
    (List.range 4).foldl (fun m i =>
      if (getCore s (coreNo cid i)).runq.length < (getCore s (coreNo cid m)).runq.length then i else m) 0
/-- Reserved leaves of a cluster whose A-side task is in no run queue yet enter one in order, while it has room (R69, R73). That a
leaf waits, its sets reserved, for a slot of a full run queue is a DESIGN CHOICE (entry 64). -/
def pumpLeaves (s : State) (cid k : Nat) : State :=
  match launchAt s k with
  | none => s
  | some l =>
    (((boxesAt l cid).filter fun b => b.phase = .leafReserved && !b.queued).mergeSort fun a b => a.waitNo ≤ b.waitNo).foldl (fun s r =>
      let c := coreNo cid (leafTile s l cid r.box)
      if 32 ≤ (getCore s c).runq.length then s
      else
        let q : QTask :=
          { kind := .leafA
            slot := some k
            cls := lclass l
            parent := r.verdictBy
            pc := codeBase l + BitVec.ofNat 64 (field (leafWord l r.box.leaf 0) 0 32).toNat
            acq := r.acq
            box := some r.box
            leaf := r.box.leaf }
        queueTask (setBox s k { r with queued := true }) c q) s
/-- A leaf whose sets are reserved: its A-side task is queued. -/
def leafGo (s : State) (k : Nat) (name : Word) (sets : List Nat) : State :=
  match launchAt s k with
  | none => s
  | some l =>
    match getBox l name with
    | none => s
    | some r =>
      let s := sets.foldl (fun s n => setUse s r.cid n (.reserved k name.toNat)) s
      pumpLeaves (setBox s k { r with phase := .leafReserved, sets := sets, running := 2, queued := false }) r.cid k
/-- Whether the spur engine of a cluster starts tasks of a launch: it runs, and is not stopped. -/
def engineOpen (s : State) (k cid : Nat) : Bool :=
  match launchAt s k with
  | some l => l.state = .running && !((getCl s cid).stopped.contains k)
  | none => false
/-- The waiting leaves of a cluster, in order of their verdicts. -/
def waitList (l : Launch) (cid : Nat) : List BoxRec :=
  ((boxesAt l cid).filter fun b => b.phase = .leafWait).mergeSort fun a b => a.waitNo ≤ b.waitNo
/-- After a release the wait list is served in order, stopping at the first leaf that does not fit (R42), or that is spilled and must be
reloaded first (R53). -/
def serveWait (s : State) (cid : Nat) : State :=
  match (getCl s cid).holder with
  | none => s
  | some k =>
    match launchAt s k with
    | none => s
    | some l =>
      if !(engineOpen s k cid) then s
      else
        ((waitList l cid).foldl (fun r b =>
          if !r.2 then r
          else if b.spilled then (r.1, false)
          else
            let n := setsNeeded l b.box.leaf b.box
            let fr := freeSets (getCl r.1 cid)
            if n ≤ fr.length then (leafGo r.1 k b.box.name (fr.take n), true) else (r.1, false)) (s, true)).1
/-- The clearing of sets that ends in this cycle (R105): they become free together, and the wait list is served (R42). -/
def freeDue (s : State) (cid : Nat) : State :=
  let due := (List.range 8).filter fun n =>
    match (getSet (getCl s cid) n).use with
    | .clearing t => decide (t ≤ cycOfCl s cid)
    | _ => false
  if due.isEmpty then s else serveWait (due.foldl (fun s n => setSet s cid n {}) s) cid
/-- Boxes of a cluster whose rule or join task is still to be queued, in order (R52). -/
def pumpList (l : Launch) (cid : Nat) : List BoxRec :=
  ((boxesAt l cid).filter fun b => b.phase = .pending || b.phase = .joinPending).mergeSort fun a b => a.waitNo ≤ b.waitNo
/-- Pending rule and join tasks enter the cluster core's run queue in order while it has room (R52, R70); a spilled one is waited
for until it is reloaded (R53). Reserved leaves enter theirs. -/
def spurPump (s : State) (cid : Nat) : State :=
  match (getCl s cid).holder with
  | none => s
  | some k =>
    match launchAt s k with
    | none => s
    | some l =>
      if !(engineOpen s k cid) then s
      else
        let c := coreNo cid 8
        ((pumpList l cid).takeWhile fun b => !b.spilled).foldl (fun s b =>
          if 32 ≤ (getCore s c).runq.length then s
          else
            let j := b.phase = .joinPending
            let e := if j then b.join else b.box.rule
            let q : QTask :=
              { kind := if j then .join else .rule
                slot := some k
                cls := lclass l
                parent := if j then b.verdictBy else b.parent
                pc := codeBase l + BitVec.ofNat 64 (ruleOffs l e)
                acq := b.acq
                box := some b.box
                rule := e }
            queueTask (setBox s k { b with phase := if j then .joining else .ruling }) c q) (pumpLeaves s cid k)
/-- A number of the cluster's order of pending entries and waiting leaves. -/
def drawWait (s : State) (cid : Nat) : State × Nat :=
  (modCl s cid fun x => { x with nextWait := x.nextWait + 1 }, (getCl s cid).nextWait)
/-- Whether a box from a cluster may reach a spur engine in this cycle: those of one cycle from different clusters come by ascending
source (R52). -/
def boxMayArrive (s : State) (cid src : Nat) : Bool :=
  match (getCl s cid).lastBox with
  | some (t, x) => !(t = cycOfCl s cid && src < x)
  | none => true
/-- A box from a cluster reaches its own cluster's spur engine and takes its SEQNO (R52, R352). -/
def boxArrive (s : State) (k : Nat) (name : Word) (src : Nat) : State :=
  match (launchAt s k).bind fun l => getBox l name with
  | none => s
  | some b =>
    let n := (getCl s b.cid).nextSeq
    let (s, w) := drawWait s b.cid
    let s := modCl s b.cid fun x => { x with nextSeq := n + 1, lastBox := some (cycOfCl s b.cid, src) }
    spurPump (setBox s k { b with phase := .pending, seqno := n, waitNo := w }) b.cid

/-! Ending tasks (R104, R114, R125, R161, R231). All act for the running task of the core that runs; the release comes first. -/

def satAdd16 (x : BitVec 16) (n : Nat) : BitVec 16 := if 2 ^ 16 ≤ x.toNat + n then 0xFFFF#16 else x + BitVec.ofNat 16 n
/-- Sets that a task holds on a core. -/
def heldHandles (k : Core) (h : BitVec 32) : List Nat := (k.holders.filter fun e => e.2 = .task h).map (·.1)
/-- Tagged-data parcels that wait in an X-core's inbox for room in their channel append in arrival order (R161). -/
def fillChannels (s : State) (c : Nat) : State :=
  let t := tileOfCore c
  ((getCore s c).inbox.foldl (fun (r : State × List Nat) p =>
    let n := (hTag p.hdr).toNat % 8
    let q := look [] (getTile r.1 t).chans n
    if hKind p.hdr ≠ 2 || r.2.contains n then r
    else if 64 < q.length + p.payload.length then (r.1, n :: r.2)
    else
      let s := modCore r.1 c fun k => { k with inbox := k.inbox.erase p }
      (modTile s t fun x => { x with chans := if p.payload.isEmpty then x.chans else put x.chans n (q ++ p.payload) }, r.2)) (s, [])).1
/-- The channel words of a tile's X-core discarded and counted (R161). -/
def dropChannels (s : State) (t : Nat) : State :=
  modTile s t fun x =>
    { x with chans := [], chanDiscards := satAdd16 0 ((x.chans.map fun e => e.2.length).foldl (· + ·) 0) }
/-- The queue entries of a tile discarded and counted at the end of a leaf pair (R114). -/
def dropQueues (s : State) (t : Nat) : State :=
  modTile s t fun x =>
    let n := ((x.lq ++ x.sq).map fun e => e.2.length).foldl (· + ·) (x.pushes.length + x.fills.length)
    { x with lq := [], sq := [], pushes := [], fills := [], discards := satAdd16 0 n, pair := none }
/-- The tables that the tasks of a box held at their ends, kept for what comes after the subtree (R196). -/
def addFin (fin : List Acq) (t : Det) : List Acq := t.acq.foldl addAcq fin
/-- What a fault task acquired, the epoch it reached and the operations it numbered are the parked task's when it ends (R181), and its table joins those of the
subtree of the box it serves (R193, R196). -/
def faultEnds (s : State) (c k : Nat) (t : Task) : State :=
  match launchAt s k with
  | none => s
  | some l =>
    let me := actor l t.det.id
    let back (u : Task) : Task :=
      if u.slot = some k && u.det.id = me then { u with det := { u.det with epoch := t.det.epoch, acq := t.det.acq, issued := t.det.issued } } else u
    let s := if me = t.det.id then s else modCore s c fun x => { x with parked := x.parked.map back }
    match placeOf l t.det.id with
    | some p => if isTree p.kind then modBox s k p.name fun r => { r with fin := addFin r.fin t.det } else s
    | none => s
/-- A task of a core, running or parked, ends: sets released, digest joined, frame freed, its box told (R104, R231). -/
def endOf (s : State) (c : Nat) (t : Task) (parked : Bool) : State :=
  let s := (heldHandles (getCore s c) t.handle).foldl (fun s h => releaseHandle s c h) s
  let s := match t.slot with
    | some k => digestJoin s k t.dig
    | none => s
  let s := modCore s c fun k =>
    if parked then { k with parked := k.parked.filter fun u => u.handle ≠ t.handle }
    else { k with run := none, wr := [], wait := none }
  let tl := tileOfCore c
  match t.slot, t.box with
  | some k, some b =>
    match t.kind with
    | .leafA | .leafX =>
      let s := modBox s k b.name fun r =>
        { r with running := r.running - 1, phase := if r.running ≤ 1 then .ending else r.phase, fin := addFin r.fin t.det }
      let s := if t.kind = .leafX then fillChannels (dropChannels s tl) c else s
      match (launchAt s k).bind fun l => getBox l b.name with
      | some r => if r.running = 0 then dropQueues s tl else s
      | none => dropQueues s tl
    | .join => modBox s k b.name fun r => { r with phase := .ending, fin := addFin r.fin t.det }
    | .rule => modBox s k b.name fun r => { r with fin := addFin r.fin t.det }
    | .fault => faultEnds s c k t
    | _ => s
  | _, _ => s
/-- `end` of the running task, after its release (R231). -/
def endRunning (s : State) : State := endOf s s.cur (taskOf s) false

/-! Completion records (R176 to R178, R374). -/

def launchFsum (l : Launch) : Word :=
  let n := min l.faults 0xFFFF
  let p := match l.abort with
    | some x => x
    | none => l.first.getD (0, 0)
  BitVec.ofNat 64 (n * 2 ^ 48 + p.1 % 2 ^ 16 * 2 ^ 32 + p.2.toNat)
def recordOf (k : Nat) (l : Launch) (stat : Nat) (held : Bool) : Deferred :=
  { slot := k, part := l.part, ring := ringPtr l, hdrAddr := l.hdrAddr, lid := lidOf l, stat := stat,
    drops := min l.drops 0xFFFF, fsum := launchFsum l, digest := if ldet l then l.digest else 0, held := held }
/-- NO_RING (R374): a record with no ring to go to. -/
def noRing (s : State) (d : Deferred) : State :=
  toFaultRing s d.part 0 (asyncRecord s 0 noHandle 4
    { code := cNO_RING
      addr := BitVec.ofNat 64 d.hdrAddr
      aux0 := BitVec.ofNat 64 (d.stat + d.drops * 2 ^ 16)
      aux1 := d.fsum
      other := d.lid.setWidth 64 })
def le (l : List Byte) (o n : Nat) : Nat := natOfBytes ((l.drop o).take n)
/-- A ring descriptor that meets R176. -/
def ringOk (r : List Byte) : Bool :=
  le r 0 8 % 32 = 0 && 16 ≤ le r 8 4 && le r 8 4 ≤ 2 ^ 20 && 2 ^ Nat.log2 (le r 8 4) = le r 8 4
  && 1 ≤ le r 12 4 && le r 12 4 ≤ le r 8 4 && bitsOf (le r 32 4) 30 16 = 0 && (r.drop 36).all (· = 0)
/-- One attempt at a record: written, or reported as NO_RING; or not yet, the ring being full (R178). -/
def tryRecord (s : State) (d : Deferred) : State × Bool :=
  match unitRead s d.part d.ring 64 with
  | (s, none) => (noRing s d, true)
  | (s, some r) =>
    if !(ringOk r) then (noRing s d, true)
    else
      let tail := le r 24 4
      let nent := le r 8 4
      if (tail + 2 ^ 32 - le r 28 4) % 2 ^ 32 = nent then (s, false)
      else
        let bs := bytesOfNat 4 d.lid.toNat ++ bytesOfNat 2 d.stat ++ bytesOfNat 2 d.drops ++ bytesOf 8 (timeNow s)
          ++ bytesOf 8 d.fsum ++ bytesOf 8 d.digest
        match unitStore s d.part (le r 0 8 + 32 * (tail % nent)) bs with
        | (s, false) => (noRing s d, true)
        | (s, true) =>
          match unitStore s d.part (d.ring + 24) (bytesOfNat 4 ((tail + 1) % 2 ^ 32)) with
          | (s, false) => (noRing s d, true)
          | (s, true) =>
            (ringSignal s d.part d.ring true ((tail + 1) % 2 ^ 32) (le r 12 4) (le r 16 8) (le r 32 4), true)
/-- A launch's record (R178): after every store of the launch is in memory; in completion order on its ring. False where it
waits for room. -/
def putRecord (s : State) (d : Deferred) : State × Bool :=
  let s := flushSlices s d.part
  let later (s : State) : State × Bool := ({ s with disp := { s.disp with deferred := s.disp.deferred ++ [d] } }, false)
  if d.ring = 0 then (if d.stat = 1 || d.stat = 2 || d.stat = 3 then noRing s d else s, true)
  else if s.disp.deferred.any fun e => e.part = d.part && e.ring = d.ring then later s
  else
    match tryRecord s d with
    | (s, true) => (s, true)
    | (s, false) => later s

/-! What a launch leaves behind when it completes, is replayed or is aborted (R106, R154, R161, R200, R373, R410). -/

/-- Resident sets of a launch on a core released. -/
def releaseResident (s : State) (c k : Nat) : State :=
  ((getCore s c).holders.filter fun e => e.2 = .resident k).foldl (fun s e => releaseHandle s c e.1) s
/-- Pending sets of a launch on a core released. -/
def releasePending (s : State) (c k : Nat) : State :=
  ((getCore s c).holders.filter fun e => e.2 = .pending k).foldl (fun s e => releaseHandle s c e.1) s
/-- A launch's queued handlers, held parcels, triggers and posted receives discarded on a core; handler parcels counted, whether
queued or held (R373). -/
def discardOn (s : State) (c k : Nat) : State :=
  let x := getCore s c
  let mine (p : Parcel) : Bool := hSlot p.hdr = k && !p.sys
  let n := (x.runq.filter fun q => q.slot = some k && q.kind = .handler && !q.soft).length
    + (x.inbox.filter fun p => mine p && hKind p.hdr = 0 && !p.soft).length
  let s := setCore s c { x with
    runq := x.runq.filter fun q => q.slot ≠ some k
    faultq := x.faultq.filter fun q => q.slot ≠ some k
    inbox := x.inbox.filter fun p => !(mine p)
    trigs := x.trigs.filter fun t => t.slot ≠ k
    recvs := x.recvs.filter fun r => r.slot ≠ k
    tagsBy := []
    tagAcq := [] }
  modLaunch (releasePending s c k) k fun l => { l with drops := l.drops + n }
/-- The region's cores. -/
def regionCores (l : Launch) : List Nat := (lclusters l).flatMap fun cid => (List.range 9).map (coreNo cid)
/-- The detector's records of a launch: check records with their places in the region, and release entries (R197, R375). -/
def dropRecords (s : State) (k : Nat) : State :=
  match launchAt s k with
  | none => s
  | some l =>
    let s := l.checks.foldl (fun s c => if c.2.away then recordBack s l.part c.1 else s) s
    let s := modPart s l.part fun p =>
      { p with rel := (p.rel.map fun e => (e.1, e.2.filter fun r => r.slot ≠ k)).filter fun e => !e.2.isEmpty }
    modLaunch s k fun l => { l with checks := [] }
/-- Everything of a launch on its clusters ended but running handlers: resident sets, channels, overflow parcels, the rest. -/
def closeRegion (s : State) (k : Nat) (l : Launch) : State :=
  let s := (regionCores l).foldl (fun s c => releaseResident (discardOn s c k) c k) s
  let s := { s with ctrs := s.ctrs.filter fun c => c.isSet || !((regionCores l).contains c.unit) }
  (lclusters l).foldl (fun s cid =>
    let s := (List.range 4).foldl (fun s i => dropChannels s (4 * cid + i)) s
    modCl s cid fun x => { x with overflow := x.overflow.filter fun p => hSlot p.hdr ≠ k, stopped := x.stopped.filter (· ≠ k) }) s
/-- The slot and region freed (R155, R337). -/
def freeSlot (s : State) (k : Nat) : State :=
  match launchAt s k with
  | none => s
  | some l =>
    dropLaunch ((lclusters l).foldl (fun s cid => modCl s cid fun x =>
      if x.holder = some k then { x with holder := none, nextSeq := 0, spillArea := none } else x) s) k
/-- Running tasks of a launch, with their cores. -/
def runningOf (s : State) (k : Nat) : List (Nat × Task) :=
  s.cores.filterMap fun e => e.2.run.bind fun t => if t.slot = some k then some (e.1, t) else none
def parkedOf (s : State) (k : Nat) : List (Nat × Task) :=
  s.cores.flatMap fun e => (e.2.parked.filter fun t => t.slot = some k).map fun t => (e.1, t)
/-- A parked task ends as abandon ends it, its held-back bytes discarded (R236, R416). -/
def abandonParked (s : State) (c : Nat) (t : Task) : State := endOf s c { t with held := [] } true

end Sys2Proof.Machine
end

