-- ==== Sys2Proof/Machine/Launches.lean ====
section
/-! DEFINITION. Splitting, placing and retiring boxes, spilling them, and the ends of a launch: completion, the digest check,
abort (R30 to R56, R60, R177, R178, R200, R337, R342 to R344, R372, R373, R408 to R410). -/
namespace Sys2Proof.Machine

/-! Placement (R44 to R46). -/

def placeKey (name : Word) : Nat := depthOf name * 2 ^ 58 + pathOf name / 2 ^ (58 - depthOf name)
/-- The members of a level action, each as the region clusters it holds, in numbering order (R44). -/
def members (l : Launch) (cid act : Nat) : List (List Nat) :=
  let cs := lclusters l
  let some' (x : List (List Nat)) := x.filter fun y => !y.isEmpty
  if act = 2 then (cs.filter fun k => islandOf k = islandOf cid).map fun k => [k]
  else if act = 3 then some' ((List.range 4).map fun i => cs.filter fun k => islandOf k = 4 * dieOf cid + i)
  else if act = 4 then some' ((List.range 4).map fun d => cs.filter fun k => dieOf k = d)
  else cs.map fun k => [k]
/-- The member with the most free sets, the lower number on a tie (R46). -/
def freest (s : State) (ms : List (List Nat)) : Nat :=
  let n (m : List Nat) : Nat := (m.map fun k => (freeSets (getCl s k)).length).foldl (· + ·) 0
  (List.range ms.length).foldl (fun b i => if n (ms.getD b []) < n (ms.getD i []) then i else b) 0
/-- Where a new box goes: cluster and tile (R44). In a replay every action acts as stay (R410). That a boundary whose action is stay
leaves a tile binding as it is, although R44 binds "until a later boundary", is a DESIGN CHOICE (entry 68). -/
def placeBox (s : State) (l : Launch) (cid tile : Nat) (name : Word) : Nat × Nat :=
  if l.replay then (cid, tile)
  else
    match (List.range 6).find? fun i => (levelOf l i).1 = depthOf name with
    | none => (cid, tile)
    | some i =>
      let act := (levelOf l i).2
      if act = 0 then (cid, tile)
      else if act = 1 then (cid, pick (placeKey name) 4)
      else
        let ms := members l cid act
        let k := if !(ldet l) && Config.placeByFree l.order name then freest s ms else pick (placeKey name) ms.length
        ((ms.getD k []).headD cid, 4)

/-! The save block (R342 to R344). -/

/-- A box's state code in its record (R344); none for a box that no record describes. Of boxes that end only a split one has a record: its
join entry stands until it retires (R352). -/
def stateCode (p : BoxPhase) : Option Nat :=
  match p with
  | .pending => some 0
  | .leafWait => some 1
  | .split _ => some 2
  | .joinPending => some 2
  | .joining => some 2
  | .ending => some 2
  | .heldRight => some 3
  | .leafReserved => some 4
  | _ => none
def leftOf (p : BoxPhase) : Nat :=
  match p with
  | .split n => n
  | _ => 0
/-- What a box's record has no place for. -/
def boxLeft (b : BoxRec) : BoxLeft :=
  { parent := b.parent, verdictBy := b.verdictBy, acq := b.acq, fin := b.fin, ids := b.ids
    phase := if b.phase = .joining || b.phase = .ending then some b.phase else none }
/-- A box record's 48 words (R344). A join entry's table is what its children's tasks left (R196). -/
def boxWords (b : BoxRec) (st : Nat) : List Word :=
  let x := b.box
  let bctl := x.rule * 2 ^ 60 + st * 2 ^ 56 + x.leaf * 2 ^ 52 + b.join * 2 ^ 47 + x.tile * 2 ^ 44 + (if x.sumanc then 2 ^ 43 else 0)
    + (if x.refused then 2 ^ 42 else 0) + (if x.narrowed then 2 ^ 41 else 0) + x.lstat * 2 ^ 37 + x.rstat * 2 ^ 33
    + x.smode * 2 ^ 31 + x.saxis * 2 ^ 28 + leftOf b.phase * 2 ^ 26
  let es := ((if st = 2 then b.fin else b.acq).filter fun e => e.who.op = 0).take 32  -- an engine operation has no identity to write
  let seq := if st = 3 then 0xFFFFFFFF else b.seqno % 2 ^ 32
  ((List.range 8).map fun a => (axisOf x a).ext ++ (axisOf x a).org)
    ++ [x.name, BitVec.ofNat 64 bctl, field x.modes 0 64, field x.modes 64 64, BitVec.ofNat 64 (es.length * 2 ^ 32 + seq), 0, 0, 0]
    ++ ((List.range 32).map fun i =>
        match es[i]? with
        | some e => BitVec.ofNat 64 (e.who.id % 2 ^ 32 * 2 ^ 32 + e.n % 2 ^ 32)
        | none => 0)
/-- A table read back from a box record: the entries it has, and what the device kept beside it, which are those beyond 32 and those of
engine operations (entry 19). -/
def tableBack (read kept : List Acq) : List Acq :=
  if (kept.filter fun e => e.who.op = 0).take 32 = read then kept else read ++ kept.filter fun e => e.who.op ≠ 0
/-- A box record read back, for a cluster. -/
def boxOfWords (l : Launch) (cid : Nat) (w : List Word) : BoxRec :=
  let g (i : Nat) : Word := w.getD i 0
  let c := g 9
  let f (lo n : Nat) : Nat := (field c lo n).toNat
  let n := (field (g 12) 32 32).toNat
  let es : List Acq := (List.range (min n 32)).map fun i =>
    { who := { id := (field (g (16 + i)) 32 32).toNat, op := 0 }, n := (field (g (16 + i)) 0 32).toNat }
  let st := f 56 4
  let name := g 8
  let kept := look {} l.handles name.toNat
  { box :=
      { axes := (List.range 8).map fun a => { org := field (g a) 0 32, ext := field (g a) 32 32 }
        name := name
        rule := f 60 4
        level := levelCount l (depthOf name)
        sumanc := bit c 43
        refused := bit c 42
        narrowed := bit c 41
        lstat := f 37 4
        rstat := f 33 4
        smode := f 31 2
        saxis := f 28 3
        tile := f 44 3
        leaf := f 52 4
        modes := (g 11) ++ (g 10) }
    phase := if st = 0 then .pending else if st = 1 || st = 4 then .leafWait else if st = 3 then .heldRight
      else if f 26 2 = 0 then kept.phase.getD .joinPending else .split (f 26 2)
    cid := cid
    seqno := (field (g 12) 0 32).toNat
    join := f 47 5
    acq := if st = 2 && f 26 2 ≠ 0 then kept.acq else tableBack es (if st = 2 then kept.fin else kept.acq)
    fin := if st = 2 then tableBack es kept.fin else kept.fin
    ids := kept.ids
    parent := kept.parent
    verdictBy := kept.verdictBy
    outcome := if st = 2 then 2 else if bit c 42 then 3 else 0
    waitNo := (field (g 12) 0 32).toNat }
def wordsBytes (l : List Word) : List Byte := l.flatMap fun w => bytesOf 8 w
def bytesWords : Nat → List Byte → List Word
  | 0, _ => []
  | n + 1, l => wordOfBytes (l.take 8) :: bytesWords n (l.drop 8)

/-- Why an area cannot be had or written. -/
inductive SaveErr where
  | full
  | page
deriving DecidableEq, Repr

/-- Bytes allocated upward in a launch's save block, by adding to USED (R342): the offset. -/
def allocArea (s : State) (k n : Nat) : State × Except SaveErr Nat :=
  match launchAt s k with
  | none => (s, .error .page)
  | some l =>
    match unitTake s l.part (savePtr l) 32 with
    | (s, none) => (s, .error .page)
    | (s, some b) =>
      let size := if le b 8 8 = 0 then 8192 else le b 8 8
      let st := bitsOf (le b 0 8) 55 48
      let used := if st = 0 then 128 else le b 16 8
      if size < used + n then (s, .error .full)
      else
        let ctl := BitVec.ofNat 64 (2 ^ 56 + (if st = 0 then 1 else st) * 2 ^ 48)
        let areas := if st = 0 then 0 else le b 28 2
        match unitStore s l.part (savePtr l) (bytesOf 8 ctl ++ bytesOfNat 8 (le b 8 8) ++ bytesOfNat 8 (used + n)
          ++ (b.drop 24).take 4 ++ bytesOfNat 2 (areas + 1)) with
        | (s, false) => (s, .error .page)
        | (s, true) => (s, .ok used)

/-! Abort (R372, R373) and the ends of a launch. -/

/-- Region clusters the launch holds. -/
def heldClusters (s : State) (k : Nat) (l : Launch) : List Nat := (lclusters l).filter fun cid => (getCl s cid).holder = some k
/-- An effect for a task of another core, in whose name memory operations then act. -/
def asCore (s : State) (c : Nat) (f : State → State) : State := { f { s with cur := c } with cur := s.cur }
/-- A running task ends as abandon ends one: its dirty bytes written back, bytes a failing check holds back discarded (R373). -/
def abandonRunning (s : State) (c : Nat) : State :=
  if (getCore s c).run.isNone then s
  else asCore s c fun s =>
    let s := wbPark s
    endOf s c { taskOf s with held := [] } false
/-- Sets reserved for leaves of a launch given up. -/
def unreserve (s : State) (k cid : Nat) : State :=
  (List.range 8).foldl (fun s n =>
    match (getSet (getCl s cid) n).use with
    | .reserved j _ => if j = k then setUse s cid n .free else s
    | _ => s) s
/-- The recorder's entry of a launch that completes (R411). -/
def recComplete (s : State) (k : Nat) (l : Launch) (stat : Nat) : State :=
  recEvent s 0 2 l.part (rootCluster l) (BitVec.ofNat 64 ((lidOf l).toNat + l.q * 2 ^ 32 + k * 2 ^ 44))
    (BitVec.ofNat 64 (stat * 2 ^ 48 + (field (launchFsum l) 0 48).toNat))
/-- What an aborted launch does when everything it issued has joined: its record, and its slot freed. -/
def finishAbort (s : State) (k : Nat) (l : Launch) : State :=
  let cs := heldClusters s k l
  let s := if cs.isEmpty then s else closeRegion s k l
  let s := dropRecords (cs.foldl (fun s cid => unreserve s k cid) s) k
  match launchAt s k with
  | none => s
  | some l =>
    let s := { s with disp := { s.disp with lastDone := some (s.clk.mesh, l.q, l.order) } }
    match putRecord (recComplete s k l 3) (recordOf k l 3 true) with
    | (s, true) => freeSlot s k
    | (s, false) => modLaunch s k fun l => { l with state := .closing, recorded := false }
/-- A launch that only waits for what is still in flight or running ends where that is over (R155, R200, R373). -/
def settle (s : State) (k : Nat) : State :=
  match launchAt s k with
  | none => s
  | some l =>
    match l.state with
    | .aborting => if busySlot s k then s else finishAbort s k l
    | .closing => if !l.recorded || busySlot s k || !(runningOf s k).isEmpty then s else freeSlot s k
    | _ => s
/-- Handler parcels held by a saved launch. -/
def heldSaved (l : Launch) : Nat := (l.left.flatMap fun e => e.2.parcels.filter fun p => hKind p.hdr = 0).length
/-- Whether a box may retire: its tasks have ended and what they issued has joined, or its last child has retired. -/
def canRetire (s : State) (k : Nat) (l : Launch) (r : BoxRec) : Bool :=
  match r.phase with
  | .ending => !(busyIds s k l r.ids) && r.running = 0
      && !((runningOf s k ++ parkedOf s k).any fun t => isTree t.2.kind && (t.2.box.map fun b => b.name) = some r.box.name)
  | .split n => n = 0
  | _ => false
/-- Whether the root of a launch retires in this cycle: that comes before a drain or an abort (R340, R373). -/
def rootDue (s : State) (k : Nat) (l : Launch) : Bool :=
  (l.state = .running || l.state = .draining) && (getBox l 0).any (canRetire s k l)
/-- Every task of a launch ends, running or parked, and what it has queued is discarded (steps 2 and 3 of R373). -/
def endTasks (s : State) (k : Nat) (l : Launch) : State :=
  let s := (runningOf s k).foldl (fun s e => abandonRunning s e.1) s
  let s := (parkedOf s k).foldl (fun s e => abandonParked s e.1 e.2) s
  (heldClusters s k l).foldl (fun s cid => (List.range 9).foldl (fun s i => discardOn s (coreNo cid i) k) s) s
/-- An abort (R373): `counted` where the cause is a fault that FSUM has counted. -/
def abortLaunch (s : State) (k code : Nat) (h : BitVec 32) (counted : Bool) : State :=
  match launchAt s k with
  | none => s
  | some l =>
    if l.state = .aborting || l.state = .closing || rootDue s k l then s
    else
      let s := setLaunch s k { l with
        state := .aborting
        abort := some (code, h)
        drops := l.drops + heldSaved l
        left := []
        kept := []
        faults := if counted then l.faults else l.faults + 1 }
      settle (endTasks s k l) k
/-- Launches that complete in one cycle come by queue, then by admission (R178). -/
def sooner (a b : Launch) : Bool := a.q < b.q || (a.q = b.q && a.order < b.order)
/-- Launches in that order. -/
def byOrder (ls : List (Nat × Launch)) : List (Nat × Launch) :=
  ls.foldl (fun acc e => (acc.filter fun x => sooner x.2 e.2) ++ e :: acc.filter fun x => !sooner x.2 e.2) []
/-- Launches of which a check record found its bucket full are aborted (R375). -/
def recordsFull (s : State) : State :=
  (byOrder (s.launches.filter fun e => e.2.recFull)).foldl (fun s e =>
    abortLaunch (modLaunch s e.1 fun l => { l with recFull := false }) e.1 cRECORD_FULL noHandle false) s
def saveAbort (s : State) (k : Nat) (e : SaveErr) : State :=
  abortLaunch s k (if e = .full then cSAVE_FULL else cPAGE) noHandle false

/-! Spilling (R53, R343). -/

def spillBytes : Nat := 128 + 4096 * 384
/-- The spill area of a cluster, allocated at its first spill. -/
def spillBase (s : State) (k cid : Nat) : State × Except SaveErr Nat :=
  match (getCl s cid).spillArea with
  | some o => (s, .ok o)
  | none =>
    match allocArea s k spillBytes with
    | (s, .error e) => (s, .error e)
    | (s, .ok o) =>
      let head := bytesOfNat 4 spillBytes ++ bytesOfNat 2 cid ++ List.replicate 122 (0 : Byte)
      match launchAt s k with
      | none => (s, .error .page)
      | some l =>
        match unitStore s l.part (savePtr l + o) head with
        | (s, false) => (s, .error .page)
        | (s, true) => (modCl s cid fun x => { x with spillArea := some o }, .ok o)
/-- One box spilled: its record at the tail of the ring. -/
def spillOne (s : State) (k cid : Nat) (b : BoxRec) : State :=
  match spillBase s k cid with
  | (s, .error e) => saveAbort s k e
  | (s, .ok o) =>
    match launchAt s k with
    | none => s
    | some l =>
      let a := savePtr l + o
      match unitTake s l.part a 16 with
      | (s, none) => saveAbort s k .page
      | (s, some h) =>
        let n := le h 8 4
        let i := (le h 12 4 + n) % 4096
        if 4096 ≤ n then saveAbort s k .full
        else
          match unitStore s l.part (a + 128 + 384 * i) (wordsBytes (boxWords b ((stateCode b.phase).getD 0))) with
          | (s, false) => saveAbort s k .page
          | (s, true) =>
            match unitStore s l.part (a + 8) (bytesOfNat 4 (n + 1)) with
            | (s, false) => saveAbort s k .page
            | (s, true) => setBox s k { b with spilled := true }
/-- A split box keeps its join entry until it retires (R352). -/
def isJoinEntry (b : BoxRec) : Bool :=
  match b.phase with
  | .split _ | .joinPending | .joining => true
  | .ending => b.outcome = 2
  | _ => false
/-- A box among a spur engine's pending boxes; a join task that waits for a full queue waits there too (R70). -/
def isPendingEntry (b : BoxRec) : Bool :=
  b.phase = .pending || b.phase = .heldRight || b.phase = .leafWait || b.phase = .joinPending
/-- The cluster whose spur engine holds a pending box: a held right child is its parent's. -/
def entryHome (l : Launch) (b : BoxRec) : Nat :=
  if b.phase = .heldRight then ((getBox l (parentName b.box.name)).map fun p : BoxRec => p.cid).getD b.cid else b.cid
/-- The pending boxes of a spur engine, spilled ones included, oldest first. -/
def pendingAt (l : Launch) (cid : Nat) : List BoxRec :=
  ((l.boxes.map (·.2)).filter fun b => isPendingEntry b && entryHome l b = cid).mergeSort fun a b => a.waitNo ≤ b.waitNo
/-- How many boxes a spur engine has to have spilled: one for each pending box beyond 512 and for each join entry beyond 256 (R53;
DEDUCED, entry 67). -/
def owed (l : Launch) (cid : Nat) : Nat :=
  ((pendingAt l cid).length - 512) + (((boxesAt l cid).filter isJoinEntry).length - 256)
def spilledAt (l : Launch) (cid : Nat) : Nat := ((pendingAt l cid).filter fun b => b.spilled).length
/-- A spur engine without room spills its oldest pending boxes (R53). What waits for a spilled box's turn waits for its reload, so that
a spill changes no order (R38, R50, R52). -/
def spillCheck (s : State) (k cid : Nat) : State :=
  match launchAt s k with
  | none => s
  | some l =>
    (((pendingAt l cid).filter fun b => !b.spilled).take (owed l cid - spilledAt l cid)).foldl (fun s b => spillOne s k cid b) s

/-! Verdicts as the spur engine carries them out (R33 to R39, R42, R50, R52). -/

/-- A box set on its way to its cluster, or there at once where it stays. -/
def sendBox (s : State) (k : Nat) (b : BoxRec) (src : Nat) : State :=
  if b.cid = src && boxMayArrive s src src then spillCheck (boxArrive (setBox s k b) k b.box.name src) k b.cid
  else setBox s k { b with phase := .travelling src }
def modeOfRole (r : Nat) : Nat := if r = 3 then 2 else r
/-- A child of a box cut along an axis: its extent and origin (R34), its name (R27), its mode bits (R31), its rule and tile. -/
def childBox (l : Launch) (b : Box) (axis mode rule tile : Nat) (right : Bool) : Box :=
  let ax := axisOf b axis
  let g := grainOf l axis
  let e := ax.ext.toNat
  let left := ceilDiv e (2 * g) * g
  let d := depthOf b.name
  let nax : Axis := if right then { org := ax.org + BitVec.ofNat 32 left, ext := BitVec.ofNat 32 (e - left) }
    else { ax with ext := BitVec.ofNat 32 left }
  { axes := setNth b.axes axis nax
    name := childName b.name right
    rule := rule
    level := levelCount l (d + 1)
    sumanc := b.sumanc || mode = 1
    refused := false
    narrowed := false
    lstat := 0
    rstat := 0
    smode := 0
    saxis := 0
    tile := tile
    leaf := 0
    modes := setField b.modes (2 * d) (BitVec.ofNat 2 mode) }
/-- A box cut along an axis (R33, R34): its join entry and its children. `h` and `tbl` are the rule task's handle and table. -/
def cutBox (s : State) (k : Nat) (name : Word) (axis mode lr rr join : Nat) (h : BitVec 32) (tbl : List Acq) : State :=
  match launchAt s k with
  | none => s
  | some l =>
    match getBox l name with
    | none => s
    | some r =>
      let b := r.box
      let (s, w) := drawWait s r.cid
      let child (right : Bool) : BoxRec :=
        let place := placeBox s l r.cid b.tile (childName name right)
        { box := childBox l b axis mode (if right then rr else lr) place.2 right
          phase := if right && mode = 2 then .heldRight else .pending
          cid := place.1
          seqno := 0
          acq := tbl
          parent := h
          waitNo := w }
      let s := setBox s k { r with
        box := { b with smode := mode, saxis := axis, lstat := 0, rstat := 0 }
        phase := .split 2
        join := join
        outcome := 2
        verdictBy := h }
      let s := sendBox s k (child false) r.cid
      let s := if mode = 2 then setBox s k (child true) else sendBox s k (child true) r.cid
      spillCheck s k r.cid
/-- A box becomes a leaf (R38): reserved at once, or at the end of the wait list. -/
def leafBox (s : State) (k : Nat) (name : Word) (j : Nat) (refused fits : Bool) (h : BitVec 32) (tbl : List Acq) : State :=
  match launchAt s k with
  | none => s
  | some l =>
    match getBox l name with
    | none => s
    | some r =>
      let (s, w) := drawWait s r.cid
      let b := { r.box with leaf := j, refused := refused, tile := if l.replay then 0 else r.box.tile }
      let s := setBox s k { r with
        box := b, phase := .leafWait, acq := tbl, verdictBy := h, outcome := if refused then 3 else 0, waitNo := w }
      let fr := freeSets (getCl s r.cid)
      let n := setsNeeded l j b
      if n ≤ fr.length && engineOpen s k r.cid && (fits || (waitList l r.cid).isEmpty) then leafGo s k name (fr.take n)
      else spillCheck s k r.cid
/-- A box pruned (R37): `outcome` 1, or 4 for an empty one (R30). -/
def pruneBox (s : State) (k : Nat) (name : Word) (outcome : Nat) : State :=
  modBox s k name fun r => { r with phase := .ending, outcome := outcome }

/-! Completion and the digest check (R178, R200, R410). -/

/-- What closes a run (R200, R410): parked handlers abandoned and counted, everything that waits discarded, sets released. -/
def closeRun (s : State) (k : Nat) : State :=
  match launchAt s k with
  | none => s
  | some l =>
    let ps := parkedOf s k
    let s := ps.foldl (fun s e => abandonParked s e.1 e.2) s
    let s := modLaunch s k fun l => { l with drops := l.drops + ps.length }
    let s := (heldClusters s k l).foldl (fun s cid => unreserve s k cid) s
    dropRecords (closeRegion s k l) k
/-- A run closed, with its digest as the root's retirement found it (R410). -/
def closedRun (s : State) (k : Nat) : State :=
  match launchAt s k with
  | none => s
  | some l => modLaunch (closeRun s k) k fun x => { x with digest := l.digest }
/-- The record of R178 for a launch that completes; a handler that still runs keeps the slot (R200). -/
def finishRun (s : State) (k stat : Nat) : State :=
  let s := closedRun s k
  match launchAt s k with
  | none => s
  | some l =>
    let (s, done) := putRecord (recComplete s k l stat) (recordOf k l stat true)
    settle (modLaunch s k fun l => { l with state := .closing, recorded := done }) k
/-- The digest record brought up to date (R410). -/
def digestWords (dctl : Word) (ref obase olen last replay runs : Word) : List Byte :=
  wordsBytes [dctl, ref, obase, olen, last, replay, runs, 0]
/-- The root has retired: the digest check, and completion or a replay (R47, R178, R410). -/
def rootRetired (s : State) (k : Nat) : State :=
  match launchAt s k with
  | none => s
  | some l =>
    if !(ldet l) then finishRun s k 0
    else
      match unitTake s l.part (digestPtr l) 64 with
      | (s, none) => abortLaunch s k cPAGE noHandle false
      | (s, some b) =>
        let w (i : Nat) : Word := wordOfBytes ((b.drop (8 * i)).take 8)
        let d := l.digest
        let c := w 0
        let same := d = w 1
        let put1 (s : State) (bs : List Byte) (f : State → State) : State :=
          match unitWrite s l.part (digestPtr l) bs with
          | (s, true) => f s
          | (s, false) => abortLaunch s k cPAGE noHandle false
        if l.replay then
          let c := setField (setField c 61 (b1 true)) 60 (b1 same)
          put1 s (digestWords c (w 1) (w 2) (w 3) (w 4) d (w 6 + 1)) fun s => finishRun s k 4
        else if !(bit c 63) then
          let c := setField (setField c 63 (b1 true)) 62 (b1 false)
          put1 s (digestWords c d (w 2) (w 3) d (w 5) (w 6 + 1)) fun s => finishRun s k 0
        else if same then
          let c := setField c 62 (b1 false)
          put1 s (digestWords c (w 1) (w 2) (w 3) d (w 5) (w 6 + 1)) fun s => finishRun s k 0
        else
          let c := setField c 62 (b1 true)
          put1 s (digestWords c (w 1) (w 2) (w 3) d (w 5) (w 6)) fun s =>
            modLaunch (closedRun s k) k fun l => { l with state := .replaying, last := d }

/-! The presence bitmap (R54, R55). -/

/-- The number of grains of the root along an axis. -/
def grains (l : Launch) (a : Nat) : Nat := ceilDiv (rootAxis l a).ext.toNat (max 1 (grainOf l a))
def sumAxis (l : Launch) : Option Nat := (List.range (naxes l)).find? fun a => roleOf l a = 1
/-- The grain indices of an axis that a box covers. -/
def covered (l : Launch) (b : Box) (a : Nat) : List Nat :=
  let g := max 1 (grainOf l a)
  let o := (axisOf b a).org.toNat - (rootAxis l a).org.toNat
  let e := (axisOf b a).ext.toNat
  if e = 0 then [] else (List.range ((o + e - 1) / g + 1 - o / g)).map fun i => o / g + i
/-- The fold slots a box covers (R54). -/
def foldSlots (l : Launch) (b : Box) : List Nat :=
  match sumAxis l with
  | none => []
  | some q =>
    let cells := (List.range (naxes l)).foldl (fun cs a =>
      if a = q then cs else cs.flatMap fun c => (covered l b a).map fun i => c * grains l a + i) [0]
    cells.flatMap fun c => (covered l b q).map fun i => c * grains l q + i
/-- The presence bits of a retiring leaf's slots set in memory (R55). -/
def setPresence (s : State) (l : Launch) (b : Box) : State :=
  (foldSlots l b).foldl (fun s n =>
    let a := foldws l + 128 + n / 8
    match unitTake s l.part a 1 with
    | (s, some bs) => (unitWrite s l.part a [bs.headD 0 ||| BitVec.ofNat 8 (2 ^ (n % 8))]).1
    | (s, none) => s) s

/-! Retirement (R47 to R51). -/

def joinRuns (r : BoxRec) : Bool := r.join ≠ 31 && !(r.box.smode = 1 && r.box.sumanc)
/-- The right child of a SEQ split whose left sibling has retired goes its way (R50), a spilled one after its reload (R53). -/
def releaseRight (s : State) (k : Nat) (r : BoxRec) (src : Nat) : State :=
  if r.spilled then setBox s k r else sendBox s k { r with phase := .pending } src
/-- A child has retired: its outcome to the join entry, a held right sibling started, the join queued (R49 to R51). -/
def childRetired (s : State) (k : Nat) (name : Word) (outcome : Nat) (fin : List Acq) : State :=
  match (launchAt s k).bind fun l => getBox l (parentName name) with
  | none => s
  | some p =>
    let right := isRight name
    let left := leftOf p.phase - 1
    let p' : BoxRec := { p with
      box := if right then { p.box with rstat := outcome } else { p.box with lstat := outcome }
      phase := .split left
      fin := fin.foldl addAcq p.fin }
    let s := setBox s k p'
    let s :=
      if p.box.smode = 2 && !right then
        match (launchAt s k).bind fun l => getBox l (childName (parentName name) true) with
        | some r => if r.phase = .heldRight then releaseRight s k { r with acq := fin.foldl addAcq r.acq } p.cid else s
        | none => s
      else s
    if left = 0 && joinRuns p' then
      let (s, w) := drawWait s p.cid
      spillCheck (spurPump (setBox s k { p' with phase := .joinPending, acq := p'.fin, waitNo := w }) p.cid) k p.cid
    else s
/-- A box retires (R47). -/
def retireBox (s : State) (k : Nat) (name : Word) : State :=
  match launchAt s k with
  | none => s
  | some l =>
    match getBox l name with
    | none => s
    | some r =>
      if !(canRetire s k l r) then s
      else
        let s := if r.outcome = 0 || r.outcome = 3 then setPresence s l r.box else s
        let s := modLaunch s k fun l => { l with boxes := drop l.boxes name.toNat, retired := put l.retired name.toNat r.box }
        if depthOf name = 0 then
          let s := { s with disp := { s.disp with lastDone := some (s.clk.mesh, l.q, l.order) } }
          rootRetired (modLaunch s k fun l => { l with rootDone := true }) k
        else childRetired s k name r.outcome r.fin

end Sys2Proof.Machine
end

