-- ==== Sys2Proof/Machine/Ops.lean ====
section
/-! DEFINITION. Parking a task (taking a trap or fault), resuming and abandoning it, and what every instruction shares: the
decode checks, interlocks, the stall count, and where control goes next (R71, R77 to R86, R90, R91, R156, R220, R227, R228,
R236, R366, R370 to R372, R377, R416). -/
namespace Sys2Proof.Machine

/-! ## Taking a trap or fault -/

def setRun (s : State) (c : Nat) (t : Option Task) : State := modCore s c fun k => { k with run := t }
/-- The fault task of a record (R90, R366): it stands for the identity it serves and reads its box. R63 gives as TAG the tag of the starting
parcel; the fault task of a parked task has none, and zero stands there (DESIGN CHOICE, entry 65). -/
def faultTask (l : Launch) (slot cls : Nat) (r : FRec) (h : BitVec 32) (parks : Bool) (box : Option Box) (id : Nat) (acq : List Acq) : QTask :=
  let hw : Word := if parks then h.setWidth 64 else 0xFFFFFFFF#64
  { kind := .fault
    slot := some slot
    cls := cls
    parent := h
    pc := codeBase l + (faulth l).setWidth 64
    regs := (2, hw) :: ((recWords r).zipIdx.map fun q => (16 + q.2, q.1))
    acq := acq
    box := box
    flink := if parks then h else noHandle
    serves := some id }
/-- Whether breakpoints of a partition go to its debug ring (R370). -/
def debugOn (s : State) (p : Nat) : Bool := bit (partWord s p 0) 61
/-- PFXSAVE of a parked task (R63, R86). -/
def pfxsave (t : Task) : Word :=
  ((b1 (stPP t.ctx.status)).setWidth 64 <<< 63) ||| ((field t.ctx.pfx 0 24).setWidth 64 <<< 32) ||| noHandle.setWidth 64
/-- A task that may park does so (R71): its dirty bytes written back, its context kept, its record built, its fault task
queued ahead of every other. -/
def parkTask (s : State) (k : Nat) (i : TrapInfo) (pc : Word) : State :=
  let c := s.cur
  let s := wbPark s
  let t := taskOf s
  let r := parkRecord s t pc t.ctx.status i
  let run := match launchAt s k with
    | some l => l.runNs
    | none => 0
  let dbg := i.code = cBREAKPOINT && debugOn s (partOf s (cidOf c))
  let late : Bool := match launchAt s k with
    | some l => decide (l.state ≠ .running)
    | none => false
  let t' := { t with frec := r, parkAt := run, resumed := false, debug := dbg, due := late && !dbg, recheck := i.code = cMMX && !i.late }
  let s := modCore s c fun x => storeSetWord { x with run := none, parked := x.parked ++ [t'], wr := [], wait := none } (t.wp + 376) (pfxsave t)
  let s := recFault (countFault s k i.code t.handle c) (cidOf c) (partOf s (cidOf c)) r
  match launchAt s k with
  | none => s
  | some l =>
    if dbg then toRing s (partOf s (cidOf c)) true r
    else if late then s
    else if faulth l = noHandle then abortLaunch s k i.code t.handle true
    else modCore s c fun x => { x with faultq := x.faultq ++ [faultTask l k t.cls r t.handle true t.box t.det.id t.det.acq] }
/-- A trap or fault of the running task of the core that runs, at the instruction at `pc` (R71, R156, R200, R372, R377). -/
def takeTrap (s : State) (i : TrapInfo) (pc : Word) : State :=
  let c := s.cur
  let t := taskOf s
  let cid := cidOf c
  match t.slot with
  | none =>
    -- a system task: its core halts, and the management partition is told
    let r := { parkRecord s t pc t.ctx.status i with
      fctl := mkFctl i.code i.cause 0 false (stPP t.ctx.status) (stDS t.ctx.status) (BitVec.ofNat 32 (coreIdOf c)) }
    let s := modCore (endOf (wbPark s) c { t with held := [] } false) c fun k => { k with halted := true }
    freezeRings (toFaultRing s (mgmtPart s) cid r) 3
  | some k =>
    let closing : Bool := match launchAt s k with
      | some l => decide (l.state = .closing || l.state = .replaying)
      | none => true
    let h := t.handle
    if t.kind = .carried then
      let r := asyncRecord s t.det.id h 0 i
      let s := wbPark s
      let s := endOf s c { taskOf s with held := [] } false
      if closing then settle (recFault s cid (partOf s cid) r) k
      else if 9 ≤ bitsOf t.parent.toNat 21 18 then toFaultRing (countFault s k i.code h c) (partOf s cid) cid r
      else sendFaultFor s k t.det.id (t.sender.getD t.det.id) (coreOfHandle t.parent) r
    else if closing then
      let r := parkRecord s t pc t.ctx.status i
      settle (recFault (abandonRunning s c) cid (partOf s cid) r) k
    else if t.kind = .fault then
      let r := parkRecord s t pc t.ctx.status i
      abortLaunch (recFault (countFault s k i.code h c) cid (partOf s cid) r) k cNESTED_FAULT h true
    else parkTask s k i pc

/-! ## Returning: resume and abandon (R236, R331) -/

/-- A parked task marked resumed: it starts under R69. Whether a fault task of it that has not started still runs R236 does not say: it
leaves the fault queue (DESIGN CHOICE, entry 94). -/
def resumeParked (s : State) (c : Nat) (h : BitVec 32) : State :=
  modCore s c fun k =>
    { k with
      parked := (k.parked.filter fun t => t.handle ≠ h)
        ++ (k.parked.filter fun t => t.handle = h).map fun t => { t with resumed := true, due := false, debug := false }
      faultq := k.faultq.filter fun q => q.flink ≠ h }
/-- A parked task ended as end ends one; a rule task's box is pruned, with outcome 1 also where boxn had emptied it (DESIGN CHOICE,
entry 109). -/
def abandonTask (s : State) (c : Nat) (t : Task) : State :=
  let s := abandonParked s c t
  match t.kind, t.slot, t.box with
  | .rule, some k, some b => pruneBox s k b.name 1
  | _, _, _ => s
/-- The parked task a handle names on a core, not yet resumed. -/
def parkedNamed (s : State) (c : Nat) (h : BitVec 32) : Option Task :=
  (getCore s c).parked.find? fun t => t.handle = h && !t.resumed

/-! ## Decode checks (R220) -/

def stallOf : Fields → Nat
  | .s f => f.stall.toNat
  | .i f => f.stall.toNat
  | .b f => f.stall.toNat
  | .m f => f.stall.toNat
  | .v f => f.stall.toNat
  | .x f => f.stall.toNat
  | .k f => f.stall.toNat
  | .e f => f.stall.toNat
  | .hint f => f.stall.toNat
  | .raw f => f.stall.toNat
  | .pool _ => 0

def pfxFA (p : BitVec 32) : Nat := (field p 20 4).toNat
def pfxFB (p : BitVec 32) : Nat := (field p 16 4).toNat
def pfxFD (p : BitVec 32) : Nat := (field p 12 4).toNat
def pfxSS (p : BitVec 32) : Nat := (field p 10 2).toNat
def pfxRM (p : BitVec 32) : Nat := (field p 7 3).toNat
def pfxSat (p : BitVec 32) : Bool := bit p 6
/-- A V-format word's fields with a pending prefix laid over them (R288). -/
def effV (c : Ctx) (f : FmtV) : FmtV :=
  if stPP c.status then
    { f with
      fmt := BitVec.ofNat 4 (pfxFA c.pfx)
      fmt2 := BitVec.ofNat 4 (pfxFD c.pfx)
      sat := b1 (pfxSat c.pfx) }
  else f
def effFields (c : Ctx) (f : Fields) : Fields :=
  match f with
  | .v f => .v (effV c f)
  | _ => f
/-- The combinations of formats an mma takes (R144). -/
def mmaCombo (fa fb fd : Nat) : Bool :=
  (fa = 5 && fb = 5 && fd = 10) || ((fa = 6 || fa = 7) && (fb = 6 || fb = 7) && fd = 10) || (fa = 1 && fb = 1 && fd = 3)
  || ((fa = 8 || fa = 9) && (fb = 8 || fb = 9) && fd = 10)
/-- Whether an instruction that takes a format accepts the pending prefix, or none (R144, R288, R306). -/
def okPfx (op : Nat) (pp : Bool) (p : BitVec 32) : Bool :=
  let fa := pfxFA p
  let fb := pfxFB p
  let fd := pfxFD p
  let ss := pfxSS p
  if op = 0x1E2 then
    pp && mmaCombo fa fb fd && (pfxRM p = 0 || pfxRM p = 5) && (ss = 0 || (ss = 1 && (fa = 5 || fa = 6 || fa = 7)))
  else if op = 0x1E6 then
    pp && (fa = 10 || fa = 3) && fb = 10
      && (fd = 10 || fd = 8 || fd = 9 || fd = 7 || fd = 6 || fd = 5 || fd = 1 || fd = 2 || fd = 3) && ss = 0
  else !pp || (ss = 0 && fb = fa && (op = 0x1B7 || fd = fa) && okGroup op fa fd)
/-- The control registers of R66 and R330. -/
def okCsr (op n : Nat) (priv : Bool) : Bool :=
  if op = 0x00C then n ≤ 0x00A || (priv && (n = 0x100 || n = 0x101 || (0x200 ≤ n && n ≤ 0x2FF) || n = 0x102))
  else n = 0x000 || n = 0x009 || (priv && (n = 0x100 || (0x200 ≤ n && n ≤ 0x2FF) || n = 0x102))
/-- Check 5 of R220 with the pending prefix: formats, variants and control-register numbers. -/
def okCoded (c : Ctx) (op : Nat) (f : Fields) : Bool :=
  okFields op f &&
  (match f with
   | .v v =>
     let e := effV c v
     (stPP c.status || okGroup op v.fmt.toNat v.fmt2.toNat)
       && (!(okGroup op e.fmt.toNat e.fmt2.toNat) || okVariant op e.fmt.toNat e.fmt2.toNat e.sub.toNat)
   | .i i =>
     if op = 0x00C || op = 0x00D then
       let n := (field i.imm 0 12).toNat
       okCsr op n (stPriv c.status)
     else true
   | _ => true)
/-- The words that rep reads (R229): whether the instruction at an address is a branch. -/
def branchAt (s : State) (a : Word) : Res (State × Bool) := do
  let (s, w) ← codeWord s a
  let op := (field w 55 9).toNat
  return (s, 2 ≤ op && op ≤ 6)
/-- Check 8: rep, and its body breaks R84. -/
def repCheck (s : State) (f : FmtI) : Res (State × Bool) := do
  let le := (ctxOf s).pc + 8 + BitVec.ofNat 64 (8 * (field f.imm 0 12).toNat)
  let (s, x) ← branchAt s le
  let (s, y) ← if (field f.imm 0 12).toNat = 0 then Except.ok (s, false) else branchAt s (le - 8)
  return (s, x || y)
/-- Check 8 of R220 for an instruction that is rep; the words it reads are read through the fetch path. -/
def loopCheck (s : State) (op : Nat) (f : Fields) : Res State :=
  match f with
  | .i i =>
    if op = 0x007 then
      match repCheck s i with
      | .ok (s, true) => raise s cILLEGAL_LOOP_END
      | .ok (s, false) => .ok s
      | .error e => .error e
    else .ok s
  | _ => .ok s
/-- Checks 1 to 7 of R220: the code of the first that fails. A target's own rejection of the pending prefix (R85, R288), which R288 places
after check 5 and no row names, stands at check 6 (DESIGN CHOICE, entry 92). -/
def decodeCheck (t : Task) (cl : CoreClass) (op : Nat) (f : Fields) : Option Nat :=
  let c := t.ctx
  if op = 0x03F then some cPOOL_ENTRY
  else if !(assigned op) || (privileged op && !(stPriv c.status)) then some cILLEGAL_OP
  else if t.kind = .carried && !(okCarried cl op f) then some cILLEGAL_CARRIED
  else if !(okClass cl op f) then some cILLEGAL_CLASS
  else if !(okCoded c op f) then some cILLEGAL_OP
  else if (stPP c.status && !(takesFormat op)) || (takesFormat op && !(okPfx op (stPP c.status) c.pfx)) then some cPREFIX_MISMATCH
  else if stDS c.status ≠ 0 && noSlot op then some cILLEGAL_SLOT
  else none

/-! ## Interlocks and stall counts (R77 to R79, R234, R290) -/

def sameReg (p : InFlight) (r : Reg) : Bool := p.vec = r.vec && p.n = r.n
/-- The format that decides an instruction's latency. -/
def fmtOf (f : Fields) : Nat :=
  match f with
  | .v v => v.fmt.toNat
  | _ => 0
/-- Whether an instruction must wait for earlier ones. -/
def mustWait (s : State) (op : Nat) (f : Fields) : Bool :=
  let k := getCore s s.cur
  let now := cycOf s s.cur
  let regs := readsOf op f ++ writesOf op f
  let busy (ilkOnly : Bool) : Bool := k.wr.any fun p => now < p.fin && (p.ilk || !ilkOnly) && regs.any (sameReg p)
  let status := (op = 0x00C || op = 0x00D) &&
    match f with
    | .i i => field i.imm 0 12 = 0#12
    | _ => false
  let steer := op = 0x00D &&
    match f with
    | .i i => field i.imm 0 12 = 0x102#12
    | _ => false
  let tile := getTile s (tileOfCore s.cur)
  busy (latencyOf op (fmtOf f)).isSome
  || ((0x1A0 ≤ op && op ≤ 0x1BF) && now < k.vecFree)
  || (status && (now < k.flagFin || (classOf (idxOf s.cur) = .x && (tile.waiting.isSome || !tile.running.isEmpty))))
  || (steer && now < max k.vecFree (max k.vecFin k.flagFin))
/-- Check 9: with CHK one, a source not yet delivered, or a write that would complete no later than an earlier one (R79). -/
def stallShort (s : State) (op : Nat) (f : Fields) : Bool :=
  let k := getCore s s.cur
  let now := cycOf s s.cur
  match latencyOf op (fmtOf f) with
  | none => false
  | some lat =>
    stChk (ctxOf s).status &&
      (k.wr.any fun p => now < p.fin && !p.ilk &&
        ((readsOf op f).any (sameReg p) || ((writesOf op f).any (sameReg p) && now + lat ≤ p.fin)))
/-- The latency an instruction's register write has (R78, R290): a memory or other interlocked instruction completes in its step. -/
def latOf (op : Nat) (f : Fields) : Nat :=
  match latencyOf op (fmtOf f) with
  | some l => l
  | none => if op = 0x1E6 then 3 else if op = 0x1E4 then 2 else vecHold op (fmtOf f)
/-- Whether the write it makes is an interlocked producer's. -/
def ilkOf (op : Nat) (f : Fields) : Bool := (latencyOf op (fmtOf f)).isNone

/-! ## Control flow (R80 to R83, R227, R228) -/

/-- The context after an instruction at `pc` that has completed, with its flow of control. -/
def advance (c : Ctx) (fl : Flow) : Ctx :=
  match fl with
  | .branch taken => { c with pc := c.pc + 8, status := setDS c.status 1 taken }
  | .jump p => { c with pc := p }
  | .over => c
  | _ =>
    let wraps := c.pc = c.le && c.lc ≠ 0#64
    let lc := if wraps then c.lc - 1 else c.lc
    let nxt := if wraps && lc ≠ 0#64 then c.ls else c.pc + 8
    let ds := stDS c.status
    if ds = 1 then { c with lc := lc, pc := c.pc + 8, status := setDS c.status 2 (stTKN c.status) }
    else if ds = 2 then
      { c with lc := lc, pc := if stTKN c.status then c.btgt else if wraps then nxt else c.btgt, status := setDS c.status 0 false }
    else { c with lc := lc, pc := nxt }
/-- An instruction has completed: the prefix it used is cleared, its stall count applies, and control goes on (R77, R85). -/
def finish (s : State) (op stall : Nat) (fl : Flow) : State :=
  let pc := (ctxOf s).pc
  match fl with
  | .over => s
  | _ =>
    let s := modCtx s fun c => advance (if takesFormat op then { c with status := setPP c.status false } else c) fl
    let now := cycOf s s.cur
    let s := modCore s s.cur fun k => { k with ready := now + 1 + stall, wr := k.wr.filter fun p => now < p.fin, wait := none }
    match fl with
    | .park i => takeTrap s i pc
    | _ => s
/-- A trap at the instruction: PREFIX_MISMATCH clears the pending prefix (R85). -/
def trapAt (s : State) (i : TrapInfo) : State :=
  let s := if i.code = cPREFIX_MISMATCH then modCtx s fun c => { c with status := setPP c.status false } else s
  takeTrap s i (ctxOf s).pc

/-! ## Whether a core issues in this cycle (R77, R414) -/

/-- Whether an island's clock runs (R414). -/
def clockRuns (s : State) (i : Nat) : Bool := !(getIsland s (islandNo i)).changing && !(getDie s (i / 4)).tripped
/-- Whether a core's running task may issue an instruction in this cycle. -/
def mayIssue (s : State) (c : Nat) : Bool :=
  let k := getCore s c
  k.run.isSome && !k.halted && clockRuns s (islandOf (cidOf c)) && k.ready ≤ cycOf s c
    && (match k.wait with
        | some (.giving _ _ _ _ _ _) => false
        | _ => true)

/-! ## One instruction -/

/-- What a vector instruction and a flag-setting one hold (R234, R290). -/
def holdUnits (s : State) (op : Nat) (f : Fields) : State :=
  let now := cycOf s s.cur
  modCore s s.cur fun k =>
    { k with
      vecFree := if 0x1A0 ≤ op && op ≤ 0x1BF then now + vecHold op (fmtOf f) else k.vecFree
      vecFin := if 0x1A0 ≤ op && op ≤ 0x1BF then max k.vecFin (now + latOf op f) else k.vecFin
      flagFin := if setsFlags op then max k.flagFin (now + latOf op f) else k.flagFin }
/-- The re-issue of an instruction after a park by its own MMX: held-back bytes are written back and checked again (R416). -/
def recheckHeld (s : State) : Res State :=
  let t := taskOf s
  if t.resumed then do
    let s ← if t.recheck then wbHeld s none else Except.ok s
    return modTask s fun t => { t with resumed := false, recheck := false }
  else .ok s
/-- The effect of an instruction once it has passed checks 1 to 7. STALL_SHORT comes after the wait for interlocked results and the vector
unit, and before one for a queue, a channel or an accumulator, which R286 does not order (DESIGN CHOICE, entry 95); the PAGE of a rep's
body read for check 8 comes before the rep's own STALL_SHORT (DESIGN CHOICE, entry 108). -/
def perform (s : State) (op : Nat) (f : Fields) (body : Body) : Res (State × Flow) := do
  let s ← loopCheck s op f
  if mustWait s op f then .error (.wait s)
  else if stallShort s op f then raise s cSTALL_SHORT
  else
    let s ← recheckHeld s
    let (s, fl) ← body s
    return (match fl with
      | .over => s
      | _ => holdUnits s op f, fl)
/-- An instruction of the running task of the core that runs: the decode checks in their order, its interlocks, its effect,
and where control goes; or the trap it takes, or a wait. -/
def issue (op : Nat) (f : Fields) (body : Body) (s : State) : Host.Outcome State Fault Refusal :=
  match (getCore s s.cur).run with
  | none => .next s
  | some t =>
    match decodeCheck t (classOf (idxOf s.cur)) op f with
    | some code => .next (trapAt s { code := code })
    | none =>
      match perform s op (effFields t.ctx f) body with
      | .ok (s', fl) =>
        let s'' := finish s' op (stallOf f) fl
        .next (match fl, t.slot with
          | .over, some k => settle s'' k
          | _, _ => s'')
      | .error (.trap i s') => .next (trapAt s' i)
      | .error (.wait s') => .next s'
      | .error (.hole pa) => .fault (.physicalHole pa)

end Sys2Proof.Machine
end

