-- ==== Sys2Proof/Machine/Flags.lean ====
section
/-! DEFINITION. Conditions, signed and unsigned readings of a lane, saturation and the flags it raises (R136, R217, R221, R238). -/
namespace Sys2Proof.Machine

/-- An integer taken modulo 2^w. -/
def wrapInt (w : Nat) (x : Int) : Nat := (x % (2 ^ w : Nat)).toNat
/-- Cond(c, a, b) of R217 over lanes of `w` bits. -/
def condHolds (c w a b : Nat) : Bool :=
  if c = 0 then a = b
  else if c = 1 then a ≠ b
  else if c = 2 then sgn w a < sgn w b
  else if c = 3 then sgn w b ≤ sgn w a
  else if c = 4 then a < b
  else if c = 5 then b ≤ a
  else if c = 6 then a = 0
  else a ≠ 0
/-- SatN (R221): the clamped integer and whether it was clamped. -/
def satN (n : Nat) (x : Int) : Int × Bool :=
  let hi : Int := (2 ^ (n - 1) : Nat)
  if x < -hi then (-hi, true) else if hi - 1 < x then (hi - 1, true) else (x, false)
/-- An integer result with or without saturation, and its flag (R289). -/
def satOrWrap (n : Nat) (sat : Bool) (x : Int) : Nat × Flags :=
  if sat then
    let r := satN n x
    (wrapInt n r.1, { sat := r.2 })
  else (wrapInt n x, {})
/-- The flags of several elements together. -/
def allFlags (l : List Flags) : Flags := l.foldl Flags.or {}

end Sys2Proof.Machine
end

