-- ==== Sys2Proof/Machine/Operands.lean ====
section
/-! DEFINITION. Operand forms: packed lanes and the source modifier, effective addresses, vector operands with queue and channel
heads, and third operands that may be immediates (R75, R76, R113, R161, R208, R212, R216, R221, R255, R286). -/
namespace Sys2Proof.Machine

/-! Lanes (R75, R76). -/

/-- The `n` lanes of `w` bits of a value, lane 0 first. -/
def splitLanes (w n x : Nat) : List Nat := (List.range n).map fun i => x / 2 ^ (w * i) % 2 ^ w
/-- Lanes of `w` bits packed, lane 0 in the low bits. -/
def joinLanes (w : Nat) (l : List Nat) : Nat := l.foldr (fun x acc => x % 2 ^ w + 2 ^ w * acc) 0
/-- The lane that lane `i` of a modified source takes (R76). -/
def modLane (amod : BitVec 12) (n i : Nat) : Nat :=
  let cls := (field amod 10 2).toNat
  let m := min (2 ^ (field amod 7 3).toNat) n
  let dist := (field amod 2 5).toNat
  let base := i - i % m
  if cls = 0 then i
  else if cls = 1 then base + (i - base + dist) % m
  else if cls = 2 then base + ((i - base) ^^^ (dist % m))
  else base + dist % m
/-- ModA over a list of lanes or elements (R76). -/
def modLanes (amod : BitVec 12) (l : List Nat) : List Nat := (List.range l.length).map fun i => l.getD (modLane amod l.length i) 0

/-! Scalar and third operands. -/

/-- Operand C of the E format: a register, or an immediate (R216). -/
def readC (s : State) (f : FmtE) : Word := if f.ic = 1#1 then f.c.setWidth 64 else readS s f.c

/-! Addresses (R212, R221). -/

/-- The spaces of R212. -/
inductive Space where
  | dev
  | sp
  | core
deriving DecidableEq, Repr

def spaceOf (x : BitVec 2) : Space := if x = 0#2 then .dev else if x = 1#2 then .sp else .core
/-- EffAddr (R221). -/
def effAddr (s : State) (f : FmtM) : Word × Space :=
  if f.hf = 1#1 then
    (BitVec.ofNat 64 (f.hnd.toNat * 2 ^ 28) + readS s f.a + f.disp.setWidth 64, .sp)
  else (readS s f.a + f.disp.signExtend 64, spaceOf f.sp)
/-- The base operand and displacement with no space (R259, R264). -/
def devAddr (s : State) (f : FmtM) : Word := readS s f.a + f.disp.signExtend 64

/-! Vector operands (R208, R285, R286). -/

/-- How many of the vector sources name a queue or channel head. -/
def headsIn (fs : List (BitVec 6)) (n : Nat) : Nat := (fs.filter fun x => x.toNat = n).length
def qPut {α : Type} (m : NMap (List α)) (k : Nat) (v : List α) : NMap (List α) := if v.isEmpty then drop m k else put m k v
/-- Entries of a load queue filled or reserved (R261, R271). -/
def lqHeld (x : Tile) (q : Nat) : Nat := (look [] x.lq q).length + (x.fills.filter fun p => p.q = q).length
/-- The line of a reserved entry of a load queue, once all its parts are there. -/
def fillLine (f : Fill) : Option Line :=
  if f.parts.any fun p => p.got.isNone then none
  else some (ofBytes 1024 (f.parts.flatMap fun p => lineBytes (overlay (p.got.getD 0) p.mine p.mask) p.off p.n))
/-- Reserved entries whose parts are there are filled, those of one queue in order of issue (R113, R261). -/
def drainFills (x : Tile) : Tile :=
  x.fills.foldl (fun (y : Tile) f =>
    match fillLine f with
    | some d =>
      if y.fills.any fun e => e.q = f.q then { y with fills := y.fills ++ [f] }
      else { y with lq := qPut y.lq f.q (look [] y.lq f.q ++ [d]) }
    | none => { y with fills := y.fills ++ [f] }) { x with fills := [] }
/-- A line that a window delivers to the entries of a tile's load queues that wait for it. -/
def fillsGet (x : Tile) (ln w : Nat) (d : Line) : Tile :=
  if x.fills.isEmpty then x
  else
    let put1 (p : Part1) : Part1 := if p.got.isNone && p.line = ln && p.win = w then { p with got := some d } else p
    drainFills { x with fills := x.fills.map fun f => { f with parts := f.parts.map put1 } }
/-- Entries of a store queue filled or reserved (R286). -/
def sqHeld (x : Tile) (q : Nat) : Nat := (look [] x.sq q).length + (x.pushes.filter fun p => p.q = q).length
/-- Whether the heads that vector sources name hold enough, and the store queue a destination names has a free entry (R286). -/
def vecReady (s : State) (srcs : List (BitVec 6)) (dst : Option (BitVec 6)) : Bool :=
  let x := getTile s (tileOfCore s.cur)
  ((List.range 4).all fun q => headsIn srcs (16 + q) ≤ (look [] x.lq q).length)
  && ((List.range 8).all fun c => 16 * headsIn srcs (24 + c) ≤ (look [] x.chans c).length)
  && (match dst with
      | some d => if 20 ≤ d.toNat && d.toNat < 24 then sqHeld x (d.toNat - 20) < 8 else true
      | none => true)
/-- ReadOp(vector, f): a register, a popped load-queue head, sixteen popped channel words, or zero. -/
def readV (s : State) (f : BitVec 6) : State × Line :=
  let n := f.toNat
  let t := tileOfCore s.cur
  let x := getTile s t
  if n < 16 then (s, regNow (getCore s s.cur) (taskOf s).wp (cycOf s s.cur) ⟨true, n⟩)
  else if n < 20 then
    let q := look [] x.lq (n - 16)
    (setTile s t { x with lq := qPut x.lq (n - 16) (q.drop 1) }, q.headD 0)
  else if 24 ≤ n && n < 32 then
    let q := look [] x.chans (n - 24)
    (fillChannels (setTile s t { x with chans := qPut x.chans (n - 24) (q.drop 16) }) s.cur,
      BitVec.ofNat 1024 ((q.take 16).foldr (fun w acc => w.toNat + 2 ^ 64 * acc) 0))
  else (s, 0)
/-- WriteOp(vector, f, v): a register, a store-queue tail that is filled when the instruction completes, or nothing. -/
def writeV (s : State) (f : BitVec 6) (v : Line) (lat : Nat) (ilk : Bool) : State :=
  let n := f.toNat
  if n < 16 then writeReg s ⟨true, n⟩ v lat ilk
  else if 20 ≤ n && n < 24 then
    modTile s (tileOfCore s.cur) fun x => { x with pushes := x.pushes ++ [{ q := n - 20, fin := cycOf s s.cur + lat, data := v }] }
  else s
/-! Shapes and scale readiness (R115, R140, R142). -/

def shapeOf (x : Tile) (k : Nat) : BitVec 32 := look 0x00406001#32 x.shapes k
def shRows (v : BitVec 32) : Nat := (field v 16 8).toNat
def shCols (v : BitVec 32) : Nat := (field v 8 8).toNat
def shFmt (v : BitVec 32) : Nat := (field v 0 4).toNat
def sideOf (x : Tile) (k : Nat) : Side := look {} x.sides k
/-- Whether a register is ready under its current shape (R140). -/
def sideReady (x : Tile) (k : Nat) : Bool :=
  let v := shapeOf x k
  (List.range (shRows v)).all fun r => (List.range (ceilDiv (shCols v) 48)).all fun b => (sideOf x k).fill.getLsbD (4 * r + b)
/-- A pass that uses scales, whose registers are not both ready (R142). -/
def scalesMissing (x : Tile) (p : Pass) : Bool := pfxSS p.pfx = 1 && !(sideReady x p.ta && sideReady x p.tb)
/-- Whether the task that runs on core `c` has a pass whose scales are missing. -/
def awaitsScales (s : State) (c : Nat) : Bool :=
  classOf (idxOf c) = .x && (match (getTile s (tileOfCore c)).waiting with
   | some p => p.owner = ((getCore s c).run.map (·.handle)).getD 0 && scalesMissing (getTile s (tileOfCore c)) p
   | none => false)

/-! Lanes (R406). -/

/-- LSTEER. -/
def steerOf (s : State) (c : Nat) : Word :=
  if classOf (idxOf c) = .x then ((getCore s c).steer.getD (Config.fuseLsteer c)) &&& 0x3F#64 else 0
/-- The physical lane, of 33, that carries a logical lane. -/
def physLane (s : State) (c i : Nat) : Nat :=
  if bit (steerOf s c) 5 && (field (steerOf s c) 0 5).toNat ≤ i then i + 1 else i

/-! Elements. -/

/-- Elements of `w` bits of a line. -/
def elems (w : Nat) (v : Line) : List Nat := splitLanes w (1024 / w) v.toNat
def ofElems (w : Nat) (l : List Nat) : Line := BitVec.ofNat 1024 (joinLanes w l)

end Sys2Proof.Machine
end

