-- ==== Sys2Proof/Machine/Atomic.lean ====
section
/-! DEFINITION. Strong accesses, fences and atomics, posted ones included (R187 to R195, R259, R263 to R266, R335, R360). -/
namespace Sys2Proof.Machine

/-! ## Releases and acquires of strong accesses (R188, R189, R194) -/

def scopeOf (x : BitVec 2) : Scope := if x = 0#2 then .core else if x = 1#2 then .dev else .sys
def wider (a b : Scope) : Scope := if a = .sys || b = .sys then .sys else if a = .dev || b = .dev then .dev else .core
/-- The scope a release of an instruction's own is performed at: the wider of its own and of one a fence armed (R189). -/
def relScope (d : Det) (own : Option Scope) : Option Scope :=
  own.map fun sc => match d.arm with
    | some (a, _) => wider sc a
    | none => sc
/-- The release of an instruction, if it has one, once what the task has posted is performed. -/
def ownRelease (s : State) (own : Option Scope) : Res State :=
  match relScope (taskOf s).det own with
  | some sc => release (ownAll s) sc
  | none => .ok s
/-- The release an access carries: its own, one armed by a fence, or both as one, with the epoch its entry names. -/
def carried (d : Det) (own : Option Scope) : Option (Scope × Nat) :=
  match own, d.arm with
  | some sc, some (a, _) => some (wider sc a, d.epoch + 1)
  | some sc, none => some (sc, d.epoch + 1)
  | none, some x => some x
  | none, none => none
/-- A strong access or atomic has issued: the armed release is used up, and its own release raises the epoch. -/
def usedArm (s : State) (own : Bool) : State :=
  modTask s fun t => { t with det := { t.det with arm := none, epoch := if own then t.det.epoch + 1 else t.det.epoch } }
/-- The record a strong read observed, kept for a later acquiring fence, and what its own acquire takes. -/
def observe (s : State) (r : List Rel) (acq : Option Scope) : Res State := do
  let s := modTask s fun t => { t with det := { t.det with seen := r.foldl addRel t.det.seen } }
  match acq with
  | none => return s
  | some sc =>
    let s ← acquire s sc
    acquireFrom s (takeRel r (slotOr s) s.cur sc)
/-- The write-backs of an acquire, made before the access that carries it, so that a race they find leaves it undone (R188, R221). -/
def acqReady (s : State) (acq : Option Scope) : Res State :=
  match acq with
  | some .dev => wbAll s
  | some .sys => wbAll s
  | _ => .ok s
/-- Whether what an acquire takes from a record fits the task's table: ACQ_OVERFLOW comes before any effect (R194, R195, R221). -/
def acqFits (s : State) (r : List Rel) (acq : Option Scope) : Res Unit :=
  match acq with
  | some sc => (acquireFrom s (takeRel r (slotOr s) s.cur sc)).map fun _ => ()
  | none => .ok ()
def ordAcq (f : FmtM) : Option Scope := if bit f.ord 0 then some (scopeOf f.sco) else none
def ordRel (f : FmtM) : Option Scope := if bit f.ord 1 then some (scopeOf f.sco) else none
/-- A value as ld, lds and atomics write it (R258, R264). -/
def loaded (f : FmtM) (n : Nat) (b : List Byte) : Word :=
  if f.sx = 1#1 then sext64 (wordOfBytes b) (8 * n) else wordOfBytes b

/-- lds: strong accesses of one task take effect in its program order, one of those that R186 and R189 allow (DESIGN CHOICE, entry 105). -/
def execLds (f : FmtM) (s : State) : Host.Outcome State Fault Refusal :=
  issue 0x102 (.m f) (seqBody fun s => do
    let a := devAddr s f
    let n := 2 ^ f.sz.toNat
    devChecks s a n .read
    let s := ownPosted s (a.toNat / 128)
    let s ← ownLine s (a.toNat / 128)
    let s ← acqReady s (ordAcq f)
    let before := s
    let (s, _, b) ← strongAt s a.toNat n .read (taskOf s).det.epoch
    acqFits before (relOf s (myPart s) (a.toNat / 128)) (ordAcq f)
    let s ← observe s (relOf s (myPart s) (a.toNat / 128)) (ordAcq f)
    return writeS s f.d (loaded f n b)) s
/-- sts, in program order as lds is (DESIGN CHOICE, entry 105). -/
def execSts (f : FmtM) (s : State) : Host.Outcome State Fault Refusal :=
  issue 0x103 (.m f) (seqBody fun s => do
    let a := devAddr s f
    let n := 2 ^ f.sz.toNat
    let ln := a.toNat / 128
    devChecks s a n .write
    let s := ownPosted s ln
    let s ← ownLine s ln
    let s ← ownRelease s (ordRel f)
    let d := (taskOf s).det
    let before := s
    let (s, x, _) ← strongAt s a.toNat n .write d.epoch
    let p := myPart s
    let es := (carried d (ordRel f)).map fun c => relEntries (slotOr s) { id := d.id, op := 0 } c.2 d.acq c.1 s.cur
    if (es.getD []).length > 32 then raise before cACQ_OVERFLOW
    else
      let v := lineAt (a.toNat % 128) (bytesOf n (readS s f.d))
      let m := maskRange (a.toNat % 128) n
      let s := sliceMerge s p (homeOf s p ln) ln x v m
      let s := match es with
        | some r => setRel s p ln r
        | none => s
      return usedArm (digestMine s ln v m) (ordRel f).isSome) s

/-! ## Fences (R189, R263) -/

/-- The scope at which a fence's release is performed and armed: the wider of its own and of one still armed, as R189 joins a fence
and an instruction; of two fences it does not speak (DESIGN CHOICE, entry 76). -/
def fenceScope (s : State) (sc : Scope) : Scope :=
  match (taskOf s).det.arm with
  | some (a, _) => wider a sc
  | none => sc
def armFence (s : State) (sc : Scope) : State :=
  modTask s fun t => { t with det := { t.det with arm := some (sc, t.det.epoch) } }
def execFence (f : FmtM) (s : State) : Host.Outcome State Fault Refusal :=
  issue 0x10B (.m f) (seqBody fun s => do
    let sc := scopeOf f.sco
    let kind := f.sz.toNat
    if kind = 3 && s.posted.any (isOwn s) then .error (.wait s)
    else
      -- a release orders what the task has posted, and an acquire takes the records it observes (R186, R189)
      let s := ownAll s
      let _ ← if kind = 1 then Except.ok () else acqFits s (taskOf s).det.seen (some sc)
      let s ← if kind = 3 then wbAll s else Except.ok s
      let s ← if kind = 0 then Except.ok s
        else do
          let w := fenceScope s sc
          let s ← release s w
          return armFence (bumpEpoch s) w
      if kind = 1 then return s
      else do
        let s ← acquire s sc
        let s ← acquireFrom s (takeRel (taskOf s).det.seen (slotOr s) s.cur sc)
        return modTask s fun t => { t with det := { t.det with seen := [] } }) s

/-! ## Atomics (R264, R265, R360) -/

/-- Whether an axchg is an invalidation command: 64 bits, .ar, sys scope, on the partition's XINV word (R360). -/
def isInval (s : State) (op : Nat) (f : FmtM) (x : Xl) : Bool :=
  op = 6 && f.sz = 3#3 && f.ord = 3#2 && f.sco = 2#2 && x.pa = (partWord s (myPart s) 6).toNat
/-- A posted atomic leaves the core. -/
def post (s : State) (op sz addr : Nat) (b cmp : Word) (rel : Option (Scope × Nat)) (stamp : Nat)
    (note : Option (BitVec 15 × BitVec 12 × Nat)) : State :=
  let t := taskOf s
  let q : Posted :=
    { core := s.cur, slot := slotOr s, id := t.det.id, handle := t.handle, op := op, sz := sz, addr := addr, b := b, cmp := cmp,
      rel := rel.map (·.1), stamp := stamp, epoch := (rel.map (·.2)).getD 0, acq := t.det.acq, notify := note }
  { s with posted := s.posted ++ [q] }
/-- A line's release record with the release an atomic of the running task carries; none above 32 entries (R194). -/
def relMerged (s : State) (r0 : List Rel) (d : Det) (rel : Option (Scope × Nat)) : Option (List Rel) :=
  match rel with
  | some c => mergeRel r0 (relEntries (slotOr s) { id := d.id, op := 0 } c.2 d.acq c.1 s.cur)
  | none => some r0
/-- An atomic of the running task that is not posted, at the home slice: in one step, or with no effect but its trap (R221, R265). -/
def atomicNow (s : State) (op : Nat) (f : FmtM) (a n : Nat) (d : Det) (rel : Option (Scope × Nat)) : Res State := do
  let ln := a / 128
  let b := readS s f.b
  let cmp := readS s f.d
  let before := s
  let (s, x, bs) ← strongAt s a n .atomic d.epoch
  let p := myPart s
  let r0 := relOf s p ln
  acqFits before r0 (ordAcq f)
  match relMerged s r0 d rel with
  | none => raise before cACQ_OVERFLOW
  | some r =>
    let new := atomicNew op (8 * n) (natOfBytes bs) (b.toNat % 2 ^ (8 * n)) (cmp.toNat % 2 ^ (8 * n))
    let s := sliceMerge s p (homeOf s p ln) ln x (lineAt (a % 128) (bytesOfNat n new)) (maskRange (a % 128) n)
    let low (v : Word) : Word := zext64 v (8 * n)
    let s := digestAtomic (setRel s p ln r) (slotOr s) d.id op f.sz.toNat a (low b) (if op = 7 then low cmp else 0)
    let s := usedArm (reportTail s p (homeOf s p ln) ln x.pa n) (ordRel f).isSome
    let s ← observe s r0 (ordAcq f)
    return writeS s f.d (loaded f n bs)
def atomicBody (op : Nat) (f : FmtM) : Body := seqBody fun s => do
  let av := devAddr s f
  let n := 2 ^ f.sz.toNat
  let a := av.toNat
  let ln := a / 128
  match (getCore s s.cur).wait with
  | some (.inval (some (some (old, r0)))) =>
    -- the invalidation command has been served: its reply, and the release record that the exchange observed
    let s := modCore s s.cur fun k => { k with wait := none }
    let s := usedArm s true
    let s ← observe s r0 (ordAcq f)
    return writeS s f.d old
  | some (.inval (some none)) => raise s cACQ_OVERFLOW
  | some (.inval none) => .error (.wait s)
  | _ =>
    devChecks s av n .atomic
    if f.d = 63#6 && (ordAcq f).isNone then
      -- posted: the slice translates and checks it (R265, R371)
      let s ← ownLine (ownPosted s ln) ln
      let s ← ownRelease s (ordRel f)
      let d := (taskOf s).det
      let low (v : Word) : Word := zext64 v (8 * n)
      return usedArm (post s op f.sz.toNat a (low (readS s f.b)) 0 (carried d (ordRel f)) d.epoch none) (ordRel f).isSome
    else do
      let p := myPart s
      let (s, x) ← xlate s p (homeOf s p ln) a .atomic f.sz.toNat
      let s ← ownLine (ownPosted s ln) ln
      let s ← ownRelease s (ordRel f)
      let s ← acqReady s (ordAcq f)
      let d := (taskOf s).det
      let rel := carried d (ordRel f)
      if isInval s op f x then
        match detectMine s d.epoch ln (maskRange (a % 128) 8) true true with
        | .error i => .error (.trap i s)
        | .ok s' =>
          acqFits s (relOf s p ln) (ordAcq f)
          if (relMerged s (relOf s p ln) d rel).isNone then raise s cACQ_OVERFLOW
          else
            let s' := modPart s' p fun q => { q with xinv := q.xinv ++ [{ core := s.cur, slot := slotOr s, id := d.id, va := a, operand := readS s f.b }] }
            .error (.wait (modCore s' s.cur fun k => { k with wait := some (.inval none) }))
      else atomicNow s op f a n d rel
def execAadd (f : FmtM) (s : State) : Host.Outcome State Fault Refusal := issue 0x110 (.m f) (atomicBody 0 f) s
def execAmin (f : FmtM) (s : State) : Host.Outcome State Fault Refusal := issue 0x111 (.m f) (atomicBody 1 f) s
def execAmax (f : FmtM) (s : State) : Host.Outcome State Fault Refusal := issue 0x112 (.m f) (atomicBody 2 f) s
def execAand (f : FmtM) (s : State) : Host.Outcome State Fault Refusal := issue 0x113 (.m f) (atomicBody 3 f) s
def execAor (f : FmtM) (s : State) : Host.Outcome State Fault Refusal := issue 0x114 (.m f) (atomicBody 4 f) s
def execAxor (f : FmtM) (s : State) : Host.Outcome State Fault Refusal := issue 0x115 (.m f) (atomicBody 5 f) s
def execAxchg (f : FmtM) (s : State) : Host.Outcome State Fault Refusal := issue 0x116 (.m f) (atomicBody 6 f) s
def execAcas (f : FmtM) (s : State) : Host.Outcome State Fault Refusal := issue 0x117 (.m f) (atomicBody 7 f) s
/-- aaddn (R266): always posted, with a release at dev scope, or the wider one that a fence armed (R189), and a notification; the slice
translates and checks it (R371). -/
def execAaddn (f : FmtE) (s : State) : Host.Outcome State Fault Refusal :=
  issue 0x118 (.e f) (seqBody fun s => do
    let av := readS s f.a
    let a := av.toNat
    devChecks s av 8 .atomic
    let s ← ownLine s (a / 128)
    let s ← release s ((relScope (taskOf s).det (some .dev)).getD .dev)
    let d := (taskOf s).det
    let dest := readS s f.d
    let s := post s 8 3 a (readS s f.b) (readC s f) (carried d (some .dev)) d.epoch
      (some (field dest 0 15, f.tag, (taskOf s).cls))
    return usedArm s true) s
/-- A posted atomic reaches its home slice, after those of its task that come before it (R187, R265), and after the reply of a window
open on its line (R122). -/
def execPostedAtomic (n : Nat) (s : State) : Host.Outcome State Fault Refusal :=
  match s.posted[n]? with
  | none => .next s
  | some q =>
    if (s.posted.take n).any (fun e => postedBefore s e q) || windowOpen s (partOf s (cidOf q.core)) (q.addr / 128) then .next s
    else .next (settle (performPosted { s with posted := dropNth s.posted n } q) q.slot)

end Sys2Proof.Machine
end

