-- ==== Sys2Proof/Machine/LoadStore.lean ====
section
/-! DEFINITION. Weak loads and stores, queue fills, gather and scatter, and cache control (R64, R100, R113, R255 to R262). -/
namespace Sys2Proof.Machine

/-- Bytes written by the running task to a store or a set; a register whose bytes are stored takes the store at once, and no
earlier write of it is still to come (R64). -/
def taskWrite (s : State) (l : Loc) (bs : List Byte) : State :=
  let wp := (taskOf s).wp
  let s := locWrite s (some wp) l bs
  match l with
  | .set _ _ _ => s
  | .store c o =>
    let hit (p : InFlight) : Bool :=
      let lo := 8 * regWord wp ⟨p.vec, p.n⟩
      o < lo + (if p.vec then 128 else 8) && lo < o + bs.length
    modCore s c fun k => { k with wr := k.wr.filter fun p => !(hit p) }
/-- Bytes of device memory read weakly, line by line. -/
def devRead (s : State) (a n : Nat) : Res (State × List Byte) :=
  (pieces 3 a n).foldl (fun r q => do
    let (s, acc) ← r
    let (s, b) ← weakRead (ownPosted s (q.1 / 128)) a q.1 q.2 (Nat.log2 n)
    return (s, acc ++ b)) (.ok (s, []))
/-- Room in the L1 for the lines of an access (R119). -/
def roomFor (s : State) (ps : List (Nat × Nat)) : Res State :=
  ps.foldl (fun r q => do
    let s ← r
    l1Room s (q.1 / 128)) (.ok s)
/-- Bytes of device memory written weakly; every line's permission, and its room in the L1, come before the first byte (R221). -/
def devWrite (s : State) (a : Nat) (bs : List Byte) : Res State := do
  let ps := pieces 3 a bs.length
  let s ← if ps.length ≤ 1 then Except.ok s
    else do
      let s ← ps.foldl (fun r q => do
        let s ← r
        let p := myPart s
        let (s, _) ← xlate s p (homeOf s p (q.1 / 128)) q.1 .write (Nat.log2 bs.length)
        return s) (Except.ok s)
      roomFor s ps
  ps.foldl (fun r q => do
    let s ← r
    weakWrite (ownPosted s (q.1 / 128)) q.1 ((bs.drop (q.1 - a)).take q.2) (Nat.log2 bs.length)) (.ok s)
/-- A weak read of `n` bytes of a space, with the checks of R256. -/
def spaceRead (s : State) (a : Word) (spc : Space) (n : Nat) : Res (State × List Byte) := do
  let al := if n = 128 then 16 else n
  match spc with
  | .dev =>
    devChecks s a n .read
    devRead s a.toNat n
  | .sp => do
    let l ← spCheck s a n al false
    return (s, locRead s l n)
  | .core => do
    let o ← coreCheck s a n al
    return (s, locRead s (.store s.cur o) n)
/-- A weak write of bytes to a space, with the checks of R256. -/
def spaceWrite (s : State) (a : Word) (spc : Space) (bs : List Byte) : Res State := do
  let n := bs.length
  let al := if n = 128 then 16 else n
  match spc with
  | .dev =>
    devChecks s a n .write
    devWrite s a.toNat bs
  | .sp => do
    let l ← spCheck s a n al true
    return taskWrite s l bs
  | .core => do
    let o ← coreCheck s a n al
    return taskWrite s (.store s.cur o) bs

def execLd (f : FmtM) (s : State) : Host.Outcome State Fault Refusal :=
  issue 0x100 (.m f) (seqBody fun s => do
    let e := effAddr s f
    let n := 2 ^ f.sz.toNat
    let (s, b) ← spaceRead s e.1 e.2 n
    return writeS s f.d (loaded f n b)) s
def execSt (f : FmtM) (s : State) : Host.Outcome State Fault Refusal :=
  issue 0x101 (.m f) (seqBody fun s =>
    let e := effAddr s f
    spaceWrite s e.1 e.2 (bytesOf (2 ^ f.sz.toNat) (readS s f.d))) s

/-! Queues (R113, R261). -/

/-- The bytes of a queue fill that lie in one line of device memory, once their checks have passed (R256, R257): they are there at once, or a
window will deliver the line to the entry, and to the L1, under what the A-core's own earlier stores put over it. -/
def fillPart (s : State) (base va n : Nat) : Res (State × Part1) := do
  let ln := va / 128
  let s := ownPosted s ln
  match (l1Find s ln).filter (·.rd) with
  | some l => return (l1Touch s l, { off := va % 128, n := n, got := some (heldOver s l) })
  | none => do
    let (s, x, d) ← sliceRead s base va n 7 0
    match d with
    | .line d =>
      let s := l1Fill s ln x d
      return (s, { off := va % 128, n := n, got := some (((l1Find s ln).map (heldOver s)).getD d) })
    | .window w =>
      let own := (l1Find s ln).getD { (default : L1Line) with line := ln }
      let m := ((taskOf s).held.filter fun h => h.line = ln).foldl (fun m h => m ||| h.mask) own.dirty
      return (modCore s s.cur fun k => { k with prefs := k.prefs ++ [(ln, w)] },
        { line := ln, win := w, off := va % 128, n := n, mine := heldOver s own, mask := m, got := none })
/-- The parts of a queue fill from a space, with the checks of R256. -/
def ldqParts (s : State) (a : Word) (spc : Space) : Res (State × List Part1) := do
  match spc with
  | .dev => do
    devChecks s a 128 .read
    let ps := pieces 3 a.toNat 128
    let s ← roomFor s ps
    ps.foldl (fun r q => do
      let (s, acc) ← r
      let (s, x) ← fillPart s a.toNat q.1 q.2
      return (s, acc ++ [x])) (Except.ok (s, []))
  | _ => do
    let (s, b) ← spaceRead s a spc 128
    return (s, [{ n := 128, got := some (ofBytes 1024 b) }])
def execLdq (f : FmtM) (s : State) : Host.Outcome State Fault Refusal :=
  issue 0x104 (.m f) (seqBody fun s => do
    let e := effAddr s f
    let t := tileOfCore s.cur
    let q := f.d.toNat - 16
    let (s', ps) ← ldqParts s e.1 e.2
    if 8 ≤ lqHeld (getTile s t) q then .error (.wait s)
    else return modTile s' t fun x => drainFills { x with fills := x.fills ++ [{ q := q, parts := ps }] }) s
/-- The checks of a store of a queue entry, before it is popped. -/
def stqCheck (s : State) (a : Word) (spc : Space) : Res State :=
  match spc with
  | .dev => do
    devChecks s a 128 .write
    (pieces 3 a.toNat 128).foldl (fun r q => do
      let s ← r
      let p := myPart s
      let (s, _) ← xlate s p (homeOf s p (q.1 / 128)) q.1 .write 7
      return s) (.ok s)
  | .sp => (spCheck s a 128 16 true).map fun _ => s
  | .core => (coreCheck s a 128 16).map fun _ => s
def execStq (f : FmtM) (s : State) : Host.Outcome State Fault Refusal :=
  issue 0x105 (.m f) (seqBody fun s => do
    let e := effAddr s f
    let t := tileOfCore s.cur
    let q := f.d.toNat - 20
    let s ← stqCheck s e.1 e.2
    match look [] (getTile s t).sq q with
    | [] => .error (.wait s)
    | d :: rest =>
      let s ← spaceWrite s e.1 e.2 (bytesOf 128 d)
      return modTile s t fun x => { x with sq := qPut x.sq q rest }) s

/-! Gather and scatter (R260). -/

/-- The record of a fault of element `i` holds `i` (R93, R260), but for MMX, whose AUX1 is half of the byte mask (DEDUCED, entry 77). -/
def atElem {α : Type} (i : Nat) (r : Res α) : Res α :=
  match r with
  | .error (.trap t s) => .error (.trap (if t.code = cMMX then t else { t with aux1 := BitVec.ofNat 64 i }) s)
  | r => r
/-- The block and the index list, checked: their offsets and the indices. -/
def gatherList (s : State) (f : FmtM) (m : Nat) : Res (Nat × List Nat) := do
  let l ← coreCheck s (readS s f.b) (4 * m) 4
  let b ← coreCheck s (readS s f.d) 128 16
  return (b, (List.range m).map fun i => natOfBytes (storeBytes (getCore s s.cur) (l + 4 * i) 4))
def execGather (f : FmtM) (s : State) : Host.Outcome State Fault Refusal :=
  issue 0x106 (.m f) (seqBody fun s => do
    let e := effAddr s f
    let n := 2 ^ f.sz.toNat
    let (blk, idx) ← gatherList s f (128 / n)
    let (s, bs) ← idx.zipIdx.foldl (fun r q => do
      let (s, acc) ← r
      let (s, b) ← atElem q.2 (spaceRead s (e.1 + BitVec.ofNat 64 (q.1 * n)) e.2 n)
      return (s, acc ++ b)) (Except.ok (s, []))
    return taskWrite s (.store s.cur blk) bs) s
def execScatter (f : FmtM) (s : State) : Host.Outcome State Fault Refusal :=
  issue 0x107 (.m f) (seqBody fun s => do
    let e := effAddr s f
    let n := 2 ^ f.sz.toNat
    let (blk, idx) ← gatherList s f (128 / n)
    idx.zipIdx.foldl (fun r q => do
      let s ← r
      atElem q.2 (spaceWrite s (e.1 + BitVec.ofNat 64 (q.1 * n)) e.2 (storeBytes (getCore s s.cur) (blk + q.2 * n) n))) (Except.ok s)) s

/-! Cache control (R262). -/

/-- A line requested into the L1 (R262): filled at once, or when a window delivers it; a check that fails, or an eviction that would have
to wait, drops the request. -/
def prefLine (s : State) (ln : Nat) : State :=
  match (l1Find s ln).filter (·.rd), l1Room s ln with
  | some l, _ => l1Touch s l
  | none, .error _ => s
  | none, .ok s' =>
    match sliceRead s' (128 * ln) (128 * ln) 128 7 0 with
    | .ok (s', x, .line d) => l1Fill s' ln x d
    | .ok (s', _, .window w) => modCore s' s.cur fun k => { k with prefs := k.prefs ++ [(ln, w)] }
    | .error _ => s
def execPref (f : FmtM) (s : State) : Host.Outcome State Fault Refusal :=
  issue 0x108 (.m f) (seqBody fun s =>
    let a := (devAddr s f).toNat
    .ok (if 2 ^ 49 ≤ a then s else prefLine (ownPosted s (a / 128)) (a / 128))) s
/-- The dirty bytes of an address's line to its home slice, held-back ones included. -/
def flushOne (s : State) (a : Word) : Res State :=
  if 2 ^ 49 ≤ a.toNat then
    .error (.trap { code := cPAGE, cause := 0, addr := a, aux0 := BitVec.ofNat 64 (accCode .write + 256 * 7) } s)
  else do
    let s ← wbHeld s (some (a.toNat / 128))
    wbPoint s (a.toNat / 128)
def execFlush (f : FmtM) (s : State) : Host.Outcome State Fault Refusal :=
  issue 0x109 (.m f) (seqBody fun s => flushOne s (devAddr s f)) s
def execInval (f : FmtM) (s : State) : Host.Outcome State Fault Refusal :=
  issue 0x10A (.m f) (seqBody fun s => do
    let a := devAddr s f
    let s ← flushOne s a
    return l1Drop s (a.toNat / 128)) s

end Sys2Proof.Machine
end

