-- ==== Sys2Proof/Machine/Give.lean ====
section
/-! DEFINITION. Passing bank sets between the cores of a cluster, and reading the bank map (R101 to R112, R267, R268). -/
namespace Sys2Proof.Machine

/-- The handle of a give: attached, and held by the issuing task or resident for its launch; else DETACHED (R267). A set that another
core attaches or takes away in this cycle is not there (R110; DEDUCED, entry 72). -/
def giveHandle (s : State) (f : FmtE) : Res (Nat × BitVec 32) :=
  let h := f.hnd.toNat
  let (e, who) := entrySeen s s.cur h
  let mine : Bool := match who with
    | some (.task t) => decide (t = (taskOf s).handle)
    | some (.resident n) => decide (n = slotOr s)
    | _ => false
  if bmV e && mine && bmapOf (getCore s s.cur) h = e then .ok (h, e) else raise s cDETACHED
/-- Whether an engine operation that a core has issued and that names a set has not joined (R108 step 1): the giver is the core, so those
of its earlier tasks count. -/
def drainBusy (s : State) (c n : Nat) : Bool := engNames s (cidOf c) n (some c)
/-- `give` (R108): the release, and the drain begins; the detach event completes it. -/
def execGive (f : FmtE) (s : State) : Host.Outcome State Fault Refusal :=
  issue 0x120 (.e f) (fun s => do
    let (h, e) ← giveHandle s f
    let s ← sendRelease s
    .error (.wait (modCore s s.cur fun k =>
      { k with wait := some (.giving h e f.core.toNat f.tag (sentAcq s) f.stall.toNat) }))) s
/-- Steps 2 to 4 of R108 for the core that runs, once the drain has ended; whether the set attached at the target. -/
def detachGive (s : State) (h : Nat) (e : BitVec 32) (target : Nat) (tag : BitVec 12) (acq : List Acq) (stall : Nat) : State × Bool :=
  let c := s.cur
  let cid := cidOf c
  let n := bmSet e
  let who := (find (getCore s c).holders h).getD (.task (taskOf s).handle)
  let s := modCore s c fun k => { k with wait := none }
  let s := detachCore s c h
  let tc := coreNo cid target
  let room : Option Nat := if target < 4 || target = 8 then freeHandle (getCore s tc) else none
  match room with
  | none => (trapAt (attachSet s c h n e who) { code := cGIVE_INVALID }, false)
  | some b =>
    let s := attachSet s tc b n (bmEntry false 1 n) (.pending (slotOr s))
    let s := modCore s tc fun k => { k with gaveAt := some (cycOf s tc, idxOf c) }
    let hdr := mkHdr 0 tag (coreIdOf tc) (myClass s) (tenantOf s) 1 none (mySlot s)
    let s := sendFrom s hdr [BitVec.ofNat 64 b] acq (some b) false
    (finish s 0x120 stall .seq, true)
/-- Whether a core's give to a target has ended its drain. -/
def giveReady (s : State) (c target : Nat) : Bool :=
  match (getCore s c).wait with
  | some (.giving _ e t _ _ _) => t = target && !(drainBusy s c (bmSet e))
  | _ => false
/-- Whether a give may attach at its target now: those of one cycle go by ascending index of the giver (R110). -/
def giveTurn (s : State) (c target : Nat) : Bool :=
  let cid := cidOf c
  !((List.range (idxOf c)).any fun i => giveReady s (coreNo cid i) target)
    && (match (getCore s (coreNo cid target)).gaveAt with
        | some (t, i) => !(t = cycOf s c && idxOf c < i)
        | none => true)
/-- `give.res` (R106): RES set, SRC 10b; the set stays at its handle. -/
def execGiveRes (f : FmtE) (s : State) : Host.Outcome State Fault Refusal :=
  issue 0x120 (.e f) (seqBody fun s => do
    let (h, e) ← giveHandle s f
    return modCore s s.cur fun k =>
      { k with bmap := put k.bmap h (setField (setField e 28 1#1) 26 2#2), holders := put k.holders h (.resident (slotOr s)) }) s
/-- `give.rel` (R106): the set released at once. -/
def execGiveRel (f : FmtE) (s : State) : Host.Outcome State Fault Refusal :=
  issue 0x120 (.e f) (seqBody fun s => do
    let (h, _) ← giveHandle s f
    return releaseHandle s s.cur h) s
/-- What bmapr reads (R107, R110, R268): the entry before the cycle, zero for a set resident for another launch; a system task reads every
entry. -/
def bmapRead (s : State) (h : Nat) : BitVec 32 :=
  match entrySeen s s.cur h with
  | (e, some (.resident n)) => if (taskOf s).kind ≠ .system && (taskOf s).slot ≠ some n then 0 else e
  | (e, _) => e
def execBmapr (f : FmtS) (s : State) : Host.Outcome State Fault Refusal :=
  issue 0x121 (.s f) (seqBody fun s => .ok (writeS s f.d ((bmapRead s (field (readS s f.a) 0 4).toNat).setWidth 64))) s

end Sys2Proof.Machine
end

