-- ==== Sys2Proof/Machine/TileOps.lean ====
section
/-! DEFINITION. Tile registers and their shapes, tile transfers, semaphores and qstat (R113 to R118, R269 to R271). -/
namespace Sys2Proof.Machine

/-! Rows (R113, R117) and the leaf reset (R116). -/

def rowOf (x : Tile) (k r : Nat) : Row := look 0 x.rows (64 * k + r)
/-- Element `c` of row `r` of a tile register, as an unsigned number of the element's width (R117). -/
def elemOf (x : Tile) (k w r c : Nat) : Nat := (rowOf x k r).toNat / 2 ^ (c * w) % 2 ^ w
/-- Whether a tile or matrix instruction waits for the leaf reset (R116). -/
def resetWait (x : Tile) : Bool := x.resetDue || x.resetEnd.isSome

/-! Tile transfers (R117, R118, R269). -/

/-- STRD of the tile transfers, bits [31:24] of the word (R212, R269). -/
def strd (f : FmtM) : Nat := f.ord.toNat * 64 + f.sco.toNat * 16 + f.sz.toNat * 2 + f.sx.toNat
/-- The places of the rows or columns an instruction moves, checked before any moves. -/
def tilePlaces (s : State) (f : FmtM) (n b : Nat) (write : Bool) : Res (List Loc) :=
  let a := (effAddr s f).1
  ((List.range n).foldl (fun r i => do
    let acc ← r
    let l ← spCheck s (a + BitVec.ofNat 64 (16 * strd f * i)) b 16 write
    return l :: acc) (Except.ok [])).map List.reverse
def tileOp (body : FmtM → State → Nat → Res State) (f : FmtM) : Body := seqBody fun s =>
  if resetWait (getTile s (tileOfCore s.cur)) then .error (.wait s) else body f s f.d.toNat
def execTload (f : FmtM) (s : State) : Host.Outcome State Fault Refusal :=
  issue 0x128 (.m f) (tileOp (fun f s k => do
    let t := tileOfCore s.cur
    let v := shapeOf (getTile s t) k
    let b := ceilDiv (shCols v * fmtWidth (shFmt v)) 8
    let ls ← tilePlaces s f (shRows v) b false
    let rows := ls.map fun l => ofBytes 768 (locRead s l b)
    return modTile s t fun x => { x with rows := writeRun 0 x.rows (64 * k) rows }) f) s
def execTstore (f : FmtM) (s : State) : Host.Outcome State Fault Refusal :=
  issue 0x129 (.m f) (tileOp (fun f s k => do
    let x := getTile s (tileOfCore s.cur)
    let v := shapeOf x k
    let b := ceilDiv (shCols v * fmtWidth (shFmt v)) 8
    let ls ← tilePlaces s f (shRows v) b true
    return ls.zipIdx.foldl (fun s q => taskWrite s q.1 (bytesOf b (rowOf x k q.2))) s) f) s
/-- Column `c` of a tile register's rows in use, its elements packed from bit 0 (R117). -/
def columnOf (x : Tile) (k w rows c : Nat) : Nat := joinLanes w ((List.range rows).map fun r => elemOf x k w r c)
def execTstoreCol (f : FmtM) (s : State) : Host.Outcome State Fault Refusal :=
  issue 0x12A (.m f) (tileOp (fun f s k => do
    let x := getTile s (tileOfCore s.cur)
    let v := shapeOf x k
    let w := fmtWidth (shFmt v)
    let b := ceilDiv (shRows v * w) 8
    let ls ← tilePlaces s f (shCols v) b true
    return ls.zipIdx.foldl (fun s q => taskWrite s q.1 (bytesOfNat b (columnOf x k w (shRows v) q.2))) s) f) s

/-! Semaphores (R270). -/

/-- The instruction that another core would issue in this cycle, if it passes its decode checks. -/
def wouldIssue (s : State) (c : Nat) : Option Instr :=
  match (getCore s c).run with
  | none => none
  | some t =>
    let word : Option Word :=
      if t.kind = .carried then (t.code.take 8)[t.ctx.pc.toNat / 8]?
      else match codeWord { s with cur := c } t.ctx.pc with
        | .ok (_, w) => some w
        | .error _ => none
    let i := word.map decodeRaw
    match i.bind view with
    | some (op, f) => if mayIssue s c && (decodeCheck t (classOf (idxOf c)) op f).isNone then i else none
    | none => none
/-- The other core of a tile. -/
def tileMate (c : Nat) : Nat := if idxOf c < 4 then c + 4 else c - 4
/-- Whether a semw lets the other core of the tile go first in this cycle (R270): a sems of the same semaphore, which matters at 255
alone, and, for the X-core at a count of one, the A-core's semw. -/
def semLater (s : State) (n : Nat) (hnd : BitVec 4) : Bool :=
  let c := tileMate s.cur
  let x := getTile s (tileOfCore s.cur)
  if n = 255 then
    match wouldIssue s c with
    | some (.sems g) => g.hnd = hnd && !(classOf (idxOf c) = .x && (x.waiting.isSome || !x.running.isEmpty))
    | _ => false
  else if n = 1 && classOf (idxOf s.cur) = .x then
    match wouldIssue s c with
    | some (.semw g) => g.hnd = hnd
    | _ => false
  else false
def execSems (f : FmtE) (s : State) : Host.Outcome State Fault Refusal :=
  issue 0x160 (.e f) (seqBody fun s =>
    let t := tileOfCore s.cur
    let x := getTile s t
    let n := (look 0 x.sems f.hnd.toNat).toNat
    if classOf (idxOf s.cur) = .x && (x.waiting.isSome || !x.running.isEmpty) then .error (.wait s)
    else if n = 255 then .ok (orFlags s { sat := true })
    else .ok (setTile s t { x with sems := writeOne 0 x.sems f.hnd.toNat (BitVec.ofNat 8 (n + 1)) })) s
def execSemw (f : FmtE) (s : State) : Host.Outcome State Fault Refusal :=
  issue 0x161 (.e f) (seqBody fun s =>
    let t := tileOfCore s.cur
    let x := getTile s t
    let n := (look 0 x.sems f.hnd.toNat).toNat
    if n = 0 || semLater s n f.hnd then .error (.wait s)
    else .ok (setTile s t { x with sems := writeOne 0 x.sems f.hnd.toNat (BitVec.ofNat 8 (n - 1)) })) s

/-! Queue status (R271). -/

/-- Bytes from bit 0 up. -/
def packBytes (l : List Nat) : Nat := joinLanes 8 l
def qstatValue (s : State) (sel : Nat) : Word :=
  let c := s.cur
  let cl := classOf (idxOf c)
  let x := getTile s (tileOfCore c)
  let k := getCore s c
  if sel = 0 then
    if cl = .c then 0
    else BitVec.ofNat 64 (packBytes (((List.range 4).map fun q => lqHeld x q)
      ++ (List.range 4).map fun q => (look [] x.sq q).length))
  else if sel = 1 then
    if cl = .x then BitVec.ofNat 64 (packBytes ((List.range 8).map fun q => (look [] x.chans q).length)) else 0
  else if sel = 2 then
    let q := if cl = .c then 0 else (satAdd16 x.discards x.chanDiscards.toNat).toNat
    BitVec.ofNat 64 (q * 2 ^ 16 + k.discards.toNat)
  else if sel = 3 then
    if cl = .c then 0 else BitVec.ofNat 64 (packBytes ((List.range 8).map fun q => (look 0 x.sems q).toNat))
  else
    BitVec.ofNat 64 ((getCl s (cidOf c)).overflow.length + k.recvs.length * 2 ^ 16 + k.trigs.length * 2 ^ 24)
def execQstat (f : FmtE) (s : State) : Host.Outcome State Fault Refusal :=
  issue 0x162 (.e f) (seqBody fun s => .ok (writeS s f.d (qstatValue s f.sub.toNat))) s

end Sys2Proof.Machine
end

