-- ==== Sys2Proof/Machine/Sync.lean ====
section
/-! DEFINITION. Counters, triggers and arrivals (R164, R168, R190, R191, R272, R273). -/
namespace Sys2Proof.Machine

def tagTenantOk (s : State) (t : Nat) : Bool := tagTenant (tagOf (getCore s s.cur) t) = tenantOf s
def execCtrwait (f : FmtE) (s : State) : Host.Outcome State Fault Refusal :=
  issue 0x163 (.e f) (seqBody fun s => do
    let l ← refCheck s (readS s f.a) 8 8 false
    let v := ctrValue s l
    if v.toNat < (readC s f).toNat then .error (.wait s)
    else do
      let s ← acquire s .dev
      acquireFrom s (observed s l v)) s
/-- ctrtrig: TAG_DENIED comes before TRIG_FULL (DESIGN CHOICE, entry 112). -/
def execCtrtrig (f : FmtE) (s : State) : Host.Outcome State Fault Refusal :=
  issue 0x164 (.e f) (seqBody fun s => do
    let r := readS s f.a
    let _ ← refCheck s r 8 8 false
    if !(tagTenantOk s (f.tag.toNat % 256)) then raise s cTAG_DENIED
    else if 8 ≤ (getCore s s.cur).trigs.length then raise s cTRIG_FULL
    else
      let t : Trig :=
        { slot := slotOr s, ctr := r, val := readC s f, tag := f.tag, set := refSet s r, parent := (taskOf s).handle,
          acq := (taskOf s).det.acq }
      return fireTrigs (modCore s s.cur fun k => { k with trigs := k.trigs ++ [t] }) s.cur) s
def execArrive (f : FmtE) (s : State) : Host.Outcome State Fault Refusal :=
  issue 0x165 (.e f) (seqBody fun s => do
    let l ← refCheck s (readS s f.a) 8 8 true
    let v := readC s f
    let s ← sendRelease s
    let d := (taskOf s).det
    return bumpMine s l v { id := d.id, op := 0 } d.epoch) s

end Sys2Proof.Machine
end

