-- ==== Sys2Proof/Machine/Parcels.lean ====
section
/-! DEFINITION. Sending parcels, receiving tagged data, and the tag table (R149 to R159, R192, R274 to R277, R329). -/
namespace Sys2Proof.Machine

/-! Sending (R274). -/

/-- Payload words: s16 upward. -/
def payloadOf (s : State) (n : Nat) : List Word := (List.range n).map fun i => readS s (BitVec.ofNat 6 (16 + i))
/-- A destination register in COREID layout. -/
def destOf (w : Word) : Nat := (field w 0 15).toNat
/-- The core a handle names, in COREID layout (R63). -/
def destOfHandle (h : BitVec 32) : Nat := bitsOf h.toNat 31 27 * 1024 + bitsOf h.toNat 26 22 * 32 + bitsOf h.toNat 21 18
/-- The shared effect of send, sendc, sendt and reply. `sys` marks a system task's system parcel. -/
def sendBody (f : FmtE) (kind : Nat) (tag : BitVec 12) (dest : State → Nat) (answers : Bool) (sys : State → Bool) : Body := seqBody fun s => do
  let n := (readC s f).toNat
  if 15 < n then raise s cPARCEL_INVALID
  else if answers && (taskOf s).kind ≠ .handler && (taskOf s).kind ≠ .carried then raise s cPARCEL_INVALID
  else do
    let s ← sendRelease s
    let y := sys s
    let hdr := mkHdr (if y then 3 else kind) (if y then setField tag 0 0xE#4 else tag) (dest s) (myClass s) (tenantOf s) n none (mySlot s)
    return sendFrom s hdr (payloadOf s n) (sentAcq s) none y
def execSend (f : FmtE) (s : State) : Host.Outcome State Fault Refusal :=
  issue 0x168 (.e f) (sendBody f 0 f.tag (fun s => destOf (readS s f.d)) false
    fun s => bit f.sub 3 && (taskOf s).kind = .system) s
def execSendc (f : FmtE) (s : State) : Host.Outcome State Fault Refusal :=
  issue 0x169 (.e f) (sendBody f 1 0 (fun s => destOf (readS s f.d)) false fun _ => false) s
def execSendt (f : FmtE) (s : State) : Host.Outcome State Fault Refusal :=
  issue 0x16A (.e f) (sendBody f 2 f.tag (fun s => destOf (readS s f.d)) false fun _ => false) s
def execReply (f : FmtE) (s : State) : Host.Outcome State Fault Refusal :=
  issue 0x16F (.e f) (sendBody f 2 f.tag (fun s => destOfHandle (taskOf s).parent) true fun _ => false) s

/-! Receiving (R157 to R159, R275, R276). -/

/-- Whether a parcel is for a core and carries a tag. -/
def addressed (c : Nat) (tag : BitVec 12) (p : Parcel) : Bool := hDestCore p.hdr = c && hTag p.hdr = tag
/-- Whether a receive admits a parcel (R157). -/
def admits (r : Recv) (p : Parcel) : Bool :=
  hTag p.hdr = r.tag && (match r.src with
    | some x => x.toNat = p.src
    | none => true)
/-- Where a receive's buffer and counter stand. -/
def recvLoc (c : Nat) (set : Option Nat) (r : Word) : Loc :=
  match set with
  | some n => .set (cidOf c) n (refOff r)
  | none => .store c (refOff r)
/-- The sender of a parcel as the detector names it, with the epoch its receiver acquires; zero where it is no task's (R190, R192). -/
def senderOf (p : Parcel) : Party × Nat :=
  match p.owner with
  | some (_, id) => ({ id := id, op := 0 }, ((p.acq.find? fun a => a.who = { id := id, op := 0 }).map fun a => a.n).getD 0)
  | none => ({ id := 0, op := 0 }, 0)
/-- A matched parcel fills a receive's buffer and counts (R157). Observing that increment acquires the one entry of R191 and no table that
the sender carried (DESIGN CHOICE, entry 106). -/
def deliver (s : State) (c : Nat) (r : Recv) (p : Parcel) : State :=
  let s := locWrite s none (recvLoc c r.set r.buf) (wordsBytes (p.hdr :: p.payload))
  let w := senderOf p
  bumpCounter s (recvLoc c r.ctrSet r.ctr) 1 w.1 w.2
/-- The overflow queue without its `i`-th parcel. -/
def takeOverflow (s : State) (cid i : Nat) : State := modCl s cid fun k => { k with overflow := dropNth k.overflow i }
def execRecvp (f : FmtE) (s : State) : Host.Outcome State Fault Refusal :=
  issue 0x16B (.e f) (seqBody fun s => do
    let c := s.cur
    let b := readS s f.a
    let k := readS s f.c
    let _ ← refCheck s b 128 16 true
    let _ ← refCheck s k 8 8 true
    let r : Recv :=
      { slot := slotOr s, tag := f.tag, src := if bit f.sub 0 then none else some (field (readS s f.b) 0 15 &&& 0x7FEF#15), buf := b, ctr := k,
        set := refSet s b, ctrSet := refSet s k }
    let q := (getCl s (cidOf c)).overflow
    match q.findIdx? (fun p => addressed c f.tag p && admits r p), q.find? (fun p => addressed c f.tag p && admits r p) with
    | some i, some p => return deliver (takeOverflow s (cidOf c) i) c r p
    | _, _ =>
      if 16 ≤ (getCore s c).recvs.length then raise s cRECV_FULL
      else return modCore s c fun x => { x with recvs := x.recvs ++ [r] }) s
/-- The registers a recvx writes: the header, then the payload from s16 up, so that a payload word stands where d names its register too;
R159 and R276 name the two writes in opposite orders (DESIGN CHOICE, entry 91). -/
def recvRegs (s : State) (d : BitVec 6) (p : Parcel) : State :=
  p.payload.zipIdx.foldl (fun s q => writeS s (BitVec.ofNat 6 (16 + q.2)) q.1) (writeS s d p.hdr)
def execRecvx (f : FmtE) (s : State) : Host.Outcome State Fault Refusal :=
  issue 0x16C (.e f) (seqBody fun s => do
    let c := s.cur
    -- a parcel handed to the waiting instruction stands at the head of the queue until it is taken
    let s := match (getCore s c).wait with
      | some (.recv _ (some p)) => modCl (modCore s c fun k => { k with wait := none }) (cidOf c) fun k => { k with overflow := p :: k.overflow }
      | _ => modCore s c fun k => { k with wait := none }
    let q := (getCl s (cidOf c)).overflow
    match q.findIdx? (addressed c f.tag), q.find? (addressed c f.tag) with
    | some i, some p => do
      let s ← acquire s .dev
      let s ← acquireFrom s p.acq
      return recvRegs (takeOverflow s (cidOf c) i) f.d p
    | _, _ => .error (.wait (modCore s c fun k => { k with wait := some (.recv f.tag none) }))) s

/-! The tag table (R153, R277). -/

/-- A tag of another tenant; a system task may use every tag (R329). -/
def tagDenied (s : State) (t : Nat) : Bool := (taskOf s).kind ≠ .system && !(tagTenantOk s t)
/-- EN and the software pend of an entry written together, with the tasks that start (R153). -/
def tagsetTo (s : State) (t : Nat) (en pend : Bool) : State :=
  tagPut (modCore s s.cur fun k => { k with tagsBy := if k.tagsBy.contains t then k.tagsBy else k.tagsBy ++ [t] }) t
    (setField (setField (tagOf (getCore s s.cur) t) 63 (b1 en)) 62 (b1 pend))
def execTagset (f : FmtE) (s : State) : Host.Outcome State Fault Refusal :=
  issue 0x16D (.e f) (seqBody fun s =>
    let t := f.tag.toNat % 256
    if tagDenied s t then raise s cTAG_DENIED else .ok (tagsetTo s t (bit f.sub 0) (bit f.sub 1))) s
def execTagr (f : FmtE) (s : State) : Host.Outcome State Fault Refusal :=
  issue 0x16E (.e f) (seqBody fun s =>
    let t := f.tag.toNat % 256
    .ok (writeS s f.d (if tagDenied s t then 0 else tagRead (getCore s s.cur) t))) s

end Sys2Proof.Machine
end

