-- ==== Sys2Proof/Machine/Groups.lean ====
section
/-! DEFINITION. Groups, multicast and write with enqueue (R169, R172, R173, R278, R279). -/
namespace Sys2Proof.Machine

def groupAt (s : State) (p g : Nat) : Group := look {} (getPart s p).groups g
def setGroup (s : State) (p g : Nat) (x : Group) : State := modPart s p fun q => { q with groups := put q.groups g x }
/-- A core from a COREID-layout number that names one the device has. -/
def memberCore (m : BitVec 15) : Nat := coreOfId m.toNat
/-- The drain count of a group (R172): parcels and contributions sent to it, neither accepted nor discarded. -/
def drainCount (s : State) (p g : Nat) : Nat :=
  (s.net.filter fun q => hGrp q.hdr && hGroup q.hdr = g && q.srcPart = some p).length
    + ((sentOps s ++ s.clusters.flatMap fun e => engOps e.2).filter fun o =>
        o.kind = .reduce && (field (o.head.headD 0) 56 8).toNat = g && (getCl s (cidOf o.core)).part = some p).length
/-- A group instruction's number: above 255, GROUP_INVALID (R278). -/
def groupNo (s : State) (v : Word) : Res Nat := if 255 < v.toNat then raise s cGROUP_INVALID else .ok v.toNat
/-- A grpset or grpfree stalls while the drain count is not zero, and remembers since when (R172). -/
def groupStall (s : State) (g : Nat) : Res State :=
  if drainCount s (myPart s) g = 0 then
    .ok (match (getCore s s.cur).wait with
      | some (.group _ _) => modCore s s.cur fun k => { k with wait := none }
      | _ => s)
  else
    match (getCore s s.cur).wait with
    | some (.group _ _) => .error (.wait s)
    | _ => .error (.wait (modCore s s.cur fun k => { k with wait := some (.group (cycOf s s.cur) g) }))
/-- A member of a descriptor, y in [13:9], x in [8:4], core in [3:0], in COREID layout (R172). -/
def memberOf (b : List Byte) : BitVec 15 :=
  let v := natOfBytes b
  BitVec.ofNat 15 (bitsOf v 13 9 * 1024 + bitsOf v 8 4 * 32 + bitsOf v 3 0)
/-- Every member core records the generation, or that the group is free. -/
def markMembers (s : State) (ms : List (BitVec 15)) (g gen : Nat) (freed : Bool) : State :=
  ms.foldl (fun s m => modCore s (memberCore m) fun k => { k with groups := put k.groups g { gen := gen, freed := freed } }) s
/-- The members a descriptor lists, where it is valid (R172). -/
def memberList (s : State) (count : Nat) (ms : List (BitVec 15)) : Res (List (BitVec 15)) :=
  let ok (m : BitVec 15) : Bool := idOk m.toNat && (getCl s (cidOf (memberCore m))).part = some (myPart s)
  if 1 ≤ count && count ≤ 256 && ms.all ok && ms.eraseDups.length = ms.length then .ok ms else raise s cGROUP_INVALID
/-- grpset: it stalls for the drain count before it reads and checks its descriptor (DESIGN CHOICE, entry 111). -/
def execGrpset (f : FmtE) (s : State) : Host.Outcome State Fault Refusal :=
  issue 0x170 (.e f) (seqBody fun s => do
    let g ← groupNo s (readS s f.a)
    let d := readS s f.b
    devChecks s d 2 .read
    if d.toNat % 8 ≠ 0 then raiseAt s cALIGN d
    else do
      let s ← groupStall s g
      let (s, cb) ← devRead s d.toNat 2
      let count := natOfBytes cb
      let (s, ms) ← (List.range (if count ≤ 256 then count else 0)).foldl (fun r i => do
        let (s, acc) ← r
        let a := d + BitVec.ofNat 64 (8 + 2 * i)
        devChecks s a 2 .read
        let (s, b) ← devRead s a.toNat 2
        return (s, acc ++ [memberOf b])) (Except.ok (s, []))
      let ms ← memberList s count ms
      let p := myPart s
      let gen := ((groupAt s p g).gen + 1) % 4
      return markMembers (setGroup s p g { members := ms, gen := gen, installed := true }) ms g gen false) s
def execGrpfree (f : FmtE) (s : State) : Host.Outcome State Fault Refusal :=
  issue 0x171 (.e f) (seqBody fun s => do
    let g ← groupNo s (readS s f.a)
    let s ← groupStall s g
    let p := myPart s
    let x := groupAt s p g
    return markMembers (setGroup s p g { x with installed := false }) x.members g x.gen true) s
/-- GROUP_BUSY of a core whose grpset or grpfree has stalled 65,536 cycles (R172). -/
def execGroupBusy (c : Nat) (s : State) : Host.Outcome State Fault Refusal :=
  match (getCore s c).wait with
  | some (.group since g) =>
    if since + 65536 ≤ cycOf s c && drainCount s (partOf s (cidOf c)) g ≠ 0 && (getCore s c).run.isSome then
      .next (asCore s c fun s => trapAt (modCore s c fun k => { k with wait := none }) { code := cGROUP_BUSY })
    else .next s
  | _ => .next s
/-- mcast: GROUP_INVALID comes before the PARCEL_INVALID of a length above 15 (DESIGN CHOICE, entry 110). -/
def execMcast (f : FmtE) (s : State) : Host.Outcome State Fault Refusal :=
  issue 0x172 (.e f) (seqBody fun s => do
    let g ← groupNo s (readS s f.a)
    let x := groupAt s (myPart s) g
    let n := (readC s f).toNat
    if !x.installed then raise s cGROUP_INVALID
    else if 15 < n then raise s cPARCEL_INVALID
    else do
      let s ← sendRelease s
      return x.members.foldl (fun s m =>
        sendFrom s (mkHdr 0 f.tag m.toNat (myClass s) (tenantOf s) n (some (g, x.gen)) (mySlot s)) (payloadOf s n) (sentAcq s) none false) s) s

/-! Write with enqueue (R169, R279). -/

/-- One piece of a wrq, within a line, written at its home slice as a weak write. R93 has a PAGE record give the log2 of the access's size,
which LEN need not have: it is that of the piece, rounded down (DESIGN CHOICE, entry 88). -/
def wrqPiece (s : State) (dst a : Nat) (src : Loc) (n : Nat) : Res State := do
  let ln := a / 128
  let done := (taskOf s).committed
  let s ← ownLine (ownPosted s ln) ln
  let p := myPart s
  let (s, x) ← xlate s p (homeOf s p ln) a .write (Nat.log2 n) (BitVec.ofNat 64 done)
  let m := maskRange (a % 128) n
  if windowOpen s p ln then .error (.wait s)
  else
  match detectMine s (taskOf s).det.epoch ln m true false with
  | .error i => .error (.trap i s)
  | .ok s =>
    let off (l : Loc) (k : Nat) : Loc :=
      match l with
      | .store c o => .store c (o + k)
      | .set cid q o => .set cid q (o + k)
    let v := lineAt (a % 128) (locRead s (off src (a - dst)) n)
    let s := digestMine (setRel (sliceMerge s p (homeOf s p ln) ln x v m) p ln []) ln v m
    return modTask s fun t => { t with committed := done + n }
/-- The alignment of a source of `n` bytes: order 5 of R100 in a set; in the core store the natural one, which R256 gives for 1, 2, 4, 8 and
128 bytes (DEDUCED, entry 89). The writes themselves need none (R279). -/
def wrqAlign (r : Word) (n : Nat) : Nat :=
  if bit r 63 then (if 16 < n then 16 else if n = 1 || n = 2 || n = 4 || n = 8 || n = 16 then n else 1)
  else if n = 128 then 16 else if n = 1 || n = 2 || n = 4 || n = 8 then n else 1
def execWrq (f : FmtE) (s : State) : Host.Outcome State Fault Refusal :=
  issue 0x173 (.e f) (seqBody fun s => do
    let l ← refCheck s (readS s f.a) 32 8 false
    let w := bytesWords 4 (locRead s l 32)
    let dst := w.getD 1 0
    let n := (w.getD 2 0).toNat
    let ctr := w.getD 3 0
    if n = 0 || 4096 < n then raise s cPARCEL_INVALID
    else do
      let src ← refCheck s (w.getD 0 0) n (wrqAlign (w.getD 0 0) n) false
      let cl ← if ctr = 0#64 then Except.ok none else (refCheck s ctr 8 8 true).map some
      let done := (taskOf s).committed
      let p := myPart s
      let at_ := dst.toNat + done
      let (s, _) ← xlate s p (homeOf s p (at_ / 128)) at_ .write (Nat.log2 (min (n - done) (128 - at_ % 128))) (BitVec.ofNat 64 done)
      -- the release; the writes carry the epoch before it rises, so that what they release covers them (R192, R195, R279)
      let s ← if done = 0 then release (ownAll s) .dev else Except.ok s
      let s ← (pieces 34 at_ (n - done)).foldl (fun r q => do
        let s ← r
        wrqPiece s dst.toNat q.1 src q.2) (Except.ok s)
      let s := bumpEpoch (modTask s fun t => { t with committed := 0 })
      let d := (taskOf s).det
      let s := match cl with
        | some c => bumpMine s c 1 { id := d.id, op := 0 } d.epoch
        | none => s
      let hdr := mkHdr 0 f.tag (destOf (readS s f.d)) (myClass s) (tenantOf s) 2 none (mySlot s)
      return sendFrom s hdr [dst, BitVec.ofNat 64 n] (sentAcq s) none false) s

end Sys2Proof.Machine
end

