-- ==== Sys2Proof/Machine/Float.lean ====
section
/-! DEFINITION. Element formats: what a code stands for, exact arithmetic on values, the one rounding, and the generator of
stochastic rounding (R126 to R136, R146, R221, R292, R293, R298, R299). -/
namespace Sys2Proof.Machine

/-- The value of an element: exact, not yet rounded. `fin neg m e` is `m * 2^e` with the sign; a zero has `m = 0` and a sign. -/
inductive FVal where
  | nan
  | inf (neg : Bool)
  | fin (neg : Bool) (m : Nat) (e : Int)
deriving DecidableEq, Repr, Inhabited

/-! ## Formats (R68, R126, R127) -/

def isInt (f : Nat) : Bool := f ≤ 4
/-- Exponent bits, fraction bits and bias of a floating format with a fraction (R127). -/
def layoutOf (f : Nat) : Nat × Nat × Int :=
  if f = 5 then (2, 1, 1) else if f = 6 then (4, 3, 7) else if f = 7 then (5, 2, 15) else if f = 8 then (5, 10, 15)
  else if f = 9 then (8, 7, 127) else if f = 10 then (8, 23, 127) else (11, 52, 1023)
/-- Whether the largest exponent field stands for infinities and NaNs (R128). -/
def hasInf (f : Nat) : Bool := 7 ≤ f && f ≤ 11
/-- The largest finite magnitude, as a significand of full length and the exponent of its last place (R127). -/
def maxOf (f : Nat) : Nat × Int :=
  let (eb, fb, bias) := layoutOf f
  if f = 6 then (14, 5) else if f = 5 then (3, 1)
  else (2 ^ (fb + 1) - 1, (2 ^ eb - 2 : Nat) - bias - fb)
/-- The canonical NaN (R132). -/
def canonNan (f : Nat) : Nat :=
  if f = 11 then 0x7FF8000000000000 else if f = 10 then 0x7FC00000 else if f = 9 then 0x7FC0 else if f = 8 then 0x7E00
  else if f = 7 then 0x7E else if f = 6 then 0x7F else if f = 12 then 0xFF else 0
/-- An integer as a value. -/
def ofInt (x : Int) : FVal := .fin (decide (x < 0)) x.natAbs 0
/-- The value of a code (R126, R128 to R131). -/
def decodeElem (f code : Nat) : FVal :=
  if isInt f then ofInt (sgn (fmtWidth f) code)
  else if f = 12 then (if code % 256 = 255 then .nan else .fin false 1 ((code % 256 : Nat) - 127))
  else if f = 5 && code % 16 = 8 then .fin false 0 0
  else
    let (eb, fb, bias) := layoutOf f
    let neg := decide (code / 2 ^ (eb + fb) % 2 = 1)
    let e := code / 2 ^ fb % 2 ^ eb
    let fr := code % 2 ^ fb
    if hasInf f && e = 2 ^ eb - 1 then (if fr = 0 then .inf neg else .nan)
    else if f = 6 && e = 15 && fr = 7 then .nan
    else if e = 0 then .fin neg fr (1 - bias - fb)
    else .fin neg (2 ^ fb + fr) (e - bias - fb)

/-! ## Exact arithmetic (R132, R133, R146) -/

def isNan : FVal → Bool
  | .nan => true
  | _ => false
def negV : FVal → FVal
  | .nan => .nan
  | .inf n => .inf (!n)
  | .fin n m e => .fin (!n) m e
def absV : FVal → FVal
  | .nan => .nan
  | .inf _ => .inf false
  | .fin _ m e => .fin false m e
/-- A product, and whether it is the invalid 0 times infinity. -/
def mulV (a b : FVal) : FVal × Bool :=
  match a, b with
  | .nan, _ => (.nan, false)
  | _, .nan => (.nan, false)
  | .inf s, .inf t => (.inf (s ≠ t), false)
  | .inf s, .fin t m _ => if m = 0 then (.nan, true) else (.inf (s ≠ t), false)
  | .fin s m _, .inf t => if m = 0 then (.nan, true) else (.inf (s ≠ t), false)
  | .fin s m e, .fin t n f => (.fin (s ≠ t) (m * n) (e + f), false)
/-- The exact sum of finite terms, in units of two to the power given. -/
def sumAt (u : Int) (l : List FVal) : Int :=
  l.foldl (fun a x => match x with
    | .fin neg m e => if m = 0 then a else a + (if neg then -1 else 1) * ((m * 2 ^ (e - u).toNat : Nat) : Int)
    | _ => a) 0
def minExp (l : List FVal) : Int :=
  (l.foldl (fun (a : Option Int) x => match x with
    | .fin _ m e => if m = 0 then a else some (match a with
      | some b => min b e
      | none => e)
    | _ => a) none).getD 0
def isNegZero : FVal → Bool
  | .fin n m _ => n && m = 0
  | _ => false
def isZero : FVal → Bool
  | .fin _ m _ => m = 0
  | _ => false
/-- The sum of terms with their specials in the order of R146, steps 1 to 3; a zero takes its sign by R133, `rdn` saying
whether the active mode is rdn. A term's mark says it is 0 times infinity. -/
def sumV (terms : List (FVal × Bool)) (rdn : Bool) : FVal × Flags :=
  let vs := terms.map (·.1)
  if terms.any fun t => isNan t.1 && !t.2 then (.nan, {})
  else if terms.any fun t => t.2 then (.nan, { nv := true })
  else if vs.contains (.inf true) && vs.contains (.inf false) then (.nan, { nv := true })
  else if vs.contains (.inf true) then (.inf true, {})
  else if vs.contains (.inf false) then (.inf false, {})
  else
    let u := minExp vs
    let n := sumAt u vs
    if n = 0 then
      let allZero := vs.all isZero
      (.fin (if allZero && vs.all isNegZero then true else if allZero && !(vs.any isNegZero) then false else rdn) 0 0, {})
    else (.fin (decide (n < 0)) n.natAbs u, {})
/-- How two values that are no NaN compare: below zero, zero or above it; minus and plus zero are equal. -/
def cmpV (a b : FVal) : Int :=
  match a, b with
  | .nan, _ => 0
  | _, .nan => 0
  | .inf s, .inf t => if s = t then 0 else if s then -1 else 1
  | .inf s, .fin _ _ _ => if s then -1 else 1
  | .fin _ _ _, .inf t => if t then 1 else -1
  | .fin _ _ _, .fin _ _ _ =>
    let u := minExp [a, b]
    let d := sumAt u [a] - sumAt u [b]
    if d < 0 then -1 else if d = 0 then 0 else 1
/-- The lesser of two values, minus zero below plus zero; NaN where either is (R293). -/
def minV (a b : FVal) : FVal :=
  if isNan a || isNan b then .nan
  else if cmpV a b < 0 || (cmpV a b = 0 && isNegZero a) then a else b
def maxV (a b : FVal) : FVal :=
  if isNan a || isNan b then .nan
  else if 0 < cmpV a b || (cmpV a b = 0 && !(isNegZero a)) then a else b

/-! ## Quotients and roots, to more places than any rounding looks at: the last place of an inexact one is odd -/

/-- `m * 2^e` with a last place that is one where more follows. -/
def sticky (neg : Bool) (m : Nat) (more : Bool) (e : Int) : FVal := .fin neg (2 * m + if more then 1 else 0) (e - 1)
/-- A quotient with the specials of R292 for vdiv. -/
def divV (a b : FVal) : FVal × Flags :=
  match a, b with
  | .nan, _ => (.nan, {})
  | _, .nan => (.nan, {})
  | .inf _, .inf _ => (.nan, { nv := true })
  | .inf s, .fin t _ _ => (.inf (s ≠ t), {})
  | .fin s _ _, .inf t => (.fin (s ≠ t) 0 0, {})
  | .fin s m e, .fin t n f =>
    if n = 0 then (if m = 0 then (.nan, { nv := true }) else (.inf (s ≠ t), { dz := true }))
    else if m = 0 then (.fin (s ≠ t) 0 0, {})
    else
      let k := 160 + Nat.log2 n
      let p := m * 2 ^ k
      (sticky (s ≠ t) (p / n) (p % n ≠ 0) (e - f - k), {})
/-- The integer square root, its bits found from the highest down. -/
def rootFrom : Nat → Nat → Nat → Nat
  | 0, _, r => r
  | i + 1, x, r => rootFrom i x (if (r + 2 ^ i) * (r + 2 ^ i) ≤ x then r + 2 ^ i else r)
def natRoot (x : Nat) : Nat := rootFrom (Nat.log2 x / 2 + 1) x 0
/-- A square root with the specials of R292. -/
def sqrtV (a : FVal) : FVal × Flags :=
  match a with
  | .nan => (.nan, {})
  | .inf s => if s then (.nan, { nv := true }) else (.inf false, {})
  | .fin s m e =>
    if m = 0 then (.fin s 0 0, {})
    else if s then (.nan, { nv := true })
    else
      let m' := if e % 2 = 0 then m else 2 * m
      let e' := if e % 2 = 0 then e else e - 1
      let x := m' * 2 ^ 320
      let r := natRoot x
      (sticky false r (r * r ≠ x) (e' / 2 - 160), {})
/-- A reciprocal square root with the specials of R292. -/
def rsqV (a : FVal) : FVal × Flags :=
  match a with
  | .nan => (.nan, {})
  | .inf s => if s then (.nan, { nv := true }) else (.fin false 0 0, {})
  | .fin s m e =>
    if m = 0 then (.inf s, { dz := true })
    else if s then (.nan, { nv := true })
    else
      let m' := if e % 2 = 0 then m else 2 * m
      let e' := if e % 2 = 0 then e else e - 1
      let p := 160 + Nat.log2 m'
      let x := 2 ^ (2 * p) / m'
      let r := natRoot x
      (sticky false r (r * r * m' ≠ 2 ^ (2 * p)) (-(p : Int) - e' / 2), {})

/-! Powers of two and logarithms, worked to 320 places; neither is a tie or exact but where it is said to be (entry 20). -/

def places : Nat := 320
/-- The natural logarithm of two, to `places` places, rounded down: the sum of 1 / (k 2^k). -/
def ln2 : Nat := (List.range 340).foldl (fun a k => a + 2 ^ (places + 20) / ((k + 1) * 2 ^ (k + 1))) 0 / 2 ^ 20
/-- e^x for x below one, in units of 2^-places. -/
def expFrac (x : Nat) : Nat :=
  ((List.range 90).foldl (fun (r : Nat × Nat) k =>
    let t := r.1 * x / ((k + 1) * 2 ^ places)
    (t, r.2 + t)) (2 ^ places, 2 ^ places)).2
/-- Two to the power of a value (R292). -/
def exp2V (a : FVal) : FVal :=
  match a with
  | .nan => .nan
  | .inf s => if s then .fin false 0 0 else .inf false
  | .fin s m e =>
    if m = 0 then .fin false 1 0
    else
      let whole := if 0 ≤ e then (if e ≤ 16 then m * 2 ^ e.toNat else 2 ^ 16) else m / 2 ^ (-e).toNat
      let part := if 0 ≤ e then 0 else m % 2 ^ (-e).toNat
      let whole := min whole 20000
      if part = 0 then .fin false 1 (if s then -(whole : Int) else whole)
      else
        let d := (-e).toNat
        let fr := if s then 2 ^ d - part else part
        let n : Int := if s then -(whole : Int) - 1 else whole
        sticky false (expFrac (fr * 2 ^ places / 2 ^ d * ln2 / 2 ^ places)) true (n - places)
/-- The base-2 logarithm of z/2^places for z from 2^places up to twice that, in units of 2^-places. -/
def log2Frac (z : Nat) : Nat :=
  let one := 2 ^ places
  let u := (z - one) * one / (z + one)
  let u2 := u * u / one
  let r := (List.range 110).foldl (fun (r : Nat × Nat) k => (r.1 * u2 / one, r.2 + r.1 / (2 * k + 1))) (u, 0)
  2 * r.2 * one / ln2
/-- A base-2 logarithm with the specials of R292. -/
def log2V (a : FVal) : FVal × Flags :=
  match a with
  | .nan => (.nan, {})
  | .inf s => if s then (.nan, { nv := true }) else (.inf false, {})
  | .fin s m e =>
    if m = 0 then (.inf true, { dz := true })
    else if s then (.nan, { nv := true })
    else
      let l := Nat.log2 m
      let n : Int := e + l
      if m = 2 ^ l then (.fin (decide (n < 0)) n.natAbs 0, {})
      else
        let x : Int := n * 2 ^ places + log2Frac (m * 2 ^ places / 2 ^ l)
        if 0 ≤ x then (sticky false x.natAbs true (-(places : Int)), {})
        else (.fin true (2 * x.natAbs - 1) (-(places : Int) - 1), {})

/-! ## Rounding (R133 to R136) -/

/-- The generator's next state (R134). -/
def nextSeed (s : Word) : Word :=
  let s := if s = 0#64 then 1#64 else s
  let s := s ^^^ (s <<< 13)
  let s := s ^^^ (s >>> 7)
  s ^^^ (s <<< 17)
/-- A magnitude rounded to a multiple of 2^q in a mode; `odd` says whether the lower neighbour is the one a tie avoids. The
multiple, whether it is inexact, and whether a draw was made. -/
def roundTo (mode : Nat) (neg : Bool) (m : Nat) (e q : Int) (r : Nat) (odd : Nat → Bool) : Nat × Bool × Bool :=
  if q ≤ e then (m * 2 ^ (e - q).toNat, false, false)
  else
    let d := 2 ^ (q - e).toNat
    let lo := m / d
    let rest := m % d
    if rest = 0 then (lo, false, false)
    else
      let up : Bool :=
        if mode = 0 then decide (d < 2 * rest) || (decide (2 * rest = d) && odd lo)
        else if mode = 1 then false
        else if mode = 2 then !neg
        else if mode = 3 then neg
        else decide (r < rest * 2 ^ 32 / d)
      (if up then lo + 1 else lo, true, mode = 4)
def isOdd (n : Nat) : Bool := n % 2 = 1
/-- The exponent of the leading place of m * 2^e, for m above zero. -/
def leadExp (m : Nat) (e : Int) : Int := e + Nat.log2 m
/-- Whether m * 2^e exceeds n * 2^f. -/
def above2 (m : Nat) (e : Int) (n : Nat) (f : Int) : Bool :=
  if m = 0 then false
  else if n = 0 then true
  else if leadExp m e ≠ leadExp n f then decide (leadExp n f < leadExp m e)
  else if e ≤ f then decide (n * 2 ^ (f - e).toNat < m) else decide (n < m * 2 ^ (e - f).toNat)
/-- The sign bit of a code. -/
def signBit (f : Nat) (neg : Bool) : Nat := if neg then 2 ^ (fmtWidth f - 1) else 0
/-- The code of a format's infinity or, without sat, of what stands for it; and of its largest magnitude (R136). -/
def infCode (f : Nat) (neg : Bool) : Nat :=
  let (eb, fb, _) := layoutOf f
  if f = 6 then 0x7F else signBit f neg + (2 ^ eb - 1) * 2 ^ fb
def maxCode (f : Nat) (neg : Bool) : Nat :=
  let (eb, fb, _) := layoutOf f
  if f = 6 then signBit f neg + 0x7E else if f = 5 then signBit f neg + 7
  else signBit f neg + (2 ^ eb - 2) * 2 ^ fb + (2 ^ fb - 1)
/-- Rounding to an integer format (R134, R136). -/
def roundInt (w mode : Nat) (seed : Word) (x : FVal) : Nat × Flags × Word :=
  let hi := 2 ^ (w - 1) - 1
  let lim (neg : Bool) := if neg then hi + 1 else hi
  let clamp (neg : Bool) : Nat := if neg then 2 ^ (w - 1) else hi
  match x with
  | .nan => (0, { nv := true }, seed)
  | .inf neg => (clamp neg, { nv := true, sat := true }, seed)
  | .fin neg m e =>
    if m = 0 then (0, {}, seed)
    else if (w : Int) + 2 < leadExp m e then (clamp neg, { nv := true, sat := true }, seed)
    else
      let mode' := if mode = 4 && above2 m e (lim neg) 0 then 0 else mode
      let s' := nextSeed seed
      let (q, inex, drew) := roundTo mode' neg m e 0 (field s' 32 32).toNat isOdd
      let seed' := if drew then s' else seed
      if lim neg < q then (clamp neg, { nv := true, sat := true }, seed')
      else ((if neg then (2 ^ w - q) % 2 ^ w else q), { nx := inex }, seed')
/-- Rounding to E8M0 (R136). In rsn a source below 2^-127, which has no lower neighbour of the format, draws between the powers of two
around it, as though exponents had no bound (DESIGN CHOICE, entry 86). -/
def roundE8 (mode : Nat) (sat : Bool) (seed : Word) (x : FVal) : Nat × Flags × Word :=
  match x with
  | .nan => (0xFF, {}, seed)
  | .inf neg => if neg then (0xFF, { nv := true }, seed) else (if sat then 0xFE else 0xFF, { of_ := true }, seed)
  | .fin neg m e =>
    if m = 0 || neg then (0xFF, { nv := true }, seed)
    else
      let lead := leadExp m e
      let mode' := if mode = 4 && above2 m e 1 127 then 0 else mode
      let s' := nextSeed seed
      let (q, inex, drew) := roundTo mode' false m e lead (field s' 32 32).toNat fun _ => decide ((lead + 127) % 2 = 1)
      let k := if q = 2 then lead + 1 else lead
      let seed' := if drew then s' else seed
      if 127 < k then (if sat then 0xFE else 0xFF, { of_ := true, nx := true }, seed')
      else if k < -127 then (0x00, { uf := true, nx := true }, seed')
      else ((k + 127).toNat, { nx := inex }, seed')
/-- Rounding to a format with a sign, an exponent and a fraction (R133 to R136). -/
def roundFloat (f mode : Nat) (sat : Bool) (seed : Word) (x : FVal) : Nat × Flags × Word :=
  let (_, fb, bias) := layoutOf f
  match x with
  | .nan => if f = 5 then (0, { nv := true }, seed) else (canonNan f, {}, seed)
  | .inf neg =>
    if hasInf f then (infCode f neg, {}, seed)
    else if f = 6 then (if sat then maxCode f neg else 0x7F, { of_ := true }, seed)
    else (maxCode f neg, { of_ := true }, seed)
  | .fin neg m e =>
    if m = 0 then (if f = 5 then 0 else signBit f neg, {}, seed)
    else
      let mx := maxOf f
      let mode' := if mode = 4 && above2 m e mx.1 mx.2 then 0 else mode
      let s' := nextSeed seed
      let qe := max (leadExp m e) (1 - bias) - fb
      let (q, inex, drew) := roundTo mode' neg m e qe (field s' 32 32).toNat isOdd
      let seed' := if drew then s' else seed
      let (q, qe) := if 2 ^ (fb + 1) ≤ q then (q / 2, qe + 1) else (q, qe)
      if above2 q qe mx.1 mx.2 then
        let big := sat || mode' = 1 || (mode' = 2 && neg) || (mode' = 3 && !neg) || f = 5
        (if big then maxCode f neg else infCode f neg, { of_ := true, nx := true }, seed')
      else if q < 2 ^ fb then
        (if q = 0 && f = 5 then 0 else signBit f neg + q, { nx := inex, uf := inex }, seed')
      else (signBit f neg + (qe + fb + bias).toNat * 2 ^ fb + (q - 2 ^ fb), { nx := inex }, seed')
/-- RoundFP (R133 to R136, R221), to any format of R68: the code, the flags, and the generator's state after. -/
def roundFP (f mode : Nat) (sat : Bool) (seed : Word) (x : FVal) : Nat × Flags × Word :=
  if isInt f then roundInt (fmtWidth f) mode seed x
  else if f = 12 then roundE8 mode sat seed x
  else roundFloat f mode sat seed x
/-- Values rounded one after another, in ascending index (R134). -/
def roundList (f mode : Nat) (sat : Bool) : Word → List FVal → List Nat × Flags × Word
  | seed, [] => ([], {}, seed)
  | seed, x :: t =>
    let (c, fl, seed) := roundFP f mode sat seed x
    let (cs, fs, seed) := roundList f mode sat seed t
    (c :: cs, fl.or fs, seed)

end Sys2Proof.Machine
end

