-- ==== Sys2Proof/Machine/Vector.lean ====
section
/-! DEFINITION. Vector instructions: arithmetic, comparison, selection, logic, shifts, conversion, reduction, top-k, moving
elements (R285 to R301). The fields a body sees are those of the word with a pending prefix laid over them (R288). -/
namespace Sys2Proof.Machine

/-! ## What the instructions share (R133, R286, R289) -/

/-- ActiveRM (R133). -/
def activeRM (c : Ctx) : Nat := if stPP c.status && pfxRM c.pfx ≠ 5 then pfxRM c.pfx else stRM c.status
/-- A lane whose result fails its residue check (R405, R406): counted, and MEM_UE with CAUSE 6. -/
def laneFails (s : State) (lane : Nat) : State :=
  let cid := cidOf s.cur
  memUE (modDie s (dieOf cid) fun y => { y with lane := satInc y.lane }) (consumerOf s s.cur 0) (dieOf cid) cid
    { code := cMEM_UE, cause := 6, aux0 := BitVec.ofNat 64 lane, aux1 := BitVec.ofNat 64 (cid + idxOf s.cur * 2 ^ 16) }
/-- The bits that a logical lane gets wrong: those of the faults of the physical lane that carries it. -/
def laneWrong (s : State) (es : List (Nat × Word)) (i : Nat) : BitVec 32 :=
  es.foldl (fun a e => if e.1 = physLane s s.cur i then a ^^^ field e.2 0 32 else a) 0
/-- The residue check of a lane (R406): the result as computed against the residue modulo 3 that its operands give. -/
def residueFails (right wrong : BitVec 32) : Bool := right.toNat % 3 ≠ (right ^^^ wrong).toNat % 3
/-- A result as the lanes compute it (R406): logical lane `i` computes bits 32i to 32i + 31, and of a scalar result, 64 bits wide, lanes
0 and 1 compute all (entry 81). A wrong result whose residue is right is not found; a lane that no logical lane uses computes nothing. -/
def laneCheck (s : State) (lanes : Nat) (v : Line) : State × Line :=
  match (getCore s s.cur).laneErr with
  | [] => (s, v)
  | es =>
    let at_ (i : Nat) : BitVec 32 := v.extractLsb' (32 * i) 32
    let idle (e : Nat × Word) : Bool := (List.range lanes).all fun i => e.1 ≠ physLane s s.cur i
    let out := (List.range lanes).foldl (fun a i => a ^^^ ((laneWrong s es i).setWidth 1024) <<< (32 * i)) v
    let fails := (List.range lanes).filter fun i => residueFails (at_ i) (laneWrong s es i)
    (fails.foldl laneFails (modCore s s.cur fun k => { k with laneErr := es.filter idle }), out)
/-- A result delivered with the instruction's latency. -/
def vecPut (s : State) (op : Nat) (f : FmtV) (v : Line) : State :=
  let (s, v) := laneCheck s 32 v
  writeV s f.d v (latOf op (.v f)) (ilkOf op (.v f))
/-- The fields of the word that issues, with the prefix laid over them. -/
def vEff (s : State) (f : FmtV) : FmtV := effV (ctxOf s) f
/-- A vector instruction: it waits for the heads and tails it names, reads its vector sources in order, and acts (R286). -/
def vecOp (f : FmtV) (srcs : FmtV → List (BitVec 6)) (dst : Bool) (go : FmtV → State → List Line → State) : Body := seqBody fun s =>
  let e := vEff s f
  if !(vecReady s (srcs e) (if dst then some e.d else none)) then .error (.wait s)
  else
    let (s, vs) := (srcs e).foldl (fun (r : State × List Line) x =>
      let (s, v) := readV r.1 x
      (s, r.2 ++ [v])) (s, [])
    .ok (go e s vs)
def srcA (f : FmtV) : List (BitVec 6) := [f.a]
def srcAB (f : FmtV) : List (BitVec 6) := [f.a, f.b]
def srcABC (f : FmtV) : List (BitVec 6) := [f.a, f.b, f.c]
def srcNone (_ : FmtV) : List (BitVec 6) := []
/-- The elements of source a, modified (R76), and of the others. -/
def vecA (f : FmtV) (w : Nat) (vs : List Line) : List Nat := modLanes f.amod (elems w (vs.getD 0 0))
def vecN (w : Nat) (vs : List Line) (i : Nat) : List Nat := elems w (vs.getD i 0)
/-- Exact results rounded to the element format in ascending index, with flags and draws (R289, R291). -/
def putRounded (s : State) (op : Nat) (f : FmtV) (rs : List (FVal × Flags)) : State :=
  let c := ctxOf s
  let (codes, fl, seed) := roundList f.fmt.toNat (activeRM c) (f.sat = 1#1) c.seed (rs.map (·.1))
  let s := orFlags (modCtx s fun c => { c with seed := seed }) (fl.or (allFlags (rs.map (·.2))))
  vecPut s op f (ofElems (fmtWidth f.fmt.toNat) codes)
/-- Integer results, wrapped or saturated (R289, R294). -/
def putInts (s : State) (op : Nat) (f : FmtV) (sat : Bool) (rs : List Int) : State :=
  let w := fmtWidth f.fmt.toNat
  let qs := rs.map (satOrWrap w sat)
  vecPut (orFlags s (allFlags (qs.map (·.2)))) op f (ofElems w (qs.map (·.1)))
/-- Results that are bits, copied exactly (R289). -/
def putBits (s : State) (op : Nat) (f : FmtV) (w : Nat) (rs : List Nat) : State := vecPut s op f (ofElems w rs)

/-! ## Element-wise arithmetic (R291 to R294) -/

/-- Elements of three lists side by side; missing ones are zero. -/
def rows3 (a b c : List Nat) : List (Nat × Nat × Nat) := a.zipIdx.map fun x => (x.1, b.getD x.2 0, c.getD x.2 0)
/-- An arithmetic instruction: the exact result on values and the exact result on integers; `sats` when SAT may clamp. -/
def arithOp (op : Nat) (f : FmtV) (srcs : FmtV → List (BitVec 6)) (fl : Bool → FVal → FVal → FVal → FVal × Flags)
    (int : Int → Int → Int) (sats : Bool) : Body :=
  vecOp f srcs true fun f s vs =>
    let w := fmtWidth f.fmt.toNat
    let ts := rows3 (vecA f w vs) (vecN w vs 1) (vecN w vs 2)
    if isInt f.fmt.toNat then putInts s op f (sats && f.sat = 1#1) (ts.map fun t => int (sgn w t.1) (sgn w t.2.1))
    else
      let d := decodeElem f.fmt.toNat
      putRounded s op f (ts.map fun t => fl (activeRM (ctxOf s) = 3) (d t.1) (d t.2.1) (d t.2.2))
def noInt (_ _ : Int) : Int := 0
def plain (v : FVal) : FVal × Flags := (v, {})
def addF (rdn : Bool) (a b _ : FVal) : FVal × Flags := sumV [(a, false), (b, false)] rdn
def subF (rdn : Bool) (a b _ : FVal) : FVal × Flags := sumV [(a, false), (negV b, false)] rdn
def mulF (_ : Bool) (a b _ : FVal) : FVal × Flags :=
  let p := mulV a b
  (p.1, { nv := p.2 })
def fmaF (rdn : Bool) (a b c : FVal) : FVal × Flags := sumV [mulV a b, (c, false)] rdn
def fmsF (rdn : Bool) (a b c : FVal) : FVal × Flags := sumV [mulV a b, (negV c, false)] rdn
def divF (_ : Bool) (a b _ : FVal) : FVal × Flags := divV a b
def sqrtF (_ : Bool) (a _ _ : FVal) : FVal × Flags := sqrtV a
def rcpF (_ : Bool) (a _ _ : FVal) : FVal × Flags := divV (.fin false 1 0) a
def rsqF (_ : Bool) (a _ _ : FVal) : FVal × Flags := rsqV a
def exp2F (_ : Bool) (a _ _ : FVal) : FVal × Flags := plain (exp2V a)
def log2F (_ : Bool) (a _ _ : FVal) : FVal × Flags := log2V a
def minF (_ : Bool) (a b _ : FVal) : FVal × Flags := plain (minV a b)
def maxF (_ : Bool) (a b _ : FVal) : FVal × Flags := plain (maxV a b)
def absF (_ : Bool) (a _ _ : FVal) : FVal × Flags := plain (absV a)
def negF (_ : Bool) (a _ _ : FVal) : FVal × Flags := plain (negV a)

def execVadd (f : FmtV) (s : State) : Host.Outcome State Fault Refusal :=
  issue 0x1A0 (.v f) (arithOp 0x1A0 f srcAB addF (fun a b => a + b) true) s
def execVsub (f : FmtV) (s : State) : Host.Outcome State Fault Refusal :=
  issue 0x1A1 (.v f) (arithOp 0x1A1 f srcAB subF (fun a b => a - b) true) s
def execVmul (f : FmtV) (s : State) : Host.Outcome State Fault Refusal :=
  issue 0x1A2 (.v f) (arithOp 0x1A2 f srcAB mulF (fun a b => a * b) true) s
def execVfma (f : FmtV) (s : State) : Host.Outcome State Fault Refusal :=
  issue 0x1A3 (.v f) (arithOp 0x1A3 f srcABC fmaF noInt false) s
def execVfms (f : FmtV) (s : State) : Host.Outcome State Fault Refusal :=
  issue 0x1A4 (.v f) (arithOp 0x1A4 f srcABC fmsF noInt false) s
def execVdiv (f : FmtV) (s : State) : Host.Outcome State Fault Refusal :=
  issue 0x1A5 (.v f) (arithOp 0x1A5 f srcAB divF noInt false) s
def execVsqrt (f : FmtV) (s : State) : Host.Outcome State Fault Refusal :=
  issue 0x1A6 (.v f) (arithOp 0x1A6 f srcA sqrtF noInt false) s
def execVrcp (f : FmtV) (s : State) : Host.Outcome State Fault Refusal :=
  issue 0x1A7 (.v f) (arithOp 0x1A7 f srcA rcpF noInt false) s
def execVrsq (f : FmtV) (s : State) : Host.Outcome State Fault Refusal :=
  issue 0x1A8 (.v f) (arithOp 0x1A8 f srcA rsqF noInt false) s
def execVexp2 (f : FmtV) (s : State) : Host.Outcome State Fault Refusal :=
  issue 0x1A9 (.v f) (arithOp 0x1A9 f srcA exp2F noInt false) s
def execVlog2 (f : FmtV) (s : State) : Host.Outcome State Fault Refusal :=
  issue 0x1AA (.v f) (arithOp 0x1AA f srcA log2F noInt false) s
def execVmin (f : FmtV) (s : State) : Host.Outcome State Fault Refusal :=
  issue 0x1AB (.v f) (arithOp 0x1AB f srcAB minF (fun a b => if a ≤ b then a else b) false) s
def execVmax (f : FmtV) (s : State) : Host.Outcome State Fault Refusal :=
  issue 0x1AC (.v f) (arithOp 0x1AC f srcAB maxF (fun a b => if a ≤ b then b else a) false) s
def execVabs (f : FmtV) (s : State) : Host.Outcome State Fault Refusal :=
  issue 0x1AD (.v f) (arithOp 0x1AD f srcA absF (fun a _ => a.natAbs) true) s
def execVneg (f : FmtV) (s : State) : Host.Outcome State Fault Refusal :=
  issue 0x1AE (.v f) (arithOp 0x1AE f srcA negF (fun a _ => -a) true) s

/-! ## Comparison, selection, logic and shifts (R295, R296) -/

/-- The condition of vcmp on values. -/
def cmpFloat (c : Nat) (a b : FVal) : Bool :=
  let un := isNan a || isNan b
  let d := cmpV a b
  if c = 0 then !un && d = 0
  else if c = 1 then un || d ≠ 0
  else if c = 2 then !un && d < 0
  else if c = 3 then !un && 0 ≤ d
  else if c = 4 then !un && d ≤ 0
  else if c = 5 then !un && 0 < d
  else if c = 6 then un
  else !un
/-- The condition of vcmp on integers of `w` bits. -/
def cmpInt (c w a b : Nat) : Bool :=
  if c = 0 then a = b
  else if c = 1 then a ≠ b
  else if c = 2 then sgn w a < sgn w b
  else if c = 3 then sgn w b ≤ sgn w a
  else if c = 4 then sgn w a ≤ sgn w b
  else if c = 5 then sgn w b < sgn w a
  else if c = 6 then a < b
  else b ≤ a
def execVcmp (f : FmtV) (s : State) : Host.Outcome State Fault Refusal :=
  issue 0x1AF (.v f) (vecOp f srcAB true fun f s vs =>
    let w := fmtWidth f.fmt.toNat
    let c := f.sub.toNat
    let d := decodeElem f.fmt.toNat
    putBits s 0x1AF f w ((rows3 (vecA f w vs) (vecN w vs 1) []).map fun t =>
      if (if isInt f.fmt.toNat then cmpInt c w t.1 t.2.1 else cmpFloat c (d t.1) (d t.2.1)) then 2 ^ w - 1 else 0)) s
/-- An instruction on the bits of the elements of its sources. -/
def bitsOp (op : Nat) (f : FmtV) (srcs : FmtV → List (BitVec 6)) (g : Nat → Nat → Nat → Nat → Nat) : Body :=
  vecOp f srcs true fun f s vs =>
    let w := fmtWidth f.fmt.toNat
    putBits s op f w ((rows3 (vecA f w vs) (vecN w vs 1) (vecN w vs 2)).map fun t => g w t.1 t.2.1 t.2.2)
def execVsel (f : FmtV) (s : State) : Host.Outcome State Fault Refusal :=
  issue 0x1B0 (.v f) (bitsOp 0x1B0 f srcABC fun _ a b c => if a ≠ 0 then b else c) s
def execVand (f : FmtV) (s : State) : Host.Outcome State Fault Refusal :=
  issue 0x1B1 (.v f) (bitsOp 0x1B1 f srcAB fun _ a b _ => a &&& b) s
def execVor (f : FmtV) (s : State) : Host.Outcome State Fault Refusal :=
  issue 0x1B2 (.v f) (bitsOp 0x1B2 f srcAB fun _ a b _ => a ||| b) s
def execVxor (f : FmtV) (s : State) : Host.Outcome State Fault Refusal :=
  issue 0x1B3 (.v f) (bitsOp 0x1B3 f srcAB fun _ a b _ => a ^^^ b) s
def execVshl (f : FmtV) (s : State) : Host.Outcome State Fault Refusal :=
  issue 0x1B4 (.v f) (bitsOp 0x1B4 f srcAB fun w a b _ => a * 2 ^ (b % w) % 2 ^ w) s
def execVshr (f : FmtV) (s : State) : Host.Outcome State Fault Refusal :=
  issue 0x1B5 (.v f) (bitsOp 0x1B5 f srcAB fun w a b _ => a / 2 ^ (b % w)) s
def execVsar (f : FmtV) (s : State) : Host.Outcome State Fault Refusal :=
  issue 0x1B6 (.v f) (bitsOp 0x1B6 f srcAB fun w a b _ => wrapInt w (sgn w a / (2 ^ (b % w) : Nat))) s

/-! ## Conversion (R297, R298) -/

/-- Elements converted from one format to another, in ascending index. -/
def convertList (fs fd mode : Nat) (sat : Bool) (seed : Word) (l : List Nat) : List Nat × Flags × Word :=
  if isInt fs && isInt fd then
    let qs := l.map fun x => satOrWrap (fmtWidth fd) (sat && fmtWidth fd < fmtWidth fs) (sgn (fmtWidth fs) x)
    (qs.map (·.1), allFlags (qs.map (·.2)), seed)
  else roundList fd mode sat seed (l.map (decodeElem fs))
/-- A list with the elements from `o` replaced by those of another. -/
def splice (l : List Nat) (o : Nat) (r : List Nat) : List Nat := l.take o ++ r ++ l.drop (o + r.length)
def execVcvt (f : FmtV) (s : State) : Host.Outcome State Fault Refusal :=
  issue 0x1B7 (.v f) (vecOp f srcA true fun f s vs =>
    let ws := fmtWidth f.fmt.toNat
    let wd := fmtWidth f.fmt2.toNat
    let n := 1024 / max ws wd
    let p := f.sub.toNat
    let a := vecA f ws vs
    let src := if ws < wd then (a.drop (p * n)).take n else a.take n
    let c := ctxOf s
    let (codes, fl, seed) := convertList f.fmt.toNat f.fmt2.toNat (activeRM c) (f.sat = 1#1) c.seed src
    let s := orFlags (modCtx s fun c => { c with seed := seed }) fl
    if wd < ws then
      let old := if f.d.toNat < 16 then (readV s f.d).2 else 0
      vecPut s 0x1B7 f (ofElems wd (splice (elems wd old) (p * n) codes))
    else vecPut s 0x1B7 f (ofElems wd codes)) s

/-! ## Reduction and scan (R299) -/

/-- The result of an operation over elements, exact, for a floating format. -/
def foldFloat (c : Nat) (rdn : Bool) (l : List FVal) : FVal × Flags :=
  if c = 0 then sumV (l.map fun x => (x, false)) rdn
  else
    match l with
    | [] => (.nan, {})
    | x :: t => (t.foldl (if c = 1 then minV else maxV) (if isNan x then .nan else x), {})
/-- The result of an operation over elements of `w` bits, exact, for an integer format. -/
def foldInts (c w : Nat) (l : List Nat) : Int :=
  match l with
  | [] => 0
  | x :: t =>
    if c = 0 then (l.map (sgn w)).foldl (· + ·) 0
    else if c = 1 then (t.map (sgn w)).foldl min (sgn w x)
    else if c = 2 then (t.map (sgn w)).foldl max (sgn w x)
    else if c = 3 then (t.foldl (· &&& ·) x : Nat)
    else if c = 4 then (t.foldl (· ||| ·) x : Nat)
    else (t.foldl (· ^^^ ·) x : Nat)
/-- The results over lists of elements; `.sat` clamps an integer sum alone. -/
def foldOp (op : Nat) (f : FmtV) (take : List Nat → List (List Nat)) : Body :=
  vecOp f srcA true fun f s vs =>
    let w := fmtWidth f.fmt.toNat
    let c := f.sub.toNat
    let ls := take (vecA f w vs)
    if isInt f.fmt.toNat then putInts s op f (f.sat = 1#1 && c = 0) (ls.map (foldInts c w))
    else putRounded s op f (ls.map fun l => foldFloat c (activeRM (ctxOf s) = 3) (l.map (decodeElem f.fmt.toNat)))
def execVred (f : FmtV) (s : State) : Host.Outcome State Fault Refusal :=
  issue 0x1B8 (.v f) (foldOp 0x1B8 f fun l => [l]) s
def execVscan (f : FmtV) (s : State) : Host.Outcome State Fault Refusal :=
  issue 0x1B9 (.v f) (foldOp 0x1B9 f fun l => (List.range l.length).map fun i => l.take (i + 1)) s

/-! ## Top-k (R300) -/

/-- Whether one key ranks no later than another; ties keep their order. -/
def ranks (asc : Bool) (a b : FVal) : Bool :=
  if isNan b then true else if isNan a then false else if asc then cmpV a b ≤ 0 else 0 ≤ cmpV a b
def execVtopk (f : FmtV) (s : State) : Host.Outcome State Fault Refusal :=
  issue 0x1BA (.v f) (vecOp f srcAB true fun f s vs =>
    let w := fmtWidth f.fmt.toNat
    let n := 1024 / w
    let d := decodeElem f.fmt.toNat
    let ps := (rows3 (vecA f w vs) (vecN w vs 1) []).mergeSort fun x y => ranks (bit f.sub 0) (d x.1) (d y.1)
    let best := ps.take (n / 2)
    putBits s 0x1BA f w (best.map (·.1) ++ best.map (·.2.1))) s

/-! ## Moving elements (R301) -/

def execVidx (f : FmtV) (s : State) : Host.Outcome State Fault Refusal :=
  issue 0x1BB (.v f) (vecOp f srcNone true fun f s _ =>
    let w := fmtWidth f.fmt.toNat
    putBits s 0x1BB f w ((List.range (1024 / w)).map fun i => ((readS s f.a).toNat + i) % 2 ^ w)) s
def execVmov (f : FmtV) (s : State) : Host.Outcome State Fault Refusal :=
  issue 0x1BC (.v f) (bitsOp 0x1BC f srcA fun _ a _ _ => a) s
def execVbcast (f : FmtV) (s : State) : Host.Outcome State Fault Refusal :=
  issue 0x1BD (.v f) (vecOp f srcNone true fun f s _ =>
    let w := fmtWidth f.fmt.toNat
    putBits s 0x1BD f w (List.replicate (1024 / w) ((readS s f.a).toNat % 2 ^ w))) s
def execVins (f : FmtV) (s : State) : Host.Outcome State Fault Refusal :=
  issue 0x1BE (.v f) (vecOp f srcNone true fun f s _ =>
    let w := fmtWidth f.fmt.toNat
    let old := if f.d.toNat < 16 then (readV s f.d).2 else 0
    let i := (readS s f.b).toNat % (1024 / w)
    putBits s 0x1BE f w (setNth (elems w old) i ((readS s f.a).toNat % 2 ^ w))) s
def execVext (f : FmtV) (s : State) : Host.Outcome State Fault Refusal :=
  issue 0x1BF (.v f) (vecOp f srcA false fun f s vs =>
    let w := fmtWidth f.fmt.toNat
    let i := (readS s f.b).toNat % (1024 / w)
    let (s, v) := laneCheck s 2 (BitVec.ofNat 1024 ((vecA f w vs).getD i 0))
    writeSLat s f.d (v.setWidth 64) (latOf 0x1BF (.v f)) false) s

end Sys2Proof.Machine
end

