-- ==== Sys2Proof/Machine/Matrix.lean ====
section
/-! DEFINITION. Matrix passes, tile shapes, accumulators, scale side-buffers and sclsend (R116, R137 to R148, R302 to R309). -/
namespace Sys2Proof.Machine

/-! ## Tile registers (R115, R302) -/

def shapeBad (v : BitVec 32) : Bool :=
  shRows v = 0 || 64 < shRows v || shCols v = 0 || 12 < shFmt v || 768 < shCols v * fmtWidth (shFmt v)
/-- An X-format effect on the tile, once no leaf reset is to come or runs. -/
def tileStep (g : State → Nat → Tile → Res State) : Body := seqBody fun s =>
  let t := tileOfCore s.cur
  let x := getTile s t
  if resetWait x then .error (.wait s) else g s t x
def execTshape (f : FmtX) (s : State) : Host.Outcome State Fault Refusal :=
  issue 0x1E0 (.x f) (tileStep fun s t x =>
    let v := field (readS s f.a) 0 32
    if shapeBad v then raise s cSHAPE_INVALID
    else .ok (setTile s t { x with shapes := writeOne 0x00406001#32 x.shapes f.ta.toNat (v &&& 0x00FFFF0F#32) })) s
def execTzero (f : FmtX) (s : State) : Host.Outcome State Fault Refusal :=
  issue 0x1E1 (.x f) (tileStep fun s t x =>
    .ok (setTile s t { x with rows := writeRun 0 x.rows (64 * f.ta.toNat) (List.replicate 64 0) })) s

/-! ## Scales (R139, R140) -/

def entryOf (x : Tile) (k r b : Nat) : BitVec 16 := look 0 x.entries (256 * k + 4 * r + b)
/-- SST (R140). -/
def sstOf (x : Tile) (k : Nat) : Nat := (sideOf x k).epoch.toNat * 256 + (if sideReady x k then 128 else 0) + (sideOf x k).stale
/-- The value of an element of a block-scaled operand (R139). -/
def scaled (fmt code : Nat) (e : BitVec 16) : FVal :=
  let sc := e.toNat % 256
  if sc = 255 then .nan
  else (mulV (if fmt = 5 && code % 16 = 8 then decodeElem 6 (e.toNat / 256) else decodeElem fmt code) (.fin false 1 ((sc : Nat) - 127))).1

/-! ## Passes (R144 to R147, R303, R304) -/

/-- The width of a pass (R144). -/
def passWidth (fa : Nat) : Nat := if fa = 5 then 192 else if fa = 8 || fa = 9 then 48 else 96
/-- The values of one row of an operand of a started pass. -/
def rowValues (fmt km : Nat) (ss : Bool) (row : Row) (scales : List (BitVec 16)) : List FVal :=
  let w := fmtWidth fmt
  (List.range km).map fun k =>
    let code := row.toNat / 2 ^ (w * k) % 2 ^ w
    if ss then scaled fmt code (scales.getD (k / 48) 0) else decodeElem fmt code
/-- One accumulator element after a pass (R145 to R147). -/
def passElem (fd : Nat) (satf : Bool) (acc : BitVec 32) (a b : List FVal) : BitVec 32 × Flags :=
  let ps := a.zipWith mulV b
  if fd = 3 then
    let r := satN 32 (sgn 32 acc.toNat + sumAt 0 (ps.map (·.1)))
    (BitVec.ofNat 32 (wrapInt 32 r.1), { sat := r.2 })
  else
    let (v, fl) := sumV ((decodeElem 10 acc.toNat, false) :: ps) false
    let (c, fl2, _) := roundFP 10 0 satf 0 v
    (BitVec.ofNat 32 c, fl.or fl2)
/-- The accumulator and flags after a pass that was taken at its start. -/
def passResult (acc : NMap (BitVec 32)) (r : Running) : NMap (BitVec 32) × Flags :=
  let p := r.pass
  let fa := pfxFA p.pfx
  let fb := pfxFB p.pfx
  let ss := pfxSS p.pfx = 1
  let km := min (passWidth fa) (min r.colsA r.colsB)
  let as_ := (List.range r.rowsA).map fun i => rowValues fa km ss (r.a.getD i 0) ((r.scaleA.drop (4 * i)).take 4)
  let bs := (List.range r.rowsB).map fun j => rowValues fb km ss (r.b.getD j 0) ((r.scaleB.drop (4 * j)).take 4)
  as_.zipIdx.foldl (fun out x =>
    let row := bs.zipIdx.map fun y =>
      passElem (pfxFD p.pfx) (pfxSat p.pfx) (look 0 acc (4096 * p.acc + 64 * x.2 + y.2)) x.1 y.1
    (writeRun 0 out.1 (4096 * p.acc + 64 * x.2) (row.map (·.1)), out.2.or (allFlags (row.map (·.2))))) (acc, {})
/-- A pass that starts takes its operands, and its scales where it uses them, in one step (R142, R303). -/
def startPass (x : Tile) (p : Pass) (now : Nat) : Running :=
  let rows (k : Nat) : List Row := (List.range 64).map fun r => rowOf x k r
  let scales (k : Nat) : List (BitVec 16) := (List.range 256).map fun i => look 0 x.entries (256 * k + i)
  { pass := p
    started := now
    rowsA := shRows (shapeOf x p.ta)
    rowsB := shRows (shapeOf x p.tb)
    colsA := shCols (shapeOf x p.ta)
    colsB := shCols (shapeOf x p.tb)
    a := rows p.ta
    b := rows p.tb
    scaleA := if pfxSS p.pfx = 1 then scales p.ta else []
    scaleB := if pfxSS p.pfx = 1 then scales p.tb else [] }
/-- The waiting pass starts once the running pass has left the unit, 96 cycles after its own start, and its scales are ready. -/
def passStart (s : State) (t : Nat) : State :=
  let x := getTile s t
  let now := cycOfCl s (t / 4)
  match x.waiting with
  | none => s
  | some p =>
    if x.running.all (fun r => r.started + 96 ≤ now) && !scalesMissing x p then
      setTile s t { x with waiting := none, running := x.running ++ [startPass x p now] }
    else s
def execPassStart (t : Nat) (s : State) : Host.Outcome State Fault Refusal := .next (passStart s t)
/-- `mma` (R303, R304): it takes the waiting place, and its pass starts at once where the unit is free. A task with a pass whose
scales never become ready ends in TASK_OVERRUN: its next mma, and its end, wait for the pass (R142; DEDUCED, entry 71). -/
def execMma (f : FmtX) (s : State) : Host.Outcome State Fault Refusal :=
  issue 0x1E2 (.x f) (tileStep fun s t x =>
    match x.waiting with
    | some _ => .error (.wait s)
    | none =>
      let p : Pass :=
        { acc := f.acc.toNat, ta := f.ta.toNat, tb := f.tb.toNat, pfx := (ctxOf s).pfx, owner := (taskOf s).handle,
          slot := (taskOf s).slot, id := (taskOf s).det.id }
      .ok (passStart (setTile s t { x with waiting := some p }) t)) s
/-- Flags raised for the task a handle names, running or parked on a core; a task that has ended shows none. -/
def flagsTo (s : State) (c : Nat) (h : BitVec 32) (fl : Flags) : State :=
  let up (t : Task) : Task := if t.handle = h then { t with ctx := { t.ctx with status := t.ctx.status ||| flagBits fl } } else t
  modCore s c fun k => { k with run := k.run.map up, parked := k.parked.map up }
/-- The oldest started pass delivers 100 cycles after its start (R304). -/
def passDeliver (s : State) (t : Nat) : State :=
  let x := getTile s t
  let now := cycOfCl s (t / 4)
  match x.running with
  | [] => s
  | r :: rest =>
    if now < r.started + 100 then s
    else
      let (acc, fl) := passResult x.acc r
      let s := setTile s t { x with acc := acc, running := rest }
      flagsTo s (coreNo (t / 4) (4 + t % 4)) r.pass.owner fl
def execPassDeliver (t : Nat) (s : State) : Host.Outcome State Fault Refusal := .next (passDeliver s t)

/-! ## Accumulators (R305, R306) -/

/-- Whether a pass into an accumulator has yet to deliver. -/
def accBusy (x : Tile) (n : Nat) : Bool :=
  (match x.waiting with
   | some p => p.acc = n
   | none => false) || x.running.any fun r => r.pass.acc = n
def accStep (f : FmtX) (srcs : List (BitVec 6)) (dst : Option (BitVec 6)) (g : State → Nat → Tile → Res State) : Body :=
  tileStep fun s t x => if accBusy x f.acc.toNat || !(vecReady s srcs dst) then .error (.wait s) else g s t x
/-- Where half-row `x` of an accumulator begins. -/
def halfRow (n x : Nat) : Nat := 4096 * n + 64 * (x / 2) + 32 * (x % 2)
def halfElems (x : Tile) (n i : Nat) : List (BitVec 32) := (List.range 32).map fun j => look 0 x.acc (halfRow n i + j)
def execAcczero (f : FmtX) (s : State) : Host.Outcome State Fault Refusal :=
  issue 0x1E3 (.x f) (accStep f [] none fun s t x =>
    .ok (setTile s t { x with acc := writeRun 0 x.acc (4096 * f.acc.toNat) (List.replicate 4096 0) })) s
/-- The index of a half-row: an immediate, or bits [6:0] of a register. -/
def accIndex (s : State) (f : FmtX) (r : BitVec 6) : Nat := if f.sub = 1#4 then (field (readS s r) 0 7).toNat else f.imm8.toNat
def execAccrd (f : FmtX) (s : State) : Host.Outcome State Fault Refusal :=
  issue 0x1E4 (.x f) (accStep f [] (some f.d) fun s _ x =>
    .ok (writeV s f.d (ofElems 32 ((halfElems x f.acc.toNat (accIndex s f f.a)).map fun e => e.toNat)) (latOf 0x1E4 (.x f)) true)) s
def execAccwr (f : FmtX) (s : State) : Host.Outcome State Fault Refusal :=
  issue 0x1E5 (.x f) (accStep f [f.a] none fun s t _ =>
    let (s, v) := readV s f.a
    let i := accIndex s f f.d
    .ok (modTile s t fun x => { x with acc := writeRun 0 x.acc (halfRow f.acc.toNat i) ((elems 32 v).map (BitVec.ofNat 32)) })) s
def execAccepi (f : FmtX) (s : State) : Host.Outcome State Fault Refusal :=
  issue 0x1E6 (.x f) (accStep f [] (some f.d) fun s _ x =>
    let c := ctxOf s
    let fd := pfxFD c.pfx
    let alpha := decodeElem 10 (field (readS s f.a) 0 32).toNat
    let ps := (halfElems x f.acc.toNat f.imm8.toNat).map fun e => mulV alpha (decodeElem (pfxFA c.pfx) e.toNat)
    let (codes, fl, seed) := roundList fd (activeRM c) (pfxSat c.pfx) c.seed (ps.map (·.1))
    let s := orFlags (modCtx s fun c => { c with seed := seed }) (fl.or { nv := ps.any (·.2) })
    .ok (writeV s f.d (ofElems (fmtWidth fd) codes) (latOf 0x1E6 (.x f)) true)) s

/-! ## Scale readiness and sclsend (R142, R307, R309) -/

def execSclwait (f : FmtX) (s : State) : Host.Outcome State Fault Refusal :=
  issue 0x1E7 (.x f) (tileStep fun s _ x =>
    let k := f.ta.toNat
    let d := ((sideOf x k).epoch.toNat + 256 - f.imm8.toNat) % 256
    if (d = 0 && sideReady x k) || (1 ≤ d && d ≤ 127) then .ok (writeS s f.d (BitVec.ofNat 64 (sstOf x k))) else .error (.wait s)) s
/-- The fields of a scale parcel's control word (R141): register, first row, rows, first entry, entries per row. -/
structure SclCtl where
  epoch : Nat
  treg : Nat
  row0 : Nat
  nrows : Nat
  blk0 : Nat
  nb : Nat
deriving DecidableEq, Repr, Inhabited
def sclCtl (w : Word) : SclCtl :=
  { epoch := (field w 56 8).toNat, treg := (field w 53 3).toNat, row0 := (field w 47 6).toNat, nrows := (field w 40 7).toNat,
    blk0 := (field w 38 2).toNat, nb := (field w 36 2).toNat + 1 }
/-- A scale parcel acts on its side-buffer, as one step. -/
def applyScale (x : Tile) (p : Parcel) : Tile :=
  let q := sclCtl (p.payload.headD 0)
  let z := sideOf x q.treg
  let d := (q.epoch + 256 - z.epoch.toNat) % 256
  if 128 ≤ d then { x with sides := put x.sides q.treg { z with stale := min 127 (z.stale + 1) } }
  else
    let bs := (p.payload.drop 1).flatMap fun w => bytesOf 8 w
    let places := (List.range q.nrows).flatMap fun i => (List.range q.nb).map fun j => (i, j)
    let at_ (i j : Nat) : Nat := 4 * (q.row0 + i) + q.blk0 + j
    let fill : BitVec 256 := places.foldl (fun m ij => m ||| BitVec.ofNat 256 (2 ^ at_ ij.1 ij.2)) (if d = 0 then z.fill else 0)
    { x with
      entries := places.zipIdx.foldl (fun m e =>
        writeOne 0 m (256 * q.treg + at_ e.1.1 e.1.2) (ofBytes 16 ((bs.drop (2 * e.2)).take 2))) x.entries
      sides := put x.sides q.treg { z with epoch := BitVec.ofNat 8 q.epoch, fill := fill } }
/-- A leaf reset ends in its cycle: the scale parcels that waited apply in arrival order (R116, R141). -/
def resetEnds (s : State) (t : Nat) : State :=
  let x := getTile s t
  match x.resetEnd with
  | none => s
  | some e =>
    if cycOfCl s (t / 4) < e then s else setTile s t (x.scaleWait.foldl applyScale { x with resetEnd := none, scaleWait := [] })
/-- Reserved store-queue entries whose instruction completes by now are filled, each queue in order of issue (R286). -/
def fillPushes (now : Nat) (x : Tile) : Tile :=
  x.pushes.foldl (fun y p =>
    if p.fin ≤ now && !(y.pushes.any fun r => r.q = p.q) then { y with sq := put y.sq p.q (look [] y.sq p.q ++ [p.data]) }
    else { y with pushes := y.pushes ++ [p] }) { x with pushes := [] }
/-- Scale parcels that came in the cycle that is over apply, in order of arrival, unless a leaf reset runs (R141, R142). -/
def scalesApply (s : State) (t : Nat) : State :=
  let x := getTile s t
  if x.resetEnd.isSome || x.scaleWait.isEmpty then s else setTile s t (x.scaleWait.foldl applyScale { x with scaleWait := [] })
/-- A leaf reset that waited for the passes of earlier leaves begins, in the cycle after the last of them has delivered (R116). -/
def resetBegins (s : State) (t : Nat) : State :=
  let x := getTile s t
  if x.resetDue && x.running.isEmpty && x.waiting.isNone then resetTile s t else s
/-- What falls due in a tile in a cycle that begins. -/
def tileCycle (s : State) (t : Nat) : State :=
  passStart (passDeliver (resetEnds (resetBegins (scalesApply (modTile s t (fillPushes (cycOfCl s (t / 4)))) t) t) t) t) t
/-- The words whose bytes are given, the last one filled with zeros. -/
def packWords (bs : List Byte) : List Word :=
  (List.range (ceilDiv bs.length 8)).map fun i => wordOfBytes ((bs.drop (8 * i)).take 8)
def execSclsend (f : FmtE) (s : State) : Host.Outcome State Fault Refusal :=
  issue 0x1E8 (.e f) (seqBody fun s => do
    let a := readS s f.a
    let d := readS s f.d
    let q := sclCtl a
    let bw : Bool := match myLaunch s with
      | some (_, l) => lbw l
      | none => false
    let grp := f.sub = 1#4
    if !bw || 64 < q.row0 + q.nrows || 4 < q.blk0 + q.nb || 56 < q.nrows * q.nb || q.nrows = 0 then raise s cSCALE_INVALID
    else if !grp && !(4 ≤ (field d 0 4).toNat && (field d 0 4).toNat ≤ 7) then raise s cSCALE_INVALID
    else do
      let pitch := readC s f
      let places := (List.range q.nrows).flatMap fun i => (List.range q.nb).map fun j => (i, j)
      let bs ← places.foldl (fun (r : Res (List Byte)) p => do
        let acc ← r
        let l ← refCheck s (readS s f.b + BitVec.ofNat 64 p.1 * pitch + BitVec.ofNat 64 (2 * p.2)) 2 2 false
        return acc ++ locRead s l 2) (Except.ok [])
      let g := (field d 0 8).toNat
      let x := groupAt s (myPart s) g
      if grp && !x.installed then raise s cGROUP_INVALID
      else do
        let s ← sendRelease s
        let words := packWords bs
        let payload := (a &&& 0xFFFFFFF000000000#64) :: words
        let send (s : State) (dest : Nat) (gr : Option (Nat × Nat)) : State :=
          sendFrom s (mkHdr 3 0x008 dest (myClass s) (tenantOf s) payload.length gr (mySlot s)) payload (sentAcq s) none false
        return (if grp then x.members.foldl (fun s m => send s m.toNat (some (g, x.gen))) s else send s (destOf d) none)) s

end Sys2Proof.Machine
end

