-- ==== Sys2Proof/Machine/Turns.lean ====
section
/-! DEFINITION. The turns of the schedule that are no instruction and no event of the table: whose turn it is, whether a core may
issue, its fetch, the clocks, and what the surroundings do (R18, R72, R77, R87, R156, R368, R375, R378, R403 to R406, R412, R414). -/
namespace Sys2Proof.Machine

/-- The next turn: the first still to come, else one the surroundings choose (entry 1). -/
def nextTurn (s : State) : Turn × State :=
  let s := { s with stuck := false }
  match s.sched.turns with
  | t :: ts => (t, { s with sched := { s.sched with turns := ts } })
  | [] => (Config.turn s.sched.drawn, { s with sched := { s.sched with drawn := s.sched.drawn + 1 } })

/-! ## A core's turn to issue -/

/-- What a core's turn comes to. -/
inductive Turned where
  /-- It issues this word; the core that runs is set. -/
  | go (s : State) (w : Word)
  /-- The turn is over. -/
  | done (s : State)
  | hole (pa : Nat)

/-- A wait that has begun an effect is no instruction boundary. -/
def atBoundary (k : Core) : Bool :=
  match k.wait with
  | none => true
  | some (.recv _ none) => true
  | some (.group _ _) => true
  | _ => false
/-- TASK_OVERRUN of the core that runs (R72, R365). -/
def overrun (s : State) : State :=
  let b := match myLaunch s with
    | some (_, l) => l.budget
    | none => 0
  trapAt s { code := cTASK_OVERRUN, aux0 := b.setWidth 64 }
/-- A fault found earlier that is taken at this boundary. -/
def trapOf (r : FRec) : TrapInfo :=
  { code := recCode r, cause := (field r.fctl 40 8).toNat, addr := r.addr, aux0 := r.aux0, aux1 := r.aux1, other := r.other,
    late := true }
/-- A core's turn (R77, R87): what falls due at the boundary, else the fetch. -/
def turnOf (s : State) (c : Nat) : Turned :=
  if !(mayIssue s c) then .done s
  else
    let s := { s with cur := c }
    let t := taskOf s
    match t.mmxNext.filter fun _ => atBoundary (getCore s c) with
    | some r => .done (takeTrap (modTask s fun t => { t with mmxNext := none }) (trapOf r) t.ctx.pc)
    | none =>
      if t.kind ≠ .system && t.ctx.budget = 0#32 && atBoundary (getCore s c) then .done (overrun s)
      else
        if t.kind = .carried then
          match (t.code.take 8)[t.ctx.pc.toNat / 8]? with
          | some w => .go s w
          | none => .done (trapAt s { code := cILLEGAL_CARRIED })
        else
          match codeWord s t.ctx.pc with
          | .ok (s, w) => .go s w
          | .error (.trap i s) => .done (trapAt s i)
          | .error (.wait s) => .done s
          | .error (.hole pa) => .hole pa

/-! ## Clocks (R18, R72, R368) -/

def ownIsland (i : Nat) (c : Nat) : Bool := islandOf (cidOf c) = i
/-- A cycle of a task's budget. -/
def burn (t : Task) : Task :=
  if t.kind = .system || t.ctx.budget = 0#32 then t else { t with ctx := { t.ctx with budget := t.ctx.budget - 1 } }
/-- The clock of a compute island goes on, and the budgets of the tasks that run there. -/
def clockOn (s : State) (i : Nat) : State :=
  { s with
    clk := { s.clk with cyc := put s.clk.cyc i (look 0 s.clk.cyc i + 1) }
    cores := s.cores.map fun e => if ownIsland i e.1 then (e.1, { e.2 with run := e.2.run.map burn }) else e }
/-- What falls due in an island in the cycle that begins: triggers whose counter a plain store has brought to their value (R168, R273;
entry 79), entries filled, leaf resets and passes that end, passes that start (R116,
R286, R304), and, before any fit test of the cycle, the sets whose clearing ends (R42, R105). -/
def dueNow (s : State) (i : Nat) : State :=
  let s := ((s.tiles.map (·.1)).filter fun t => islandOf (t / 4) = i).foldl tileCycle (recordsFull s)
  let s := ((s.cores.map (·.1)).filter fun c => islandOf (cidOf c) = i).foldl fireTrigs s
  ((s.clusters.map (·.1)).filter fun c => islandOf c = i).foldl freeDue s
/-- One cycle of a compute island. -/
def tick (s : State) (i : Nat) : State := if !(i < 16) || !(clockRuns s i) then s else dueNow (clockOn s i) i
/-- One nanosecond: the time base, and the running time of the launches that run. -/
def nsTick (s : State) : State :=
  { s with
    clk := { s.clk with ns := s.clk.ns + 1 }
    launches := s.launches.map fun e => if e.2.state = .running then (e.1, { e.2 with runNs := e.2.runNs + 1 }) else e }

/-! ## Errors (R403 to R406, R412) -/

def flipByte {w : Nat} (d : BitVec w) (o : Nat) (x : Byte) : BitVec w := d ^^^ ((x.setWidth w) <<< (8 * o))
/-- Bits of one byte of device memory flip (R403): while one 16-bit symbol of a 64-byte half fails, reads are corrected; from a second
on, the half's bytes stand as they are stored, and the line holds an uncorrectable error (R405). -/
def memUpset (s : State) (pa : Nat) (x : Byte) : State :=
  if 2 ^ 40 ≤ pa || x = 0#8 then s
  else
    let ln := pa / 128
    let b := pa / 64 * 64
    let old := look (0 : BitVec 64) s.bad ln
    let flips := writeOne 0 s.flips pa (look 0 s.flips pa ^^^ x)
    let sym (i : Nat) : Bool := bit old (b % 128 / 2 + i) || look 0 flips (b + 2 * i) ≠ 0#8 || look 0 flips (b + 2 * i + 1) ≠ 0#8
    let syms := (List.range 32).filter sym
    if syms.length < 2 then { s with flips := flips }
    else
      let s := (flips.filter fun f => f.1 / 64 = pa / 64).foldl (fun s f => memWrite s f.1 [memByte s f.1 ^^^ f.2]) s
      { s with
        flips := flips.filter (fun f => f.1 / 64 ≠ pa / 64)
        bad := put s.bad ln (syms.foldl (fun a i => a ||| (1#64 <<< (b % 128 / 2 + i))) old) }
/-- A logical address of a bank set: its handle, where attached, and the offset. -/
def setLogical (k : Cluster) (n o : Nat) : Word :=
  match (getSet k n).use with
  | .attached _ h => BitVec.ofNat 64 (h * 2 ^ 28 + o)
  | _ => BitVec.ofNat 64 o
/-- A byte of a tile's state flips, by its offset: t0 to t7 in rows of 96 bytes, the accumulators, the side-buffers, lq0 to lq3 and sq0
to sq3 of eight entries each, the channels of 64 words each (R113 to R118, R140, R161, R403). -/
def tileFlip (y : Tile) (off : Nat) (x : Byte) : Tile :=
  let q (m : NMap (List Line)) (o : Nat) : NMap (List Line) :=
    put m (o / 1024) ((look [] m (o / 1024)).zipIdx.map fun e => if e.2 = o % 1024 / 128 then flipByte e.1 (o % 128) x else e.1)
  if off < 49152 then { y with rows := writeOne 0 y.rows (off / 96) (flipByte (look 0 y.rows (off / 96)) (off % 96) x) }
  else if off < 81920 then
    let o := off - 49152
    { y with acc := writeOne 0 y.acc (o / 4) (flipByte (look 0 y.acc (o / 4)) (o % 4) x) }
  else if off < 86016 then
    let o := off - 81920
    { y with entries := writeOne 0 y.entries (o / 2) (flipByte (look 0 y.entries (o / 2)) (o % 2) x) }
  else if off < 90112 then (if (look [] y.lq ((off - 86016) / 1024)).isEmpty then y else { y with lq := q y.lq (off - 86016) })
  else if off < 94208 then (if (look [] y.sq ((off - 90112) / 1024)).isEmpty then y else { y with sq := q y.sq (off - 90112) })
  else
    let o := off - 94208
    let ws := (look [] y.chans (o / 512)).zipIdx.map fun e => if e.2 = o % 512 / 8 then flipByte e.1 (o % 8) x else e.1
    if ws.isEmpty then y else { y with chans := put y.chans (o / 512) ws }
/-- Bytes of a tile's state by their offset, as `tileFlip` has them. -/
def tileStored (y : Tile) (off n : Nat) : List Byte :=
  (List.range n).map fun i =>
    let o := off + i
    let entry (m : NMap (List Line)) (o : Nat) : Byte := byteAt ((look [] m (o / 1024)).getD (o % 1024 / 128) 0) (o % 128)
    if o < 49152 then byteAt (look 0 y.rows (o / 96)) (o % 96)
    else if o < 81920 then byteAt (look 0 y.acc ((o - 49152) / 4)) ((o - 49152) % 4)
    else if o < 86016 then byteAt (look 0 y.entries ((o - 81920) / 2)) ((o - 81920) % 2)
    else if o < 90112 then entry y.lq (o - 86016)
    else if o < 94208 then entry y.sq (o - 90112)
    else byteAt ((look [] y.chans ((o - 94208) / 512)).getD ((o - 94208) % 512 / 8) 0) ((o - 94208) % 8)
/-- AUX0 of a tile's error (R405): the register or accumulator and the row; a queue has neither. -/
def tilePlace (off : Nat) : Nat :=
  if off < 49152 then off / 6144 + off % 6144 / 96 * 16
  else if off < 81920 then (off - 49152) / 16384 + 8 + (off - 49152) % 16384 / 256 * 16
  else if off < 86016 then (off - 81920) / 512 + (off - 81920) % 512 / 8 * 16
  else 0
/-- The cluster of an on-chip store that an error names (R405). -/
def unitCluster (unit place : Nat) : Nat :=
  if unit = 1 then place else if unit = 3 then place / 8 else if unit = 5 then place / 4 else cidOf place
/-- The place within the unit of an on-chip error (R405): ADDR, AUX0 and AUX1. -/
def unitWords (s : State) (unit place off : Nat) : Word × Word × Word :=
  let cid := unitCluster unit place
  let core := BitVec.ofNat 64 (cid + idxOf place * 2 ^ 16)
  let line := BitVec.ofNat 64 (off / 128 * 128)
  if unit = 1 then (line, BitVec.ofNat 64 (((find (getSl s place).lines (off / 128)).map fun e : SLine => e.pa).getD 0), BitVec.ofNat 64 cid)
  else if unit = 2 then (line, 0, core)
  else if unit = 3 then (setLogical (getCl s cid) (place % 8) off, 0, BitVec.ofNat 64 (cid + place % 8 * 2 ^ 16))
  else if unit = 4 then (BitVec.ofNat 64 off, 0, core)
  else (0, BitVec.ofNat 64 (tilePlace off), BitVec.ofNat 64 (cid + place % 4 * 2 ^ 16))
/-- Whether an on-chip store holds the byte an upset names. -/
def unitHolds (s : State) (unit place off : Nat) : Bool :=
  if unit = 1 then (find (getSl s place).lines (off / 128)).isSome
  else if unit = 2 then (getCore s place).l1.any fun l => l.line = off / 128
  else if unit = 3 then off < setBytes
  else if unit = 4 then off < storeSize place
  else unit = 5 && off < 98304
/-- The bytes of a word that has a code of its own (R403). -/
def codeBytes (unit : Nat) : Nat := if unit = 3 then 16 else if unit = 5 then 4 else 8
/-- Bits of one byte of an on-chip store changed. -/
def chipFlip (s : State) (unit place off : Nat) (x : Byte) : State :=
  if x = 0#8 then s
  else if unit = 1 then modSl s place fun y =>
    { y with lines := y.lines.map fun e => if e.1 = off / 128 then (e.1, { e.2 with data := flipByte e.2.data (off % 128) x }) else e }
  else if unit = 2 then modCore s place fun k =>
    { k with l1 := k.l1.map fun l => if l.line = off / 128 then { l with data := flipByte l.data (off % 128) x } else l }
  else if unit = 3 then
    let l : Loc := .set (unitCluster unit place) (place % 8) off
    locWrite s none l [(locRead s l 1).headD 0 ^^^ x]
  else if unit = 4 then modCore s place fun k => storeWrite k off [(storeBytes k off 1).headD 0 ^^^ x]
  else modTile s place fun y => tileFlip y off x
/-- Bits of a word of an on-chip store changed. -/
def wordFlip (s : State) (unit place word : Nat) (m : BitVec 128) : State :=
  let n := codeBytes unit
  (List.range n).foldl (fun s i => chipFlip s unit place (n * word + i) (field m (8 * i) 8)) s
def bitsIn (m : BitVec 128) : Nat := ((List.range 128).filter fun i => bit m i).length
/-- What a word's flipped bits show: its code corrects one, and two or more stand as they are stored (R403, R405). -/
def shownBits (m : BitVec 128) : BitVec 128 := if bitsIn m ≤ 1 then 0 else m
/-- Bits of a byte of an on-chip store flip (R403): the word waits for the access that finds them (R404, R405; entry 100). -/
def chipUpset (s : State) (unit place off : Nat) (x : Byte) : State :=
  if x = 0#8 || !(unitHolds s unit place off) then s
  else
    let n := codeBytes unit
    let here (u : Upset) : Bool := u.unit = unit && u.place = place && u.word = off / n
    let old : BitVec 128 := ((s.upsets.find? here).map (·.mask)).getD 0
    let new : BitVec 128 := old ^^^ (x.setWidth 128 <<< (8 * (off % n)))
    let rest := s.upsets.filter fun u => !(here u)
    wordFlip { s with upsets := if new = 0 then rest else rest ++ [{ unit := unit, place := place, word := off / n, mask := new }] }
      unit place (off / n) (shownBits old ^^^ shownBits new)
/-- An error in the check bits of a word of an on-chip store, corrected and counted when the word is read (R403, R404). -/
def chipCorrected (s : State) (unit place off : Nat) : State :=
  if unitHolds s unit place off then
    corrected s (dieOf (unitCluster unit place)) unit (unitCluster unit place) (unitWords s unit place off).2.1
  else s
/-- A physical lane of an X-core, of its 33, computes its next result wrong (R406): the vector instruction that uses it checks the
residue. -/
def laneFault (s : State) (c lane : Nat) (x : Word) : State :=
  if classOf (idxOf c) ≠ .x || 33 ≤ lane || field x 0 32 = 0#32 then s
  else modCore s c fun k => { k with laneErr := k.laneErr ++ [(lane, (field x 0 32).setWidth 64)] }
/-- A header error a router finds (R376), counted as an uncorrectable one of the die the parcel is for (R404). -/
def headerUpset (s : State) (n : Nat) (tenant lost : Bool) : State :=
  match s.net[n]? with
  | none => s
  | some p =>
    modDie { s with net := setNth s.net n { p with badHdr := if tenant then 2 else 1, srcLost := lost } } (dieOf (cidOf (hDestCore p.hdr)))
      fun d => { d with uncorr := satInc d.uncorr }

/-- A router corrects an error in a parcel's header (R403): counted on the die the parcel is for (R404); no unit of R405 names it. -/
def headerCorrected (s : State) (n : Nat) : State :=
  match s.net[n]? with
  | none => s
  | some p => modDie s (dieOf (cidOf (hDestCore p.hdr))) fun d => { d with corrChip := satInc d.corrChip }

/-- The turns of the clocks and of the errors; those of the links, the boot controller and the engines' inboxes are `surroundings`'. -/
def otherTurn (s : State) (t : Turn) : State :=
  match t with
  | .issue _ => s
  | .event _ => s
  | .engineCommand _ | .hostSends _ | .powerOn | .bootBegins | .bootStep _ | .attestBegins | .attestEnds => s
  | .tick i => tick s i
  | .meshTick => { s with clk := { s.clk with mesh := s.clk.mesh + 1 } }
  | .nsTick => nsTick s
  | .memUpset pa x => memUpset s pa x
  | .memCorrected pa => corrected s (bitsOf pa 15 12 / 4) 0 0 (BitVec.ofNat 64 pa)
  | .chipUpset u p o x => chipUpset s u p o x
  | .chipCorrected u p o => chipCorrected s u p o
  | .headerUpset n b l => headerUpset s n b l
  | .headerCorrected n => headerCorrected s n
  | .laneFault c l x => laneFault s c l x
  | .sliceEvict cid ln => recordsFull (evict s cid ln)
  | .controlUpset => freezeRings (recEvent (modDie s 0 fun d => { d with uncorr := satInc d.uncorr }) 0 5 0 0 0 0) 5

/-! ## An instruction placed where the next step fetches it -/

/-- A core of cluster 0 whose class takes the instruction: the cluster core, else A-core 0, else X-core 4. -/
def coreFor (w : Word) : Nat :=
  match view (decodeRaw w) with
  | some (op, f) => if okClass .c op f then 8 else if okClass .a op f then 0 else 4
  | none => 8
/-- The machine with a word in memory at virtual and physical address 0x20000, one 32 MiB page of partition 0 mapped where it
lies, cluster 0 in that partition, and a system task about to fetch the word on a core of cluster 0 whose turn is next. -/
def placeWord (s : State) (w : Word) : State :=
  let c := coreFor w
  let s := memWriteWord s 0x10000 0x8000000000008000#64
  let s := memWriteWord s 0x8000 0xBD80000000000000#64
  let s := memWriteWord s 0x20000 w
  let s := modPart s 0 fun p => { p with valid := true, desc := put p.desc 4 0x10000#64 }
  let s := modCl s 0 fun k => { k with part := some 0 }
  let s := { s with host := { s.host with boot := { s.host.boot with stage := 8 } } }
  let q : QTask := { kind := .system, slot := none, cls := 3, parent := noHandle, pc := 0x20000 }
  let s := startTask s c q 7
  { s with cur := c, sched := { s.sched with turns := [.issue c] } }

end Sys2Proof.Machine
end

