-- ==== Sys2Proof/Machine/EvTask.lean ====
section
/-! DEFINITION. Events of the cores: tasks start, leaves are stolen, budgets and park limits run out, leaf resets end (R61, R69
to R74, R116, R125, R141, R347, R365, R368). -/
namespace Sys2Proof.Machine

/-! ## Which task a free core starts (R69 to R73, R329) -/

/-- Whether tasks of a launch start: it runs; while it drains, only the X-side task of a leaf pair that has started (R340). -/
def mayStart (s : State) (q : QTask) : Bool :=
  match q.slot with
  | none => true
  | some k =>
    match launchAt s k with
    | some l => l.state = .running || (l.state = .draining && q.kind = .leafX)
    | none => false
/-- In a replay at most one tree task, or one leaf pair, of the launch runs at any time (R410). -/
def replayRoom (s : State) (slot : Option Nat) (kind : TaskKind) : Bool :=
  match slot.bind fun k => (launchAt s k).map fun l => (k, l) with
  | none => true
  | some (k, l) =>
    if !l.replay || !(isTree kind) then true
    else
      let leaf (x : TaskKind) : Bool := x = .leafA || x = .leafX
      let pair : Bool := (getTile s (4 * rootCluster l)).pair.isSome
      let run := (runningOf s k).filter fun t => isTree t.2.kind
      if kind = .leafX then run.all fun t => leaf t.2.kind
      else if kind = .leafA && pair then run.all fun t => leaf t.2.kind
      else run.isEmpty && !pair
/-- Whether an A-side leaf task finds no earlier pair on its tile, and a slot for its X-side task (R73; entry 64). -/
def leafRoom (s : State) (c : Nat) : Bool :=
  (getTile s (tileOfCore c)).pair.isNone && (getCore s (coreNo (cidOf c) (idxOf c + 4))).runq.length < 32
/-- Whether a give has attached to a core in this cycle: a leaf's sets, which take their handles first, then attach in a later one (R103). -/
def gaveNow (s : State) (c : Nat) : Bool := (getCore s c).gaveAt.any fun g => g.1 = cycOf s c
/-- Whether a queued task can start now: a frame is free for it, and for every task but a fault task one of frames 0 to 6 is free
of parked tasks (R61); a leaf finds its tile clear, and in a replay no other tree task runs. -/
def canStart (s : State) (c : Nat) (q : QTask) : Bool :=
  mayStart s q && replayRoom s q.slot q.kind && (frameFor (getCore s c) q.kind).isSome
    && (q.kind = .fault || (frameFor (getCore s c) .rule).isSome) && (q.kind ≠ .leafA || (leafRoom s c && !(gaveNow s c)))
/-- What starts next. -/
inductive Chosen where
  | sys (q : QTask)
  | fault (q : QTask)
  | resumed (t : Task)
  | queued (q : QTask)
/-- The choice among resumed and queued tasks, class by class (R69). -/
def chooseIn (s : State) (c cls : Nat) : Option Chosen :=
  let k := getCore s c
  match k.parked.find? fun t => t.resumed && t.cls = cls && replayRoom s t.slot t.kind && ((t.slot.bind fun j => launchAt s j).any fun l : Launch => l.state = .running) with
  | some t => some (.resumed t)
  | none => (k.runq.find? fun q => q.cls = cls && canStart s c q).map Chosen.queued
def choose (s : State) (c : Nat) : Option Chosen :=
  let k := getCore s c
  match k.sysq with
  | q :: _ => some (.sys q)
  | [] =>
    match k.faultq.find? (canStart s c) with
    | some q => some (.fault q)
    | none => [3, 2, 1, 0].findSome? (chooseIn s c)
/-- A task starts in a frame of its own, unless the launch has started 2^32 - 1 tasks: the next start aborts it (R347). -/
def startOn (s : State) (c : Nat) (q : QTask) : State :=
  match frameFor (getCore s c) q.kind with
  | none => s
  | some f =>
    match q.slot.bind fun k => (launchAt s k).map fun l => (k, l) with
    | some (k, l) => if 2 ^ 32 ≤ l.ids + 1 then abortLaunch s k cIDENT_FULL noHandle false else startTask s c q f
    | none => startTask s c q f
/-- A resumed task goes on at the instruction that parked it (R71); the L1 keeps no line another task filled (R199). -/
def restart (s : State) (c : Nat) (t : Task) : State :=
  modCore s c fun k =>
    { k with
      run := some t
      parked := k.parked.filter fun u => u.handle ≠ t.handle
      l1 := []
      prefs := []
      wr := []
      wait := none
      ready := cycOf s c }
/-- A free core starts the next task. -/
def execTaskStart (c : Nat) (s : State) : Host.Outcome State Fault Refusal :=
  let k := getCore s c
  if k.run.isSome || k.halted || !(clockRuns s (islandOf (cidOf c))) then .next s
  else
    match choose s c with
    | none => .next s
    | some (.sys q) => .next (startOn (modCore s c fun k => { k with sysq := k.sysq.drop 1 }) c q)
    | some (.fault q) => .next (startOn (modCore s c fun k => { k with faultq := k.faultq.erase q }) c q)
    | some (.resumed t) => .next (restart s c t)
    | some (.queued q) =>
      let s := startOn (modCore s c fun k => { k with runq := k.runq.erase q }) c q
      .next (spurPump (takeInbox s c) (cidOf c))

/-! ## Stealing leaves (R74) -/

/-- The unstarted unbound leaves queued on an A-core. -/
def stealable (s : State) (c : Nat) : List QTask :=
  (getCore s c).runq.filter fun q => q.kind = .leafA && mayStart s q && (q.box.any fun b : Box => b.tile = 4)
/-- An A-core that may steal. -/
def idleA (s : State) (c : Nat) : Bool :=
  let k := getCore s c
  k.run.isNone && k.runq.isEmpty && (getCore s (coreNo (cidOf c) (idxOf c + 4))).runq.length < 32 && (getTile s (tileOfCore c)).pair.isNone
    && clockRuns s (islandOf (cidOf c))
/-- The A-core with the most such leaves, the lower tile on a tie. -/
def victimOf (s : State) (cid thief : Nat) : Nat :=
  let n (i : Nat) : Nat := if i = thief then 0 else (stealable s (coreNo cid i)).length
  (List.range 4).foldl (fun b i => if n b < n i then i else b) (if thief = 0 then 1 else 0)
/-- Whether a core starts this task in this cycle: then the owner wins. -/
def ownerStarts (s : State) (v : Nat) (q : QTask) : Bool :=
  let k := getCore s v
  k.run.isNone && !k.halted && clockRuns s (islandOf (cidOf v)) &&
    match choose s v with
    | some (.queued x) => x = q
    | _ => false
def execLeafSteal (c : Nat) (s : State) : Host.Outcome State Fault Refusal :=
  if 3 < idxOf c || !(idleA s c) then .next s
  else
    let v := coreNo (cidOf c) (victimOf s (cidOf c) (idxOf c))
    match [3, 2, 1, 0].findSome? fun cls => (stealable s v).find? fun q => q.cls = cls with
    | none => .next s
    | some q =>
      if ownerStarts s v q then .next s
      else
        -- the victim's free slot is taken in its turn (R70)
        .next (spurPump (takeInbox (queueTask (modCore s v fun k => { k with runq := k.runq.erase q }) c q) v) (cidOf c))

/-! ## Limits (R72, R365, R368) -/

def execTaskOverrun (c : Nat) (s : State) : Host.Outcome State Fault Refusal :=
  let k := getCore s c
  match k.run with
  | none => .next s
  | some t =>
    if t.kind ≠ .system && t.ctx.budget = 0#32 && t.mmxNext.isNone && atBoundary k && !k.halted && clockRuns s (islandOf (cidOf c)) then
      .next (asCore s c overrun)
    else .next s
/-- A task that has stayed parked beyond the partition's limit, counted while its launch runs, aborts the launch; one parked by
a breakpoint of the debug ring does not (R368, R370). -/
def execParkTimeout (c : Nat) (h : BitVec 32) (s : State) : Host.Outcome State Fault Refusal :=
  match parkedNamed s c h with
  | none => .next s
  | some t =>
    match t.slot.bind fun k => (launchAt s k).map fun l => (k, l) with
    | none => .next s
    | some (k, l) =>
      if l.state = .running && !t.debug && (partWord s l.part 10).toNat < l.runNs - t.parkAt then
        .next (abortLaunch s k cPARK_TIMEOUT h false)
      else .next s

/-! ## The leaf reset (R116, R141) -/

def execLeafResetEnd (t : Nat) (s : State) : Host.Outcome State Fault Refusal := .next (resetEnds s t)

end Sys2Proof.Machine
end

