-- ==== Sys2Proof/Machine/EvParcel.lean ====
section
/-! DEFINITION. Parcels at their destinations: order, drops, discards and acceptance (R141, R149 to R162, R170, R171, R173, R200,
R329, R367, R376). -/
namespace Sys2Proof.Machine

/-! ## Order and drops -/

/-- Parcels of one class from one source core to one destination core arrive in the order they were sent (R150): the `n`-th in
flight may arrive when no such parcel before it is left. One that waits there is taken before any of a lower class. -/
def mayArrive (s : State) (n : Nat) (p : Parcel) : Bool :=
  !((s.net.take n).any fun q => hClass q.hdr = hClass p.hdr && q.src = p.src && hDest q.hdr = hDest p.hdr)
    && !(s.net.any fun q => q.waits && hDest q.hdr = hDest p.hdr && hClass p.hdr < hClass q.hdr)
def engTag (p : Parcel) : Nat := (hTag p.hdr).toNat % 16
/-- Whether a parcel belongs to a launch, which must hold its destination's cluster (R155). -/
def launchBound (p : Parcel) : Bool := hKind p.hdr ≠ 3 || engTag p = 8
/-- The launch whose header slot a parcel carries; an injected one takes that of its destination's cluster (R155). -/
def slotted (s : State) (p : Parcel) : Parcel :=
  if p.part.isSome && launchBound p then
    match (getCl s (cidOf (hDestCore p.hdr))).holder with
    | some k => { p with hdr := setField p.hdr 3 (BitVec.ofNat 10 k) }
    | none => p
  else p
/-- Check 4 of R170: no such core, or an engine command with no target (R162, R329). -/
def badTarget (p : Parcel) : Option Nat :=
  let k := hCore p.hdr
  if hKind p.hdr ≠ 3 then (if 8 < k then some 3 else none)
  else if engTag p = 8 then (if 4 ≤ k && k ≤ 7 then none else some 7)
  else if p.op.isSome && engTag p ≤ 3 then (if k ≤ 1 then none else some 7)
  else if engTag p = 0xE then (if p.sys && k ≤ 8 then none else some 7)
  else if engTag p = 0xD then (if p.hw then none else some 7)
  else some 7
/-- A reply to a task that a host parcel started: its destination is the source that an injected parcel carries, which is no core of any
partition (R386). -/
def toHostPort (p : Parcel) : Bool := hKind p.hdr ≠ 3 && hX p.hdr = 0 && hY p.hdr = 0 && (hCore p.hdr = 13 || hCore p.hdr = 14)
/-- The first check of R170 that a parcel fails at its destination; the queue check of launch parcels is the dispatcher's. -/
def dropCause (s : State) (p : Parcel) : Option Nat :=
  let cid := cidOf (hDestCore p.hdr)
  let src := match p.part with
    | some q => some q
    | none => p.srcPart
  if p.badHdr = 1 then some 8
  else if p.badHdr = 2 then some 1
  else if 24 ≤ hX p.hdr || 24 ≤ hY p.hdr || (!p.hw && !(toHostPort p) && (getCl s cid).part ≠ src) then some 2
  else
    match badTarget p with
    | some c => some c
    | none =>
      if launchBound p && (getCl s cid).holder ≠ some (hSlot p.hdr) then some 9
      else if hKind p.hdr = 0 && tagTenant (tagOf (getCore s (hDestCore p.hdr)) ((hTag p.hdr).toNat % 256)) ≠ hTenant p.hdr then some 4
      else if hKind p.hdr = 1 && ((launchAt s (hSlot p.hdr)).map fun l : Launch => l.tenant) ≠ some (hTenant p.hdr) then some 5
      else if hKind p.hdr = 2 && 4 ≤ hCore p.hdr && hCore p.hdr ≤ 7 && 8 ≤ (hTag p.hdr).toNat then some 6
      else none
/-- A parcel no longer in flight: its launch may end (R171, R373). -/
def joined (s : State) (p : Parcel) : State :=
  match p.owner with
  | some (k, _) => settle s k
  | none => s
/-- Whether a member discards a group parcel: a generation other than its own, or a freed group (R173). -/
def groupStale (s : State) (p : Parcel) : Bool :=
  hGrp p.hdr &&
    match find (getCore s (hDestCore p.hdr)).groups (hGroup p.hdr) with
    | some m => m.freed || m.gen ≠ hGen p.hdr
    | none => true
/-- Whether the launch holds its clusters and has not ended: parcels for it are accepted, also while it takes its bellwether sets (R143,
R155), and a restore included (R348). -/
def engineHeld (l : Launch) : Bool :=
  l.state = .running || l.state = .draining || l.state = .saving || l.state = .restoring || (l.state = .waiting && l.bwPending)
/-- A parcel of a launch that has completed or been aborted is discarded without a drop fault (R200, R373); handler parcels of an
aborted launch are counted. -/
def discardEnded (s : State) (p : Parcel) : Option State :=
  if !(launchBound p) then none
  else
    match launchAt s (hSlot p.hdr) with
    | none => none
    | some l =>
      if engineHeld l then none
      else
        let s := dropGive s (hDestCore p.hdr) p
        some (if l.state = .aborting && hKind p.hdr = 0 then modLaunch s (hSlot p.hdr) fun l => { l with drops := l.drops + 1 } else s)
/-- A parcel of a kind at its destination: dropped, discarded, or handed to what takes it; `take` answers none while it must
wait for room. -/
def arriveAt (s : State) (n : Nat) (mine : Parcel → Bool) (take : State → Nat → Parcel → Option State) : State :=
  match s.net[n]? with
  | none => s
  | some p0 =>
    if !(mine p0) || !(mayArrive s n p0) then s
    else
      let p := slotted s p0
      let c := hDestCore p.hdr
      match dropCause s p with
      | some cause => joined (dropParcel s n p cause) p
      | none =>
        let gone := portDone (takeParcel s n) p
        if groupStale s p then
          joined (modCore (dropGive gone c p) c fun k => { k with discards := satAdd16 k.discards 1 }) p
        else
          match discardEnded gone p with
          | some s => joined s p
          | none =>
            match take gone c p with
            | some s => joined s p
            | none => { s with net := setNth s.net n { p0 with waits := true } }
def arrive (s : State) (n : Nat) (mine : Parcel → Bool) (take : State → Nat → Parcel → Option State) : Host.Outcome State Fault Refusal :=
  .next (arriveAt s n mine take)
/-- Buffers of an inbox that parcels hold (R151): those that wait for a task, a channel or a tag, and the system, fault and scale
parcels that wait for frame 7, for the end of a task, or for the end of a leaf reset (R141, R329, R367). -/
def buffersHeld (s : State) (c : Nat) : Nat :=
  let k := getCore s c
  (k.inbox.filter fun p => !p.soft).length + k.sysq.length + (k.faultq.filter fun q => q.buf).length
    + (if classOf (idxOf c) = .x then (getTile s (tileOfCore c)).scaleWait.length else 0)
/-- Whether a core has a free inbox buffer (R151). -/
def hasBuffer (s : State) (c : Nat) : Bool := buffersHeld s c < 16
def toInbox (s : State) (c : Nat) (p : Parcel) : State := modCore s c fun k => { k with inbox := k.inbox ++ [p] }
/-- Whether the launch that holds a core's cluster starts handlers (R340). -/
def startsTasks (s : State) (c : Nat) : Bool :=
  ((getCl s (cidOf c)).holder.bind fun k => launchAt s k).any fun l : Launch => l.state = .running

/-! ## Kinds of parcel -/

def isKind (k : Nat) (p : Parcel) : Bool := hKind p.hdr = k
def isCommand (t : Nat) (p : Parcel) : Bool := hKind p.hdr = 3 && engTag p = t
def isXCore (p : Parcel) : Bool := 4 ≤ hCore p.hdr && hCore p.hdr ≤ 7
/-- A parcel that starts a task: into the inbox, and out of it while the run queue has room (R70, R153). -/
def intoInbox (s : State) (c : Nat) (p : Parcel) : Option State :=
  if hasBuffer s c then
    let s := toInbox s c p
    some (if startsTasks s c then takeInbox s c else s)
  else none
def execHandlerParcel (n : Nat) (s : State) : Host.Outcome State Fault Refusal := arrive s n (isKind 0) intoInbox
def execCarriedCodeParcel (n : Nat) (s : State) : Host.Outcome State Fault Refusal := arrive s n (isKind 1) intoInbox
/-- A tagged-data parcel at an A- or C-core (R157 to R160). -/
def takeTagged (s : State) (c : Nat) (p : Parcel) : Option State :=
  let k := getCore s c
  let cid := cidOf c
  if !(hasBuffer s c) then none
  else
    match k.recvs.find? fun r => admits r p with
    | some r => some (deliver (modCore s c fun k => { k with recvs := k.recvs.erase r }) c r p)
    | none =>
      match k.wait, k.run with
      | some (.recv t none), some _ =>
        if t = hTag p.hdr then some (modCore s c fun k => { k with wait := some (.recv t (some p)) })
        else if (getCl s cid).overflow.length < 64 then some (modCl s cid fun x => { x with overflow := x.overflow ++ [p] })
        else some (reportDrop s p 0)
      | _, _ =>
        if (getCl s cid).overflow.length < 64 then some (modCl s cid fun x => { x with overflow := x.overflow ++ [p] })
        else some (reportDrop s p 0)
/-- Whether a core posts a receive in this cycle: that takes effect before an arrival of the cycle (R158). -/
def postsFirst (s : State) (c : Nat) : Bool :=
  match wouldIssue s c with
  | some (.recvp _) => true
  | _ => false
def execTaggedDataParcel (n : Nat) (s : State) : Host.Outcome State Fault Refusal :=
  if s.net[n]?.any fun p => postsFirst s (hDestCore p.hdr) then .next s
  else arrive s n (fun p => isKind 2 p && !(isXCore p)) takeTagged
/-- A tagged-data parcel at an X-core: to its channel, or waiting in its buffer for room (R161). -/
def takeChannel (s : State) (c : Nat) (p : Parcel) : Option State :=
  if hasBuffer s c then some (fillChannels (toInbox s c p) c) else none
def execChannelParcel (n : Nat) (s : State) : Host.Outcome State Fault Refusal :=
  arrive s n (fun p => isKind 2 p && isXCore p) takeChannel
/-- A scale parcel that reaches a tile: it applies when the cycle is over, after what a pass that starts in it reads (R142), or when the leaf
reset has ended (R141). -/
def takeScale (s : State) (c : Nat) (p : Parcel) : Option State :=
  if !(hasBuffer s c) then none else some (modTile s (tileOfCore c) fun x => { x with scaleWait := x.scaleWait ++ [p] })
def execScaleParcel (n : Nat) (s : State) : Host.Outcome State Fault Refusal := arrive s n (isCommand 8) takeScale
/-- A system parcel queues its system task; a halted core starts again with it (R329, R331, R377). -/
def takeSystem (s : State) (c : Nat) (p : Parcel) : Option State :=
  if hasBuffer s c then
    let q : QTask :=
      { kind := .system
        slot := none
        cls := hClass p.hdr
        parent := p.parent
        pc := (getCore s c).sysent &&& ~~~7#64
        regs := (2, p.hdr) :: (p.payload.zipIdx.map fun q => (16 + q.2, q.1))
        tag := hTag p.hdr }
    some (modCore s c fun k => { k with sysq := k.sysq ++ [q], halted := false })
  else none
def execSystemParcel (n : Nat) (s : State) : Host.Outcome State Fault Refusal := arrive s n (isCommand 0xE) takeSystem
/-- The task of an identity, on the core that it runs or is parked on. -/
def taskById (k : Core) (slot id : Nat) : Option Task :=
  (k.run.toList ++ k.parked).find? fun t => t.slot = some slot && t.det.id = id
/-- The fault task that a fault parcel starts (R367). -/
def faultOf (s : State) (c k : Nat) (l : Launch) (p : Parcel) : QTask :=
  let pl := p.serves.bind (placeOf l)
  let box := match pl with
    | some x => if isTree x.kind then boxNamed l x.name else none
    | none => p.fbox
  let acq := match p.serves.bind (taskById (getCore s c) k) with
    | some t => t.det.acq
    | none => []
  { faultTask l k ((pl.map fun x : Place => x.cls).getD (hClass p.hdr)) (recOfWords p.payload) p.parent false box 0 acq with
    serves := p.serves
    tag := hTag p.hdr
    buf := true }
/-- A fault parcel joins at its acceptance; with no handler the fault aborts the launch, and one of a launch that has completed
is discarded (R367, R372). -/
def takeFault (s : State) (c : Nat) (p : Parcel) : Option State :=
  let k := hSlot p.hdr
  if !(hasBuffer s c) then none
  else
    match launchAt s k with
    | none => some s
    | some l =>
      if !(engineHeld l) then some s
      else if faulth l = noHandle then some (abortLaunch s k (recCode (recOfWords p.payload)) p.parent true)
      else some (modCore s c fun x => { x with faultq := x.faultq ++ [faultOf s c k l p] })
def execFaultParcel (n : Nat) (s : State) : Host.Outcome State Fault Refusal :=
  arrive s n (fun p => isCommand 0xD p && p.hw) takeFault

/-- An engine-command parcel: its operation joins the queue of its engine (R162). The spec bounds no engine's queue. -/
def takeCommand (s : State) (c : Nat) (p : Parcel) : Option State := p.op.map fun o => addEng s (cidOf c) (hCore p.hdr) o
/-- The turn at which an engine accepts a command parcel in flight (R14, R150, R162). -/
def engineAccepts (s : State) (n : Nat) : State := arriveAt s n (fun p => p.op.isSome) takeCommand

/-! ## The detach of a give (R103, R108, R110) -/

/-- Whether a leaf's reserved sets attach to a core in this cycle: the leaf is what it starts next. They take their handles first
(R103). -/
def leafFirst (s : State) (c : Nat) : Bool :=
  let k := getCore s c
  k.run.isNone && !k.halted && clockRuns s (islandOf (cidOf c)) &&
    match choose s c with
    | some (.queued q) => q.kind = .leafA
    | _ => false
/-- The parcel of a give that has attached enters the target's inbox in the same step (R108), where it has a buffer and R150's
order lets it; else it waits as any parcel does (DEDUCED, entry 72). -/
def giveArrives (s : State) : State :=
  match s.net.getLast? with
  | some p => if p.give.isSome then arriveAt s (s.net.length - 1) (isKind 0) intoInbox else s
  | none => s
/-- The detach event of a core's give: nothing while the drain goes on, while another give or a leaf goes first, or where no give
waits. -/
def execDetach (c : Nat) (s : State) : Host.Outcome State Fault Refusal :=
  match (getCore s c).wait with
  | some (.giving h e target tag acq stall) =>
    if drainBusy s c (bmSet e) || !(giveTurn s c target) || leafFirst s (coreNo (cidOf c) target) then .next s
    else
      let r := detachGive { s with cur := c } h e target tag acq stall
      let s := { r.1 with cur := s.cur }
      .next (if r.2 then giveArrives s else s)
  | _ => .next s

end Sys2Proof.Machine
end

