-- ==== Sys2Proof/Machine/Control.lean ====
section
/-! DEFINITION. Control instructions: branches, the loop, the prefix, control registers, ending, trapping, resuming (R219, R226 to R236). -/
namespace Sys2Proof.Machine

/-- Nothing but the stall count (R219, R230). -/
def nothing : Body := seqBody fun s => .ok s
def execNop (f : FmtS) (s : State) : Host.Outcome State Fault Refusal := issue 0x001 (.s f) nothing s
def execHint (f : FmtHint) (s : State) : Host.Outcome State Fault Refusal := issue (0x1F0 + f.op.toNat) (.hint f) nothing s
/-- A word no opcode is assigned to: check 2 of R220 refuses it. -/
def execUnassignedOpcode (f : FmtRaw) (s : State) : Host.Outcome State Fault Refusal := issue f.op.toNat (.raw f) nothing s
/-- A pool header: check 1 of R220. -/
def execPoolHeaderWord (f : FmtPool) (s : State) : Host.Outcome State Fault Refusal := issue 0x03F (.pool f) nothing s

/-! Branches (R227). -/

/-- The target is set, and a taken branch out of the loop body ends the loop (R83, R227). -/
def branchTo (s : State) (tgt : Word) (taken : Bool) : State × Flow :=
  (modCtx s fun c =>
    { c with
      btgt := if taken then tgt else c.pc + 24
      lc := if taken && c.lc ≠ 0#64 && (tgt.toNat < c.ls.toNat || c.le.toNat < tgt.toNat) then 0 else c.lc }, .branch taken)
def relTarget (s : State) (offs : BitVec 32) : Word := (ctxOf s).pc + (offs.signExtend 64 <<< 3)
def execBr (f : FmtB) (s : State) : Host.Outcome State Fault Refusal :=
  issue 0x002 (.b f) (fun s =>
    .ok (branchTo s (relTarget s f.offs) (condHolds f.cond.toNat 64 (readS s f.a).toNat (readS s f.b).toNat))) s
def execJmp (f : FmtB) (s : State) : Host.Outcome State Fault Refusal :=
  issue 0x003 (.b f) (fun s => .ok (branchTo s (relTarget s f.offs) true)) s
def execJmpr (f : FmtB) (s : State) : Host.Outcome State Fault Refusal :=
  issue 0x004 (.b f) (fun s => .ok (branchTo s (readS s f.a &&& ~~~7#64) true)) s
def execCall (f : FmtB) (s : State) : Host.Outcome State Fault Refusal :=
  issue 0x005 (.b f) (fun s => .ok (branchTo (writeSLat s f.b ((ctxOf s).pc + 24) 1 false) (relTarget s f.offs) true)) s
def execRet (f : FmtB) (s : State) : Host.Outcome State Fault Refusal :=
  issue 0x006 (.b f) (fun s => .ok (branchTo s (readS s f.a &&& ~~~7#64) true)) s

/-! The loop (R82, R229). The check of its body is check 8. -/

def execRep (f : FmtI) (s : State) : Host.Outcome State Fault Refusal :=
  issue 0x007 (.i f) (fun s =>
    let pc := (ctxOf s).pc
    let n := (field f.imm 0 12).toNat
    let count : Word := if bit f.sub 0 then (field f.imm 12 20).setWidth 64 else readS s f.a
    let le := pc + 8 + BitVec.ofNat 64 (8 * n)
    let s := modCtx s fun c => { c with ls := pc + 8, le := le, lc := count }
    .ok (s, if count = 0#64 then .jump (le + 8) else .seq)) s

/-! The prefix (R85, R233). -/

/-- `fmt` copies IMM[23:0] into PFX (R233); the bits of PFX that R68 reserves take no write (R8; DEDUCED, entry 78). -/
def execFmt (f : FmtI) (s : State) : Host.Outcome State Fault Refusal :=
  issue 0x009 (.i f) (seqBody fun s =>
    .ok (modCtx s fun c => { c with pfx := pfxBits (f.imm.setWidth 32), status := setPP c.status true })) s

/-! Ending and stopping (R231, R232). -/

/-- `end` waits for no engine operation, atomic or parcel, nor for a pass that has its scales (R116, R231); while a pass of the task
lacks them, the task goes on waiting and overruns (R142; DEDUCED, entry 71). -/
def execEndTask (f : FmtS) (s : State) : Host.Outcome State Fault Refusal :=
  issue 0x008 (.s f) (fun s =>
    if (taskOf s).kind = .rule then raise s cBAD_VERDICT
    else if awaitsScales s s.cur then .error (.wait s)
    else do
      let s ← endRelease s
      return (endRunning s, .over)) s
def execTrapOp (f : FmtI) (s : State) : Host.Outcome State Fault Refusal :=
  issue 0x00A (.i f) (fun s => .ok (s, .park { code := cTRAP, aux0 := (field f.imm 0 16).setWidth 64 })) s
def execBrk (f : FmtS) (s : State) : Host.Outcome State Fault Refusal :=
  issue 0x00B (.s f) (fun s => .ok (s, .park { code := cBREAKPOINT })) s

/-! Control registers (R66 to R68, R234, R330, R406). -/

def csrValue (s : State) (n : Nat) : Word :=
  let c := ctxOf s
  if n = 0x000 then c.status
  else if n = 0x001 then c.pfx.setWidth 64
  else if n = 0x002 then BitVec.ofNat 64 (taskOf s).wp
  else if n = 0x003 then c.lc
  else if n = 0x004 then c.ls
  else if n = 0x005 then c.le
  else if n = 0x006 then c.btgt
  else if n = 0x007 then BitVec.ofNat 64 (coreIdOf s.cur)
  else if n = 0x008 then (taskOf s).handle.setWidth 64
  else if n = 0x009 then c.seed
  else if n = 0x00A then c.budget.setWidth 64
  else if n = 0x100 then (getCore s s.cur).sysent
  else if n = 0x101 then BitVec.ofNat 64 (myPart s + if myPart s = mgmtPart s then 256 else 0)
  else if n = 0x102 then steerOf s s.cur
  else tagRead (getCore s s.cur) (n - 0x200)
/-- csrw of STATUS (R67). -/
def writeStatus (det : Bool) (old a : Word) : Word :=
  let x := old &&& ~~~(a &&& 0x3F0#64)
  let x := if (field a 0 3).toNat ≤ 4 then setField x 0 (field a 0 3) else x
  if det then x else setField x 54 (field a 54 1)
/-- A tag-table entry written whole: EN or the software pend may start tasks as tagset does (R153, R330). -/
def writeTag (s : State) (t : Nat) (v : Word) : State :=
  tagPut s t (v &&& 0xFFC1FFFFFFFFFFF8#64)
def csrSet (s : State) (n : Nat) (a : Word) : State :=
  if n = 0x000 then
    let det : Bool := match myLaunch s with
      | some (_, l) => ldet l
      | none => false
    modCtx s fun c => { c with status := writeStatus det c.status a }
  else if n = 0x009 then modCtx s fun c => { c with seed := a }
  else if n = 0x100 then modCore s s.cur fun k => { k with sysent := a }
  else if n = 0x102 then
    if classOf (idxOf s.cur) = .x then
      recEvent (modCore s s.cur fun k => { k with steer := some (a &&& 0x3F#64) }) (dieOf (cidOf s.cur)) 9 (myPart s) (cidOf s.cur) (a &&& 0x3F#64) 0
    else s
  else writeTag s (n - 0x200) a
def execCsrr (f : FmtI) (s : State) : Host.Outcome State Fault Refusal :=
  issue 0x00C (.i f) (seqBody fun s => .ok (writeSLat s f.d (csrValue s (field f.imm 0 12).toNat) 1 false)) s
def execCsrw (f : FmtI) (s : State) : Host.Outcome State Fault Refusal :=
  issue 0x00D (.i f) (seqBody fun s => .ok (csrSet s (field f.imm 0 12).toNat (readS s f.a))) s
def execTimeOp (f : FmtS) (s : State) : Host.Outcome State Fault Refusal :=
  issue 0x00E (.s f) (seqBody fun s => .ok (writeSLat s f.d (timeNow s) 1 false)) s

/-! Resume and abandon (R236). -/

/-- The parked task of this core and of this launch that a handle names, or BAD_HANDLE; a system task may name one of any launch (R329).
One parked by a breakpoint of the debug ring stays parked until a system task's eret (R370): no resume or abandon names it. -/
def ownParked (s : State) (a : Word) : Res Task :=
  match parkedNamed s s.cur (field a 0 32) with
  | some t => if ((taskOf s).kind = .system || t.slot = (taskOf s).slot) && !t.debug then .ok t else raise s cBAD_HANDLE
  | none => raise s cBAD_HANDLE
def execResume (f : FmtS) (s : State) : Host.Outcome State Fault Refusal :=
  issue 0x00F (.s f) (seqBody fun s => do
    let t ← ownParked s (readS s f.a)
    return resumeParked s s.cur t.handle) s
def execAbandon (f : FmtS) (s : State) : Host.Outcome State Fault Refusal :=
  issue 0x010 (.s f) (seqBody fun s => do
    let t ← ownParked s (readS s f.a)
    return abandonTask s s.cur t) s

end Sys2Proof.Machine
end

