-- ==== Sys2Proof/Machine/Records.lean ====
section
/-! DEFINITION. The records of a save block: task and box records as bytes, and what a spur engine holds of a launch (R331,
R342 to R347, R352). -/
namespace Sys2Proof.Machine

/-- Zero bytes. -/
def zeros (n : Nat) : List Byte := List.replicate n 0

/-! ## Task records (R344) -/

/-- Whether a parked task's fault task is still to start. -/
def faultDue (k : Core) (t : Task) : Bool := t.due || k.faultq.any fun q => q.flink = t.handle
/-- The record of a parked task of a core. -/
def taskBytes (s : State) (c : Nat) (t : Task) : List Byte :=
  let x := t.ctx
  let held := t.held.take 255
  wordsBytes [x.pc, x.status, x.lc, x.ls, x.le, x.btgt, x.seed]
    ++ bytesOfNat 4 ((pfxBits x.pfx).toNat + if stPP x.status then 2 ^ 31 else 0)
    ++ bytesOf 4 x.budget ++ bytesOf 4 t.handle ++ bytesOfNat 4 t.det.id
    ++ [BitVec.ofNat 8 (idxOf c), BitVec.ofNat 8 held.length, if faultDue (getCore s c) t then 1 else 0] ++ zeros 53
    ++ recBytes t.frec ++ zeros 64
    ++ locRead s (.store c (frameBase c t.frame)) (frameSize c)
    ++ held.flatMap fun h => bytesOfNat 8 (128 * h.line) ++ bytesOf 16 h.mask ++ zeros 8 ++ bytesOf 128 h.data
def taskLen (c : Nat) (t : Task) : Nat := 256 + frameSize c + 160 * min t.held.length 255
/-- A word of a record. -/
def recWord (b : List Byte) (o : Nat) : Word := wordOfBytes ((b.drop o).take 8)
/-- The core a task record names, in a cluster. -/
def recCore (cid : Nat) (b : List Byte) : Nat := coreNo cid (le b 72 1)
/-- Lines held back that a record tells, and those beyond the 255 that NLINE counts, which stay beside it (entry 19). -/
def linesOf (read kept : List HeldLine) : List HeldLine := if read.length = 255 then read ++ kept.drop 255 else read
/-- The task a record describes; `kept` is what the device kept of it beside the record. Reserved bits of STATUS and PFX take no write
(R8, R67, R68). -/
def taskOfBytes (slot : Option Nat) (c : Nat) (kept : NMap Task) (b : List Byte) : Task :=
  let h : BitVec 32 := BitVec.ofNat 32 (le b 64 4)
  let id := le b 68 4
  let t := (find kept id).getD { slot := slot }
  let f := frameOfHandle h
  let pfx := le b 56 4
  let img := 256 + frameSize c
  { t with
    handle := h
    frame := f
    wp := frameBase c f
    slot := slot
    ctx :=
      { pc := recWord b 0
        status := setPP (statusBits (recWord b 8)) (decide (2 ^ 31 ≤ pfx))
        lc := recWord b 16
        ls := recWord b 24
        le := recWord b 32
        btgt := recWord b 40
        seed := recWord b 48
        pfx := pfxBits (BitVec.ofNat 32 pfx)
        budget := BitVec.ofNat 32 (le b 60 4) }
    det := { t.det with id := id }
    held := linesOf ((List.range (le b 73 1)).map fun i =>
      { line := le b (img + 160 * i) 8 / 128
        mask := BitVec.ofNat 128 (le b (img + 160 * i + 8) 16)
        data := ofBytes 1024 ((b.drop (img + 160 * i + 32)).take 128)
        stamp := ((t.held[i]?).map fun x : HeldLine => x.stamp).getD 0 }) t.held
    frec := recOfWords ((List.range 8).map fun i => recWord b (128 + 8 * i))
    due := decide (le b 74 1 % 2 = 1) }
/-- A parked task leaves its core for its record: its frame is free, its sets stay attached (R331). -/
def takeTask (s : State) (c : Nat) (t : Task) : State :=
  let s := match t.slot with
    | some k => modLaunch s k fun l => { l with kept := put l.kept t.det.id t }
    | none => s
  modCore s c fun k => { k with
    parked := k.parked.filter fun u => u.handle ≠ t.handle
    faultq := k.faultq.filter fun q => q.flink ≠ t.handle }
/-- A frame image as a load takes it: reserved bits of the task header take no write (R8, R63). -/
def frameImage (b : List Byte) : List Byte :=
  let w (o : Nat) (m : Word) : List Byte := bytesOf 8 (recWord b o &&& m)
  b.take 336 ++ w 336 0xFFFFFFFF#64 ++ w 344 0xFFFFFFFF#64 ++ w 352 0xFFFFFFFF00000000#64 ++ (b.drop 360).take 16
    ++ w 376 0x80FFFFFFFFFFFFFF#64 ++ b.drop 384
/-- A parked task put on its core from its record: the frame image, and what the core keeps. -/
def placeTask (s : State) (slot : Option Nat) (c : Nat) (b : List Byte) : State :=
  let kept := match slot.bind fun k => launchAt s k with
    | some l => l.kept
    | none => []
  let t := taskOfBytes slot c kept b
  modCore s c fun k =>
    let k := storeWrite k (frameBase c t.frame) (frameImage ((b.drop 256).take (frameSize c)))
    { k with parked := k.parked ++ [t] }
/-- Whether a frame of a core holds a task. -/
def frameBusy (s : State) (c f : Nat) : Bool :=
  let k := getCore s c
  k.parked.any (fun t => t.frame = f) || (k.run.map fun t : Task => t.frame) = some f
/-- The parked task that a handle names, on any core of a cluster. -/
def parkedIn (s : State) (cid : Nat) (h : BitVec 32) : Option (Nat × Task) :=
  ((List.range 9).findSome? fun i =>
    ((getCore s (coreNo cid i)).parked.find? fun t => t.handle = h).map fun t => (coreNo cid i, t))

/-! ## Box records (R331, R344, R352) -/

/-- Box records of a launch that a cluster's spur engine holds: by SEQNO, then the held right children by name. -/
def heldBoxes (l : Launch) (cid : Nat) : List BoxRec :=
  let all := l.boxes.map (·.2)
  let right (b : BoxRec) : Bool := b.phase = .heldRight
  let own := all.filter fun b => b.cid = cid && !(right b) && (stateCode b.phase).isSome && (b.phase ≠ .ending || isJoinEntry b)
  let rights := all.filter fun b => right b && (getBox l (parentName b.box.name)).any fun p : BoxRec => p.cid = cid
  own.mergeSort (fun a b => a.seqno ≤ b.seqno) ++ rights.mergeSort (fun a b => a.box.name.toNat ≤ b.box.name.toNat)
/-- The spur engine forgets boxes: their makers stay known, reserved sets are given up, the spill area is empty. -/
def forgetBoxes (s : State) (k cid : Nat) (bs : List BoxRec) : State :=
  let s := modLaunch s k fun l =>
    { l with
      boxes := bs.foldl (fun m b => drop m b.box.name.toNat) l.boxes
      handles := bs.foldl (fun m b => put m b.box.name.toNat (boxLeft b)) l.handles }
  let s := bs.foldl (fun s b => if b.phase = .leafReserved then b.sets.foldl (fun s n => setUse s b.cid n .free) s else s) s
  match launchAt s k, (getCl s cid).spillArea with
  | some l, some o => (unitStore s l.part (savePtr l + o + 8) (zeros 8)).1
  | _, _ => s
/-- Box records enter a spur engine in ascending SEQNO, after every box already there; a held right child goes to its parent's. -/
def loadBoxes (s : State) (k cid : Nat) (ws : List (List Word)) : State :=
  match launchAt s k with
  | none => s
  | some l =>
    let bs := ((ws.map (boxOfWords l cid)).mergeSort fun a b => a.seqno ≤ b.seqno)
    bs.foldl (fun s b =>
      let r : Bool := b.phase = .heldRight
      let (s, w) := drawWait s cid
      let s := if r then s else modCl s cid fun x => { x with nextSeq := max x.nextSeq (b.seqno + 1) }
      setBox s k { b with
        cid := if r then (placeBox s l cid b.box.tile b.box.name).1 else cid
        seqno := if r then 0 else b.seqno
        waitNo := w }) s

end Sys2Proof.Machine
end

