-- ==== Sys2Proof/Machine/Admit.lean ====
section
/-! DEFINITION. Queues, submission, and the checks of admission (R22 to R26, R43, R54, R55, R57, R59, R87, R176, R334 to R339,
R374, R395, R408). -/
namespace Sys2Proof.Machine

/-! ## Queues (R334 to R336) -/

/-- Where a queue's descriptor stands. -/
def queueAt (s : State) (p q : Nat) : Nat := (partWord s p 5).toNat + 64 * q
def queueCount (s : State) (p : Nat) : Nat := (field (partWord s p 12) 0 16).toNat
/-- Whether a queue exists. -/
def queueOk (s : State) (p q : Nat) : Bool := (getPart s p).valid && q < queueCount s p && bit (memWord s (queueAt s p q)) 63
/-- A queue's descriptor, read: the line's error, if it has one, is found (R404, R405). -/
def queueRead (s : State) (p q : Nat) : State := if q < queueCount s p then tableRead s (queueAt s p q) 64 else s
/-- A 4-byte word of a queue's descriptor written by the dispatcher: in memory, and in a slice that holds its line, where submitters read
it (R334, R335). -/
def queueWrite (s : State) (p q off v : Nat) : State :=
  let a := queueAt s p q + off
  let into (z : SLine) : SLine := { z with data := overlay z.data (lineAt (a % 128) (bytesOfNat 4 v)) (maskRange (a % 128) 4) }
  let s := physWrite32 (meetsMem s a 4) a v
  { s with slices := s.slices.map fun e =>
      (e.1, { e.2 with lines := e.2.lines.map fun z => if z.2.pa / 128 = a / 128 then (z.1, into z.2) else z }) }
def sub32 (a b : Nat) : Nat := (a + 2 ^ 32 - b) % 2 ^ 32
def inc32 (a : Nat) : Nat := (a + 1) % 2 ^ 32
def pendingIn (r : ResQ) : Nat := sub32 r.rtail r.rhead
def isQueue (p q : Nat) (r : ResQ) : Bool := r.part = p && r.q = q
def resident (s : State) (p q : Nat) : Option ResQ := s.disp.queues.find? (isQueue p q)
def setQueue (s : State) (r : ResQ) : State :=
  { s with disp := { s.disp with queues := s.disp.queues.map fun x => if isQueue r.part r.q x then r else x } }
/-- The resident queue that makes room: the one with the fewest entries to take, the lowest number on a tie. -/
def victimQueue (l : List ResQ) : Option ResQ :=
  l.foldl (fun v r =>
    match v with
    | none => some r
    | some v => if pendingIn r < pendingIn v || (pendingIn r = pendingIn v && r.q < v.q) then some r else some v) none
def swapOut (s : State) (r : ResQ) : State :=
  let s := queueWrite s r.part r.q 20 r.rhead
  { s with disp := { s.disp with
    queues := s.disp.queues.filter fun x => !(isQueue r.part r.q x)
    swapped := if pendingIn r = 0 then s.disp.swapped else s.disp.swapped ++ [(r.part, r.q)] } }
/-- A queue made resident: its descriptor is read; of 64 resident queues one makes room (R336). -/
def loadQueue (s : State) (p q : Nat) : State × ResQ :=
  match resident s p q with
  | some r => (s, r)
  | none =>
    let s := if s.disp.queues.length < 64 then s
      else
        match victimQueue s.disp.queues with
        | some v => swapOut s v
        | none => s
    let s := queueRead s p q
    let d := queueAt s p q
    let r : ResQ :=
      { part := p, q := q, rhead := mem32 s (d + 20), qctl := memWord s d, rbase := (memWord s (d + 8)).toNat, rnent := max 1 (mem32 s (d + 16)),
        ten := mem32 s (d + 28) % 64, rtail := mem32 s (d + 24) }
    ({ s with disp := { s.disp with queues := s.disp.queues ++ [r], swapped := s.disp.swapped.filter (· ≠ (p, q)) } }, r)
/-- What comes of a launch parcel at its queue. -/
inductive Enq where
  | done
  | full
  | bad
deriving DecidableEq, Repr
/-- RTAIL of a queue as it stands in memory: device submitters raise it there (R335). -/
def tailOf (s : State) (p q : Nat) : Nat := mem32 s (queueAt s p q + 24)
/-- The header address of a launch parcel written to slot RTAIL mod RNENT, and RTAIL incremented (R335). -/
def enqueue (s : State) (p q : Nat) (hdrAddr : Word) : State × Enq :=
  if s.disp.stopped.contains (p, q) then (s, .full)
  else
    let (s, r) := loadQueue s p q
    let s := queueRead s p q
    let t := tailOf s p q
    if r.rnent ≤ sub32 t r.rhead then (s, .full)
    else
      match unitWrite s p (r.rbase + 8 * (t % r.rnent)) (bytesOf 8 hdrAddr) with
      | (s, false) => (s, .bad)
      | (s, true) => (setQueue (queueWrite s p q 24 (inc32 t)) { r with rtail := inc32 t }, .done)
/-- The queue a launch parcel names: the table of its source's partition. -/
def parcelQueue (p : Parcel) : Nat × Nat :=
  ((p.part.orElse fun _ => p.srcPart).getD 0, (field (p.payload.headD 0) 0 12).toNat)
/-- Launch parcels that wait for room in a queue's ring go in, in their order; one whose slot cannot be written is dropped. -/
def pumpQueue (s : State) (p q : Nat) : State :=
  let mine := s.disp.held.filter fun x => parcelQueue x = (p, q)
  (mine.foldl (fun (r : State × Bool) x =>
    if r.2 then r
    else
      match enqueue r.1 p q (x.payload.getD 1 0) with
      | (s, .full) => (s, true)
      | (s, .bad) => (reportDrop { s with disp := { s.disp with held := s.disp.held.erase x } } x 10, false)
      | (s, .done) => ({ s with disp := { s.disp with held := s.disp.held.erase x } }, false)) (s, false)).1
/-- A launch parcel reaches the dispatcher: dropped with cause 10 where its queue does not exist, else submitted, or held until
its ring has room. A slot that cannot be written drops it in the same way. -/
def execLaunchParcel (n : Nat) (s : State) : Host.Outcome State Fault Refusal :=
  match s.net[n]? with
  | none => .next s
  | some x =>
    if !(isCommand 0xF x) || !(mayArrive s n x) then .next s
    else
      let (p, q) := parcelQueue x
      let s := queueRead s p q
      if x.badHdr = 1 then .next (joined (dropParcel s n x 8) x)
      else if x.badHdr = 2 then .next (joined (dropParcel s n x 1) x)
      else if !(queueOk s p q) then .next (joined (dropParcel s n x 10) x)
      else
        let gone := portDone (takeParcel s n) x
        let hold (s : State) : State := { s with disp := { s.disp with held := s.disp.held ++ [x] } }
        if s.disp.held.any fun y => parcelQueue y = (p, q) then .next (joined (hold gone) x)
        else
          match enqueue gone p q (x.payload.getD 1 0) with
          | (s, .done) => .next (joined s x)
          | (s, .full) => .next (joined (hold s) x)
          | (s, .bad) => .next (joined (reportDrop s x 10) x)
/-- A reported atomic on a queue's RTAIL: the submissions that RTAIL now counts, or QUEUE_OVERRUN, which stops the queue (R335, R374). -/
def execQueueSubmit (n : Nat) (s : State) : Host.Outcome State Fault Refusal :=
  match s.reports[n]? with
  | none => .next s
  | some m =>
    let s := queueRead { s with reports := dropNth s.reports n } m.part m.q
    if s.disp.stopped.contains (m.part, m.q) || !(queueOk s m.part m.q) then .next s
    else
      let (s, r) := loadQueue s m.part m.q
      let t := tailOf s m.part m.q
      let n := sub32 t r.rhead
      if r.rnent < n then
        let s := { s with disp := { s.disp with stopped := s.disp.stopped ++ [(m.part, m.q)] } }
        .next (toFaultRing s m.part 0 (asyncRecord s 0 noHandle 4
          { code := cQUEUE_OVERRUN, addr := BitVec.ofNat 64 (queueAt s m.part m.q), aux0 := BitVec.ofNat 64 m.q, aux1 := BitVec.ofNat 64 n }))
      else .next (if pendingIn r < n then setQueue s { r with rtail := t } else s)

/-! ## The checks of admission (R26) -/

def cHDR : Nat := 1
def cDET : Nat := 2
/-- A header's fields without its launch: a launch with nothing but its header. -/
def bareLaunch (p q hdrAddr : Nat) (hdr : List Word) : Launch :=
  { part := p, q := q, order := 0, hdrAddr := hdrAddr, hdr := hdr, leaves := [], code := [], tenant := 0, budget := 0, state := .waiting,
    region := { x0 := 0, y0 := 0, x1 := 0, y1 := 0 }, dx := 0, dy := 0, slice := 0, sliceEnd := none, savedAt := 0, runNs := 0, ids := 0,
    places := [], checks := [], boxes := [], faults := 0, first := none, drops := 0, digest := 0, replay := false, abort := none,
    obase := 0, olen := 0, rootDone := false, recorded := false, bwPending := false }
def regionOf (l : Launch) : Region :=
  let w := hword l 15
  { x0 := (field w 0 8).toNat, y0 := (field w 8 8).toNat, x1 := (field w 16 8).toNat, y1 := (field w 24 8).toNat }
def axesIn (l : Launch) : List Nat := List.range (naxes l)
/-- Row 1 past the reads: the version and every reserved field of the header, those of all sixteen rule entries among them (entry 83). -/
def row1 (l : Launch) : Bool :=
  hdrField l 56 8 = 1 && hdrField l 0 16 = 0 && hword l 31 = 0#64 && field (hword l 14) 54 10 = 0#10
    && (List.range 16).all fun i => field (ruleEntry l i) 8 2 = 0#2
def row2 (l : Launch) (maxcls : Nat) (tenOk : Bool) : Bool :=
  1 ≤ naxes l && naxes l ≤ 8 && 1 ≤ nrules l && nrules l ≤ 16 && nleaves l ≤ 16 && rootRule l < nrules l && lclass l ≤ maxcls && tenOk
def row3 (l : Launch) : Bool :=
  (axesIn l).all fun a => grainOf l a ≠ 0 && (rootAxis l a).org.toNat + (rootAxis l a).ext.toNat ≤ 2 ^ 32
def passOf (l : Launch) : Nat := hdrField l 32 2
def row4 (l : Launch) : Bool := ((axesIn l).filter fun a => roleOf l a = 1).length ≤ 1 && passOf l ≠ 3
def termOk (l : Launch) (t : Word) : Bool :=
  let ax (v : Nat) : Bool := v < naxes l || v = 15
  field t 40 24 = 0#24 && ax (field t 32 4).toNat && ax (field t 36 4).toNat
def leafOk (l : Launch) (w : List Word) : Bool :=
  let g (i : Nat) : Word := w.getD i 0
  let nt := (field (g 1) 32 8).toNat
  nt ≤ 4 && field (g 1) 40 24 = 0#24 && g 6 = 0#64 && g 7 = 0#64 && field (g 0) 0 3 = 0#3 && field (g 0) 32 3 = 0#3
    && (List.range nt).all fun q => termOk l (g (2 + q))
/-- Row 5; the rule table has sixteen entries, in use or not (entry 83). -/
def row5 (l : Launch) (leaves : List (List Word)) : Bool :=
  (List.range 16).all (fun i => (nleaves l = 0 || ruleDleaf l i < nleaves l) && ruleFmask l i < 2 ^ naxes l)
    && leaves.all (leafOk l) && ((faulth l).toNat % 8 = 0 || faulth l = noHandle)
/-- The level map (R43, R44): used entries first, depths rising from 1 to 58, an action that exists. -/
def levelsOk (l : Launch) : Bool :=
  let es := (List.range 6).map (levelOf l)
  let used := es.takeWhile fun e => e.1 ≠ 0
  (es.drop used.length).all (fun e => e.1 = 0) && used.all (fun e => e.1 ≤ 58 && e.2 ≤ 5)
    && (used.zip (used.drop 1)).all fun e => e.1.1 < e.2.1
def row7 (s : State) (l : Launch) : Bool :=
  let r := regionOf l
  r.x0 ≤ 23 && r.y0 ≤ 23 && r.x1 ≤ 23 && r.y1 ≤ 23 && r.x0 ≤ r.x1 && r.y0 ≤ r.y1
    && (regionClusters r 0 0).all fun k => (getCl s k).part = some l.part
def leafTab (l : Launch) : Nat := (hword l 24).toNat
/-- The pointers of row 8. -/
def pointersOk (l : Launch) : Bool :=
  codeBase l ≠ 0#64 && codeBase l &&& 7#64 = 0#64 && savePtr l ≠ 0 && (nleaves l = 0 || leafTab l ≠ 0) && leafTab l % 64 = 0
    && ((sumAxis l).isNone || foldws l ≠ 0) && (!(ldet l) || digestPtr l ≠ 0)
/-- The structures of row 8 that are read: fold header, save-block header, ring descriptor. A fold header is checked where FOLDWS is not
zero, with or without a SUM axis: the spec does not say which (DESIGN CHOICE, entry 82). -/
def readsOk (s : State) (l : Launch) : State × Bool :=
  let (s, f) : State × Bool :=
    if foldws l = 0 then (s, true)
    else
      match unitRead s l.part (foldws l) 128 with
      | (s, some b) => (s, foldws l % 128 = 0 && le b 0 4 ≠ 0 && le b 0 4 % 128 = 0 && (b.drop 4).all (· = 0))
      | (s, none) => (s, false)
  if !f then (s, false)
  else
    match unitRead s l.part (savePtr l) 128 with
    | (s, none) => (s, false)
    | (s, some b) =>
      if le b 0 8 ≠ 0 || le b 8 8 % 128 ≠ 0 then (s, false)
      else if ringPtr l = 0 then (s, true)
      else
        match unitRead s l.part (ringPtr l) 64 with
        | (s, some r) => (s, ringOk r)
        | (s, none) => (s, false)
/-- Row 10 (R59), over all sixteen rule entries, as rows 1 and 5 (entry 83). -/
def detOk (l : Launch) : Bool :=
  let chained := (List.range 16).any fun i => (axesIn l).any fun a =>
    ruleFmask l i / 2 ^ a % 2 = 1 && roleOf l a = 3 && grainOf l a < (rootAxis l a).ext.toNat
  let w := if passOf l = 0 then 48 else if passOf l = 1 then 96 else 192
  !chained && (match sumAxis l with
    | some a => grainOf l a % w = 0
    | none => true)
/-- The leaf table as read at admission; empty where it has no place to be read from. -/
def readLeaves (s : State) (l : Launch) : State × Option (List (List Word)) :=
  if nleaves l = 0 || leafTab l = 0 || leafTab l % 64 ≠ 0 then (s, some [])
  else
    match unitRead s l.part (leafTab l) (64 * nleaves l) with
    | (s, some b) => (s, some ((List.range (nleaves l)).map fun j => bytesWords 8 (b.drop (64 * j))))
    | (s, none) => (s, none)
/-- R26 for a header that could be read: the status of the first failing check, or the launch's leaf table. -/
def admitCheck (s : State) (r : ResQ) (l : Launch) : State × Except Nat (List (List Word)) :=
  let tenOk := bit (partWord s r.part 1) r.ten
  if !(row1 l) || !(row2 l (field r.qctl 60 2).toNat tenOk) || !(row3 l) || !(row4 l) then (s, .error cHDR)
  else
    match readLeaves s l with
    | (s, none) => (s, .error cHDR)
    | (s, some ls) =>
      if !(row5 l ls) || !(levelsOk l) || !(row7 s l) || !(pointersOk l) then (s, .error cHDR)
      else
        match readsOk s l with
        | (s, false) => (s, .error cHDR)
        | (s, true) =>
          if bit r.qctl 62 && !(ldet l) then (s, .error cHDR)
          else if ldet l && !(detOk l) then (s, .error cDET)
          else (s, .ok ls)
/-- The task budget of a launch (R339). -/
def budgetOf (s : State) (l : Launch) : BitVec 32 :=
  let w := partWord s l.part 11
  let b := if headerBudget l = 0#32 then field w 0 32 else headerBudget l
  if (field w 32 32).toNat < b.toNat then field w 32 32 else b
/-- The digest window that the digest record names (R408); an unreadable record names none. -/
def windowOf (s : State) (l : Launch) : State × Nat × Nat :=
  if !(ldet l) then (s, 0, 0)
  else
    match unitTake s l.part (digestPtr l) 64 with
    | (s, some b) => (s, le b 16 8, le b 24 8)
    | (s, none) => (s, 0, 0)
/-- The presence bitmap cleared (R55). Without a SUM axis no slot has a number, and nothing is cleared whatever FOLDWS says (DESIGN
CHOICE, entry 82). -/
def clearBitmap (s : State) (l : Launch) : State :=
  match sumAxis l with
  | none => s
  | some _ =>
    let n := ((axesIn l).map (grains l)).foldl (· * ·) 1
    (unitWrite s l.part (foldws l + 128) (zeros (128 * ceilDiv (ceilDiv n 8) 128))).1
/-- The lowest free launch slot of 1024. -/
def freeLaunchSlot (s : State) : Option Nat := (List.range 1024).find? fun k => (launchAt s k).isNone
/-- A launch that fails admission is done: its record, and its slot is free at once (R337). -/
def refuseAdmission (s : State) (k stat : Nat) (l : Launch) : State :=
  (putRecord (recComplete s k l stat) (recordOf k l stat false)).1
/-- The words of a header, where it can be read; one at an address that is no multiple of 128 is not. -/
def readHeader (s : State) (p a : Nat) : State × Option (List Word) :=
  if a % 128 ≠ 0 then (s, none)
  else
    match unitRead s p a 256 with
    | (s, some b) => (s, some (bytesWords 32 b))
    | (s, none) => (s, none)
/-- The entry a queue hands over next, and RHEAD beyond it. -/
def takeEntry (s : State) (r : ResQ) : State × Nat :=
  let (s, a) := match unitTake s r.part (r.rbase + 8 * (r.rhead % r.rnent)) 8 with
    | (s, some b) => (s, natOfBytes b)
    | (s, none) => (s, 0)
  let h := inc32 r.rhead
  (pumpQueue (setQueue (queueWrite s r.part r.q 20 h) { r with rhead := h }) r.part r.q, a)
/-- A launch admitted to a slot: Waiting. -/
def admitLaunch (s : State) (k : Nat) (r : ResQ) (l : Launch) (leaves : List (List Word)) : State :=
  let (s, ob, ol) := windowOf (clearBitmap s l) l
  let n := s.disp.admitted
  let l := { l with
    order := n
    leaves := leaves
    code := s.mem
    tenant := r.ten
    budget := budgetOf s l
    region := regionOf l
    slice := (field r.qctl 32 24).toNat
    obase := ob
    olen := ol }
  let s := setLaunch { s with disp := { s.disp with admitted := n + 1 } } k l
  recEvent s 0 1 l.part 0 (BitVec.ofNat 64 ((lidOf l).toNat + l.q * 2 ^ 32 + k * 2 ^ 44)) (BitVec.ofNat 64 l.hdrAddr)
/-- The launch at the head of a queue is admitted, or done with its record (R26, R337). Launch parcels that wait submit first: to a queue
that was stopped and whose QCTL has been written again they are its next submission (R335). -/
def execAdmission (p q : Nat) (s : State) : Host.Outcome State Fault Refusal :=
  match freeLaunchSlot s with
  | none => .next s
  | some k =>
    let waits : Bool := s.disp.held.any fun x => parcelQueue x = (p, q)
    if s.disp.stopped.contains (p, q) || !((resident s p q).isSome || s.disp.swapped.contains (p, q) || waits) then .next s
    else
      let (s, r) := loadQueue (pumpQueue s p q) p q
      if pendingIn r = 0 then .next s
      else
        let (s, a) := takeEntry s r
        match readHeader s p a with
        | (s, none) => .next (refuseAdmission s k cHDR (bareLaunch p q a []))
        | (s, some h) =>
          let l := bareLaunch p q a h
          match admitCheck s r l with
          | (s, .error stat) => .next (refuseAdmission s k stat l)
          | (s, .ok ls) => .next (admitLaunch s k r l ls)

end Sys2Proof.Machine
end

