-- ==== Sys2Proof/Machine/BoxOps.lean ====
section
/-! DEFINITION. Box reads, narrowing and verdicts (R32 to R40, R243 to R253). -/
namespace Sys2Proof.Machine

/-- The box a task reads (R243). -/
def myBox (s : State) : Box := (taskOf s).box.getD noBox
/-- The launch of the task, for a check against its counts; BAD_VERDICT where it has none. -/
def boxLaunch (s : State) : Res (Nat × Launch) :=
  match myLaunch s with
  | some x => .ok x
  | none => raise s cBAD_VERDICT
def need (s : State) (ok : Bool) : Res Unit := if ok then .ok () else raise s cBAD_VERDICT

def execBoxr (f : FmtK) (s : State) : Host.Outcome State Fault Refusal :=
  issue 0x0C0 (.k f) (seqBody fun s => do
    let (_, l) ← boxLaunch s
    need s (f.axis.toNat < naxes l)
    let a := axisOf (myBox s) f.axis.toNat
    return writeS s f.d ((if f.sub = 0#2 then a.org else a.ext).setWidth 64)) s
/-- The box's extent along an axis reduced, in the spur engine's copy and in the image (R28, R248). -/
def narrow (s : State) (k : Nat) (axis : Nat) (v : BitVec 32) : State :=
  let upd (b : Box) : Box := { b with axes := setNth b.axes axis { axisOf b axis with ext := v }, narrowed := true }
  let name := (myBox s).name
  let s := modTask s fun t => { t with box := t.box.map upd }
  let s := modBox s k name fun r => { r with box := upd r.box }
  let wp := (taskOf s).wp
  modCore s s.cur fun c =>
    let c := storeSetWord c (wp + 256 + 8 * axis) (v ++ field (storeWord c (wp + 256 + 8 * axis)) 0 32)
    storeSetWord c (wp + 328) (storeWord c (wp + 328) ||| (1#64 <<< 40))
def execBoxn (f : FmtK) (s : State) : Host.Outcome State Fault Refusal :=
  issue 0x0C1 (.k f) (seqBody fun s => do
    need s ((taskOf s).kind = .rule)
    let (k, l) ← boxLaunch s
    need s (f.axis.toNat < naxes l)
    let v := readS s f.a
    let e := (axisOf (myBox s) f.axis.toNat).ext
    need s (v.toNat ≤ e.toNat)
    return if v.toNat < e.toNat then narrow s k f.axis.toNat (v.setWidth 32) else s) s
def execPathOp (f : FmtK) (s : State) : Host.Outcome State Fault Refusal :=
  issue 0x0C2 (.k f) (seqBody fun s =>
    let b := myBox s
    .ok (writeS s f.d (if f.sub = 0#2 then b.name else if f.sub = 1#2 then field b.modes 0 64 else field b.modes 64 64))) s
/-- Waiting leaves of a cluster, spilled ones included. -/
def waitCount (l : Launch) (cid : Nat) : Nat := ((boxesAt l cid).filter fun b => b.phase = .leafWait).length
def execFitq (f : FmtK) (s : State) : Host.Outcome State Fault Refusal :=
  issue 0x0C7 (.k f) (seqBody fun s => do
    let (_, l) ← boxLaunch s
    need s (f.leaf.toNat < nleaves l)
    let n := min (setsNeeded l f.leaf.toNat (myBox s)) 0xFFFFFFFF
    let w := min (waitCount l (cidOf s.cur)) 255
    let fr := (freeSets (getCl s (cidOf s.cur))).length
    return writeS s f.d (BitVec.ofNat 64 (n * 2 ^ 32 + w * 2 ^ 8 + fr))) s
def execRuleq (f : FmtK) (s : State) : Host.Outcome State Fault Refusal :=
  issue 0x0C8 (.k f) (seqBody fun s => do
    let (_, l) ← boxLaunch s
    let i := (readS s f.a).toNat
    need s (i < nrules l)
    return writeS s f.d ((ruleEntry l i).setWidth 64)) s

/-! Verdicts (R249). -/

/-- What the spur engine makes of a verdict. -/
inductive Verdict where
  | prune (outcome : Nat)
  | cut (axis mode lr rr join : Nat)
  | leaf (j : Nat) (refused fits : Bool)
deriving DecidableEq, Repr

/-- A refusal (R35): the default leaf of the box's rule, or BAD_VERDICT. -/
def refuse (s : State) (l : Launch) (b : Box) : Res Verdict :=
  let j := ruleDleaf l b.rule
  if nleaves l = 0 || 8 < setsNeeded l j b then raise s cBAD_VERDICT else .ok (.leaf j true false)
/-- Steps 3 to 6 of R249: the wait for what the task issued, the spur engine's step, and the end of the task. -/
def verdict (s : State) (k : Nat) (l : Launch) (decide' : State → Launch → Box → Res Verdict) : Res (State × Flow) := do
  let b := myBox s
  if busyIds s k l [(taskOf s).det.id] then .error (.wait s)
  else
    let v ← if boxEmpty b then Except.ok (Verdict.prune 4) else decide' s l b
    let s ← sendRelease s
    let h := (taskOf s).handle
    let tbl := (taskOf s).det.acq
    let s := match v with
      | .prune o => pruneBox s k b.name o
      | .cut a m lr rr j => cutBox s k b.name a m lr rr j h tbl
      | .leaf j r fits => leafBox s k b.name j r fits h tbl
    return (endRunning s, .over)
/-- A rule task's launch; any other task's verdict is BAD_VERDICT (R249 step 2). -/
def ruleLaunch (s : State) : Res (Nat × Launch) := do
  need s ((taskOf s).kind = .rule)
  boxLaunch s
def execSplitOp (f : FmtK) (s : State) : Host.Outcome State Fault Refusal :=
  issue 0x0C3 (.k f) (fun s => do
    let (k, l) ← ruleLaunch s
    let a := f.axis.toNat
    need s (a < naxes l && f.lr.toNat < nrules l && f.rr.toNat < nrules l && (f.join = 31#5 || f.join.toNat < nrules l))
    need s (f.mode.toNat = modeOfRole (roleOf l a))
    verdict s k l fun s l b =>
      if (axisOf b a).ext.toNat ≤ grainOf l a || depthOf b.name = 58 then refuse s l b
      else .ok (.cut a f.mode.toNat f.lr.toNat f.rr.toNat f.join.toNat)) s
/-- The axis a splitf cuts (R36): the most grains, the lowest index on a tie. -/
def widest (l : Launch) (b : Box) (mask : BitVec 8) : Option Nat :=
  let n (a : Nat) : Nat := ceilDiv (axisOf b a).ext.toNat (max 1 (grainOf l a))
  let ok := (List.range 8).filter fun a => bit mask a && grainOf l a < (axisOf b a).ext.toNat
  ok.foldl (fun r a =>
    match r with
    | none => some a
    | some x => if n x < n a then some a else some x) none
def execSplitf (f : FmtK) (s : State) : Host.Outcome State Fault Refusal :=
  issue 0x0C4 (.k f) (fun s => do
    let (k, l) ← ruleLaunch s
    need s (f.mask ≠ 0#8 && f.mask.toNat &&& (255 - ruleFmask l (myBox s).rule) = 0)
    need s (f.leaf.toNat < nleaves l && (f.join = 31#5 || f.join.toNat < nrules l))
    verdict s k l fun s l b =>
      let n := setsNeeded l f.leaf.toNat b
      if n ≤ 8 && n ≤ (freeSets (getCl s (cidOf s.cur))).length then .ok (.leaf f.leaf.toNat false true)
      else
        match widest l b f.mask with
        | none => refuse s l b
        | some a =>
          if depthOf b.name = 58 then refuse s l b
          else
            let m := modeOfRole (roleOf l a)
            .ok (.cut a m b.rule b.rule (if m = 0 then 31 else f.join.toNat))) s
def execPrune (f : FmtK) (s : State) : Host.Outcome State Fault Refusal :=
  issue 0x0C5 (.k f) (fun s => do
    let (k, l) ← ruleLaunch s
    verdict s k l fun _ _ _ => .ok (.prune 1)) s
def execLeafOp (f : FmtK) (s : State) : Host.Outcome State Fault Refusal :=
  issue 0x0C6 (.k f) (fun s => do
    let (k, l) ← ruleLaunch s
    need s (f.leaf.toNat < nleaves l)
    need s (setsNeeded l f.leaf.toNat (myBox s) ≤ 8)
    verdict s k l fun _ _ _ => .ok (.leaf f.leaf.toNat false false)) s

end Sys2Proof.Machine
end

