-- ==== Sys2Proof/Machine/EngineIssue.lean ====
section
/-! DEFINITION. Issuing engine operations, and xstat (R162, R166, R272, R280, R283). -/
namespace Sys2Proof.Machine

/-! Descriptors: the head's words (R163, R167, R282). -/

def dCtl (w : List Word) : Word := w.getD 0 0
def dWord (w : List Word) (i : Nat) : Word := w.getD i 0
/-- The source and destination spaces an operation's control word names (R163, R282): bits [1:0] of each. -/
def srcSpace (k : EngKind) (c : Word) : Nat := if k = .reduce then (field c 48 2).toNat else (field c 46 2).toNat
def dstSpace (k : EngKind) (c : Word) : Nat := if k = .reduce then (field c 46 2).toNat else (field c 44 2).toNat
/-- The scratchpad addresses and references a descriptor names, in the order they are checked at issue: word number and word (R280). -/
def namedAddrs (k : EngKind) (w : List Word) : List (Nat × Word) :=
  let s := srcSpace k (dCtl w) = 1 && k ≠ .fill
  let d := dstSpace k (dCtl w) = 1
  (if s then [(1, dWord w 1)] else []) ++ (if d then [(2, dWord w 2)] else [])
    ++ (if bit (dWord w 4) 63 then [(4, dWord w 4)] else []) ++ (if bit (dWord w 5) 63 then [(5, dWord w 5)] else [])
    ++ (if k = .compact then
        (if s then [(10, dWord w 10)] else []) ++ (if d then [(13, dWord w 13), (14, dWord w 14)] else [])
      else [])
/-- Words of a counter or status reference whose reserved bits are not zero (R272). -/
def badRef (r : Word) : Bool := field r 32 31 ≠ 0#31
def kindTag : EngKind → Nat
  | .copy => 0
  | .compact => 1
  | .fill => 2
  | .reduce => 3
def kindOp : EngKind → Nat
  | .copy => 0x180
  | .compact => 0x181
  | .fill => 0x182
  | .reduce => 0x183
/-- The engine-command parcel of an operation, sent to an engine of the issuing core's cluster (R162, R280). -/
def sendOp (s : State) (e : Nat) (o : EngOp) : State :=
  let hdr := mkHdr 3 (BitVec.ofNat 12 (kindTag o.kind)) (coreIdOf (coreNo (cidOf s.cur) e)) (myClass s) (tenantOf s) 1 none (mySlot s)
  putParcel s { parcelFrom s hdr [o.ref] o.acq with op := some o }
/-- The descriptor's head, and for xcompact its body, read by the issuing task (R280). -/
def descHead (s : State) (k : EngKind) (r : Word) : Res (State × List Word) := do
  let n := if k = .compact then 128 else 64
  if bit r 63 then do
    let l ← spCheck s ((field r 0 32).setWidth 64) n 64 false
    return (s, bytesWords (n / 8) (locRead s l n))
  else if 2 ^ 49 ≤ r.toNat then
    .error (.trap { code := cPAGE, cause := 0, addr := r, aux0 := BitVec.ofNat 64 (256 * Nat.log2 n) } s)
  else if r.toNat % 64 ≠ 0 then raiseAt s cALIGN r
  else do
    let (s, b) ← devRead s r.toNat n
    return (s, bytesWords (n / 8) b)
/-- Orders 1 and 2 of R100 for an address of a descriptor; words 4 and 5 are references (R272). -/
def namedSet (s : State) (a : Nat × Word) : Res (Nat × BitVec 32) :=
  if a.1 = 4 || a.1 = 5 then (if badRef a.2 then raiseAt s cRANGE a.2 else spHandle s ((field a.2 0 32).setWidth 64))
  else spHandle s a.2
/-- The sets an operation names are recorded at its issue (R280). -/
def recordSets (s : State) (as_ : List (Nat × Word)) : Res (List (Nat × Nat)) :=
  as_.foldl (fun r a => do
    let acc ← r
    let (h, e) ← namedSet s a
    return acc ++ [(h, bmSet e)]) (Except.ok [])
/-- The issue of an engine operation (R280): it goes to its engine in an engine-command parcel, and the engine's operations run in the
order their parcels are accepted (R162). Parcels of one core and class keep their order (R150); for the others the spec fixes none,
and the order is the schedule's, as for every parcel (entry 80). -/
def engineBody (k : EngKind) (f : FmtE) : Body := seqBody fun s => do
  let r := readS s f.a
  let (s, w) ← descHead s k r
  let own := if bit r 63 then [(0, (field r 0 32).setWidth 64)] else []
  let sets ← recordSets s (own ++ namedAddrs k w)
  let s ← sendRelease s
  let d := (taskOf s).det
  let o : EngOp :=
    { kind := k, ref := r, head := w, core := s.cur, slot := slotOr s, id := d.id, handle := (taskOf s).handle, no := d.issued + 1,
      acq := sentAcq s, stamp := 0, sets := sets, all := bit f.sub 0, peer := bit f.sub 1, cls := (taskOf s).cls }
  return sendOp (setDet s { d with issued := d.issued + 1 }) f.core.toNat o
def execXcopy (f : FmtE) (s : State) : Host.Outcome State Fault Refusal := issue 0x180 (.e f) (engineBody .copy f) s
def execXcompact (f : FmtE) (s : State) : Host.Outcome State Fault Refusal := issue 0x181 (.e f) (engineBody .compact f) s
def execXfill (f : FmtE) (s : State) : Host.Outcome State Fault Refusal := issue 0x182 (.e f) (engineBody .fill f) s
def execXred (f : FmtE) (s : State) : Host.Outcome State Fault Refusal := issue 0x183 (.e f) (engineBody .reduce f) s

/-- The operations an engine has accepted and not started, in order. -/
def engQueue (s : State) (cid e : Nat) : List EngOp := if e = 0 then (getCl s cid).eng0 else (getCl s cid).eng1
/-- Fault parcels in flight for operations of a core on an engine: they have not joined (R283, R367). -/
def engFaults (s : State) (c e : Nat) : Nat :=
  (s.net.filter fun p => p.hw && p.from_ = c && (field (p.payload.headD 0) 36 4).toNat = 1 + e).length
/-- Operations a core has sent to an engine whose parcels are in flight. -/
def sentTo (s : State) (c e : Nat) : Nat := (s.net.filter fun p => p.op.isSome && p.from_ = c && hCore p.hdr = e).length
/-- The operations that an engine of a cluster has accepted and not finished: queued, or contributions that wait in a reduction. -/
def accepted (s : State) (cid e : Nat) : List EngOp :=
  engQueue s cid e ++ ((openContribs s).filter fun c => cidOf c.op.core = cid && c.eng = e).map fun c => c.op
def execXstat (f : FmtE) (s : State) : Host.Outcome State Fault Refusal :=
  issue 0x184 (.e f) (seqBody fun s =>
    let e := f.core.toNat
    let q := accepted s (cidOf s.cur) e
    let mine := sentTo s s.cur e + (q.filter fun o => o.core = s.cur).length + engFaults s s.cur e
    .ok (writeS s f.d (BitVec.ofNat 64 (mine % 2 ^ 16 + q.length % 2 ^ 16 * 2 ^ 16)))) s

end Sys2Proof.Machine
end

