-- ==== Sys2Proof/Machine/Crypto.lean ====
section
/-! DEFINITION. SHA-384 and ECDSA P-384, which R398, R399 and R401 name and the spec does not define: taken from FIPS 180-4 and
FIPS 186-5, with the order of a digest's bytes (PRESUMED, entry 5). -/
namespace Sys2Proof.Machine

/-! ## SHA-384 -/

/-- The eight words of a hash in progress. -/
structure ShaState where
  a : Word
  b : Word
  c : Word
  d : Word
  e : Word
  f : Word
  g : Word
  h : Word
deriving DecidableEq, Repr

def shaInit : ShaState :=
  ⟨0xCBBB9D5DC1059ED8#64, 0x629A292A367CD507#64, 0x9159015A3070DD17#64, 0x152FECD8F70E5939#64,
   0x67332667FFC00B31#64, 0x8EB44A8768581511#64, 0xDB0C2E0D64F98FA7#64, 0x47B5481DBEFA4FA4#64⟩
def shaK0 : List Word := 
  [0x428A2F98D728AE22#64, 0x7137449123EF65CD#64, 0xB5C0FBCFEC4D3B2F#64, 0xE9B5DBA58189DBBC#64, 0x3956C25BF348B538#64] ++
  [0x59F111F1B605D019#64, 0x923F82A4AF194F9B#64, 0xAB1C5ED5DA6D8118#64, 0xD807AA98A3030242#64, 0x12835B0145706FBE#64] ++
  [0x243185BE4EE4B28C#64, 0x550C7DC3D5FFB4E2#64, 0x72BE5D74F27B896F#64, 0x80DEB1FE3B1696B1#64, 0x9BDC06A725C71235#64] ++
  [0xC19BF174CF692694#64, 0xE49B69C19EF14AD2#64, 0xEFBE4786384F25E3#64, 0x0FC19DC68B8CD5B5#64, 0x240CA1CC77AC9C65#64]
def shaK1 : List Word := 
  [0x2DE92C6F592B0275#64, 0x4A7484AA6EA6E483#64, 0x5CB0A9DCBD41FBD4#64, 0x76F988DA831153B5#64, 0x983E5152EE66DFAB#64] ++
  [0xA831C66D2DB43210#64, 0xB00327C898FB213F#64, 0xBF597FC7BEEF0EE4#64, 0xC6E00BF33DA88FC2#64, 0xD5A79147930AA725#64] ++
  [0x06CA6351E003826F#64, 0x142929670A0E6E70#64, 0x27B70A8546D22FFC#64, 0x2E1B21385C26C926#64, 0x4D2C6DFC5AC42AED#64] ++
  [0x53380D139D95B3DF#64, 0x650A73548BAF63DE#64, 0x766A0ABB3C77B2A8#64, 0x81C2C92E47EDAEE6#64, 0x92722C851482353B#64]
def shaK2 : List Word := 
  [0xA2BFE8A14CF10364#64, 0xA81A664BBC423001#64, 0xC24B8B70D0F89791#64, 0xC76C51A30654BE30#64, 0xD192E819D6EF5218#64] ++
  [0xD69906245565A910#64, 0xF40E35855771202A#64, 0x106AA07032BBD1B8#64, 0x19A4C116B8D2D0C8#64, 0x1E376C085141AB53#64] ++
  [0x2748774CDF8EEB99#64, 0x34B0BCB5E19B48A8#64, 0x391C0CB3C5C95A63#64, 0x4ED8AA4AE3418ACB#64, 0x5B9CCA4F7763E373#64] ++
  [0x682E6FF3D6B2B8A3#64, 0x748F82EE5DEFB2FC#64, 0x78A5636F43172F60#64, 0x84C87814A1F0AB72#64, 0x8CC702081A6439EC#64]
def shaK3 : List Word := 
  [0x90BEFFFA23631E28#64, 0xA4506CEBDE82BDE9#64, 0xBEF9A3F7B2C67915#64, 0xC67178F2E372532B#64, 0xCA273ECEEA26619C#64] ++
  [0xD186B8C721C0C207#64, 0xEADA7DD6CDE0EB1E#64, 0xF57D4F7FEE6ED178#64, 0x06F067AA72176FBA#64, 0x0A637DC5A2C898A6#64] ++
  [0x113F9804BEF90DAE#64, 0x1B710B35131C471B#64, 0x28DB77F523047D84#64, 0x32CAAB7B40C72493#64, 0x3C9EBE0A15C9BEBC#64] ++
  [0x431D67C49C100D4C#64, 0x4CC5D4BECB3E42B6#64, 0x597F299CFC657E2A#64, 0x5FCB6FAB3AD6FAEC#64, 0x6C44198C4A475817#64]
/-- The round constants. -/
def shaK : List Word := shaK0 ++ shaK1 ++ shaK2 ++ shaK3
def shaRot (x : Word) (a b c : Nat) : Word := x.rotateRight a ^^^ x.rotateRight b ^^^ x.rotateRight c
/-- The next word of a message schedule, from the sixteen before it, the newest first. -/
def shaNext (l : List Word) : Word :=
  let x := l.getD 14 0
  let y := l.getD 1 0
  (y.rotateRight 19 ^^^ y.rotateRight 61 ^^^ (y >>> 6)) + l.getD 6 0 + (x.rotateRight 1 ^^^ x.rotateRight 8 ^^^ (x >>> 7)) + l.getD 15 0
/-- A schedule of 80 words, from the sixteen of the block. -/
def shaSchedule (m : List Word) : List Word := ((List.range 64).foldl (fun l _ => shaNext l :: l) m.reverse).reverse
def shaRound (s : ShaState) (k w : Word) : ShaState :=
  let t1 := s.h + shaRot s.e 14 18 41 + ((s.e &&& s.f) ^^^ (~~~s.e &&& s.g)) + k + w
  let t2 := shaRot s.a 28 34 39 + ((s.a &&& s.b) ^^^ (s.a &&& s.c) ^^^ (s.b &&& s.c))
  ⟨t1 + t2, s.a, s.b, s.c, s.d + t1, s.e, s.f, s.g⟩
def shaBlock (s : ShaState) (m : List Word) : ShaState :=
  let t := (shaK.zip (shaSchedule m)).foldl (fun t q => shaRound t q.1 q.2) s
  ⟨s.a + t.a, s.b + t.b, s.c + t.c, s.d + t.d, s.e + t.e, s.f + t.f, s.g + t.g, s.h + t.h⟩
/-- A number from its bytes, the highest first. -/
def natOfBig (l : List Byte) : Nat := l.foldl (fun a b => 256 * a + b.toNat) 0
/-- The bytes of a number, the highest first. -/
def bigBytes (n x : Nat) : List Byte := (bytesOfNat n x).reverse
/-- A message with its padding: whole blocks of 128 bytes. -/
def shaPad (m : List Byte) : List Byte :=
  m ++ 0x80#8 :: (List.replicate ((239 - m.length % 128) % 128) 0#8 ++ bigBytes 16 (8 * m.length))
/-- The blocks of a padded message taken one after another; `n` is how many there are. -/
def shaBlocks : Nat → ShaState → List Byte → ShaState
  | 0, s, _ => s
  | n + 1, s, l => shaBlocks n (shaBlock s ((List.range 16).map fun i => BitVec.ofNat 64 (natOfBig ((l.drop (8 * i)).take 8)))) (l.drop 128)
/-- The 48 bytes of a digest. -/
def sha384 (m : List Byte) : List Byte :=
  let p := shaPad m
  let s := shaBlocks (p.length / 128) shaInit p
  [s.a, s.b, s.c, s.d, s.e, s.f].flatMap fun x : Word => bigBytes 8 x.toNat

/-! ## The curve P-384 -/

/-- The field's prime. -/
def p384 : Nat := 0xFFFFFFFFFFFFFFFFFFFFFFFFFFFFFFFFFFFFFFFFFFFFFFFFFFFFFFFFFFFFFFFEFFFFFFFF0000000000000000FFFFFFFF
/-- The order of the base point. -/
def n384 : Nat := 0xFFFFFFFFFFFFFFFFFFFFFFFFFFFFFFFFFFFFFFFFFFFFFFFFC7634D81F4372DDF581A0DB248B0A77AECEC196ACCC52973
def b384 : Nat := 0xB3312FA7E23EE7E4988E056BE3F82D19181D9C6EFE8141120314088F5013875AC656398D8A2ED19D2A85C8EDD3EC2AEF
def mulMod (m a b : Nat) : Nat := a * b % m
def subMod (m a b : Nat) : Nat := (a + (m - b % m)) % m
/-- A power modulo `m`, by the exponent's 384 bits. -/
def powMod (m a e : Nat) : Nat :=
  (List.range 384).foldr (fun i r => if e.testBit i then mulMod m (mulMod m r r) a else mulMod m r r) 1
/-- The inverse modulo a prime. -/
def invMod (m a : Nat) : Nat := powMod m (a % m) (m - 2)
/-- A point in Jacobian coordinates; `z = 0` is the point at infinity. -/
structure CurvePt where
  x : Nat
  y : Nat
  z : Nat
deriving DecidableEq, Repr
def curveBase : CurvePt :=
  ⟨0xAA87CA22BE8B05378EB1C71EF320AD746E1D3B628BA79B9859F741E082542A385502F25DBF55296C3A545E3872760AB7,
   0x3617DE4A96262C6F5D9E98BF9292DC29F8F41DBD289A147CE9DA3113B5F0B8C00A60B1CE1D7E819D7A431D7C90EA0E5F, 1⟩
def curveDouble (q : CurvePt) : CurvePt :=
  let m := mulMod p384
  let u := subMod p384
  let dd := m q.z q.z
  let gg := m q.y q.y
  let bb := m q.x gg
  let aa := m 3 (m (u q.x dd) ((q.x + dd) % p384))
  let x := u (m aa aa) (8 * bb)
  ⟨x, u (m aa (u (4 * bb) x)) (8 * m gg gg), u (u (m (q.y + q.z) (q.y + q.z)) gg) dd⟩
def curveAdd (q r : CurvePt) : CurvePt :=
  let m := mulMod p384
  let u := subMod p384
  if q.z = 0 then r
  else if r.z = 0 then q
  else
    let zz := m q.z q.z
    let ww := m r.z r.z
    let x1 := m q.x ww
    let x2 := m r.x zz
    let y1 := m q.y (m r.z ww)
    let y2 := m r.y (m q.z zz)
    if x1 = x2 then (if y1 = y2 then curveDouble q else ⟨1, 1, 0⟩)
    else
      let h := u x2 x1
      let d := u y2 y1
      let hh := m h h
      let x := u (u (m d d) (m h hh)) (2 * m x1 hh)
      ⟨x, u (m d (u (m x1 hh) x)) (m y1 (m h hh)), m h (m q.z r.z)⟩
/-- A multiple of a point. -/
def curveMul (k : Nat) (q : CurvePt) : CurvePt :=
  (List.range 384).foldr (fun i r => if k.testBit i then curveAdd (curveDouble r) q else curveDouble r) ⟨1, 1, 0⟩
/-- The affine coordinates of a point that is not at infinity. -/
def curveAffine (q : CurvePt) : Nat × Nat :=
  let i := invMod p384 q.z
  let ii := mulMod p384 i i
  (mulMod p384 q.x ii, mulMod p384 q.y (mulMod p384 i ii))
def onCurve (x y : Nat) : Bool :=
  x < p384 && y < p384 && y * y % p384 = (x * x * x + (p384 - 3) * x + b384) % p384

/-! ## ECDSA P-384 -/

/-- Verification of a digest: public key X then Y, signature r then s, each little-endian (R398). -/
def ecdsaVerify (digest key sig : List Byte) : Bool :=
  let x := natOfBytes (key.take 48)
  let y := natOfBytes ((key.drop 48).take 48)
  let r := natOfBytes (sig.take 48)
  let s := natOfBytes ((sig.drop 48).take 48)
  let w := invMod n384 s
  let q := curveAdd (curveMul (mulMod n384 (natOfBig digest) w) curveBase) (curveMul (mulMod n384 r w) ⟨x, y, 1⟩)
  onCurve x y && 1 ≤ r && r < n384 && 1 ≤ s && s < n384 && q.z ≠ 0 && (curveAffine q).1 % n384 = r
/-- The fused identity key, a number from 1 to n - 1, and a signature's nonce in the same range. -/
def idSecret : Nat := 1 + Config.idSecret % (n384 - 1)
def idNonce (count : Nat) : Nat := 1 + Config.idNonce count % (n384 - 1)
/-- The identity public key, X then Y (R400). -/
def idKey : List Byte :=
  let q := curveAffine (curveMul idSecret curveBase)
  bytesOfNat 48 q.1 ++ bytesOfNat 48 q.2
/-- The signature of a digest with the identity key, r then s, each little-endian (R401); `count` is how many signatures came before. -/
def ecdsaSign (digest : List Byte) (count : Nat) : List Byte :=
  let k := idNonce count
  let r := (curveAffine (curveMul k curveBase)).1 % n384
  let s := mulMod n384 (invMod n384 k) ((natOfBig digest + r * idSecret) % n384)
  bytesOfNat 48 r ++ bytesOfNat 48 s

end Sys2Proof.Machine
end

