-- ==== Sys2Proof/Machine/HostMap.lean ====
section
/-! DEFINITION. The host address map: what each word reads as, and what a write of it does (R178, R378 to R402, R404, R411 to
R415). -/
namespace Sys2Proof.Machine

/-! ## Statuses and words (R381) -/

def stOK : Nat := 0
def stRANGE : Nat := 1
def stGUARD : Nat := 2
def stBUSY : Nat := 3
def stTENANT : Nat := 4
def stDENIED : Nat := 5
def portOf (b : Bool) (s : State) : PortSt := if b then s.host.pb else s.host.pa
def modPort (s : State) (b : Bool) (f : PortSt → PortSt) : State :=
  { s with host := if b then { s.host with pb := f s.host.pb } else { s.host with pa := f s.host.pa } }
def modBoot (s : State) (f : Boot → Boot) : State := { s with host := { s.host with boot := f s.host.boot } }
def bootOf (s : State) : Boot := s.host.boot
/-- A word of a list of bytes. -/
def wordAt (l : List Byte) (o : Nat) : Word := wordOfBytes ((l.drop o).take 8)
def bootStat (s : State) : Word :=
  BitVec.ofNat 64 ((bootOf s).stage * 2 ^ 56 + (bootOf s).err * 2 ^ 48 + (bootOf s).svn.toNat * 2 ^ 16)
def inRecovery (s : State) : Bool := (bootOf s).stage = 15
def isRunning (s : State) : Bool := (bootOf s).stage = 8

/-! ## Semaphores (R382, R383) -/

def semOf (s : State) (n : Nat) : Word := look 0 s.host.sems n
def setSem (s : State) (n : Nat) (w : Word) : State := { s with host := { s.host with sems := writeOne 0 s.host.sems n w } }
def semHeld (w : Word) : Bool := bit w 63
def semBy (w : Word) (b : Bool) : Bool := bit w 63 && bit w 62 = b
/-- A semaphore released: TIE and COUNT stand. -/
def semFree (w : Word) : Word := setField w 62 0#2
/-- A free semaphore acquired by a port. -/
def semTake (w : Word) (b : Bool) : Word :=
  setField (setField (setField w 63 1#1) 62 (b1 b)) 0 (field w 0 32 + 1)
/-- Every semaphore of a port released (R383). -/
def releasePort (s : State) (b : Bool) : State :=
  (List.range 32).foldl (fun s n => if semBy (semOf s n) b then setSem s n (semFree (semOf s n)) else s) s

/-! ## Reads (R380, R382, R385, R397, R400, R404, R413 to R415) -/

/-- A word of a partition's descriptor: PCTL.V reads one once its clusters are prepared (R393). -/
def descWord (s : State) (p i : Nat) : Word :=
  if i = 0 then setField (partWord s p 0) 63 (b1 (getPart s p).valid)
  -- bytes 99 to 127 and HPORT [7:1] read zero (R8, R391); what was written there is kept for order 1 of R393 alone (entry 84)
  else if i = 12 then partWord s p 12 &&& 0x1FFFF#64
  else if 12 < i then 0
  else partWord s p i
/-- The bits of a communicator's words that are not reserved (R397): the others read zero and ignore writes (R8). -/
def commBits (i : Nat) : Word :=
  if i = 0 then 0x87FFFFF000000000#64
  else if i = 1 then BitVec.allOnes 64
  else if i = 2 then 0x800F800F800F800F#64
  else if i = 3 then 0x800F800F#64
  else 0
def tableBytes (s : State) : List Byte := (List.range 128).flatMap fun i => bytesOf 8 (descWord s (i / 16) (i % 16))
/-- The entry a recorder window shows at an index of the ring: event numbers fall on their number modulo 4096. -/
def ringEntry (d : Die) (i : Nat) : Option REntry := d.ring.find? fun e => e.seq % 4096 = i % 4096
def entryWord (e : REntry) (i : Nat) : Word :=
  if i = 0 then BitVec.ofNat 64 e.time
  else if i = 1 then BitVec.ofNat 64 (e.seq + e.kind * 2 ^ 32 + e.part % 256 * 2 ^ 40 + e.clid * 2 ^ 48)
  else if i = 2 then e.w0
  else e.w1
def fselDie (s : State) : Nat := (field (bootOf s).fsel 12 2).toNat
def windowWord (s : State) (o : Nat) : Word :=
  match ringEntry (getDie s (fselDie s)) ((field (bootOf s).fsel 0 12).toNat + o / 32) with
  | some e => entryWord e (o % 32 / 8)
  | none => 0
/-- An island's prediction (R415). -/
def wearWord (x : Island) (hi : Bool) : Word :=
  if hi then BitVec.ofNat 64 (x.high.toNat + x.drift.toNat * 2 ^ 32 + x.stress.toNat * 2 ^ 48)
  else BitVec.ofNat 64 (x.eol.toNat + x.low.toNat * 2 ^ 32)
def islandWord (x : Island) : Word := BitVec.ofNat 64 (x.point * 2 ^ 56 + x.wanted * 2 ^ 48 + x.sensor.toNat)
def dieCounter (d : Die) (i : Nat) : Word :=
  if i = 0 then d.corrMem else if i = 1 then d.corrChip else if i = 2 then d.uncorr else d.lane
/-- A word of the status and attestation region, by offset from 0x42000. -/
def attWord (s : State) (o : Nat) : Option Word :=
  let b := bootOf s
  if o = 0 then some (bootStat s)
  else if o = 0x008 then some Config.fuseSerial
  else if 0x040 ≤ o && o < 0x070 then some (wordAt b.meas (o - 0x040))
  else if 0x080 ≤ o && o < 0x0E0 then some (wordAt idKey (o - 0x080))
  else if 0x100 ≤ o && o < 0x1C0 then some (wordAt b.arep (o - 0x100))
  else if 0x1C0 ≤ o && o < 0x220 then some (wordAt b.asig (o - 0x1C0))
  else if o = 0x220 then some (BitVec.ofNat 64 ((if b.avalid then 1 else 0) + if b.building then 2 else 0))
  else if 0x400 ≤ o && o < 0x580 then some (wearWord (getIsland s ((o - 0x400) / 16)) (decide (o % 16 = 8)))
  else if 0x600 ≤ o && o < 0x680 then some (dieCounter (getDie s ((o - 0x600) / 32)) (o % 32 / 8))
  else if 0x680 ≤ o && o < 0x740 then some (islandWord (getIsland s ((o - 0x680) / 8)))
  else if 0x740 ≤ o && o < 0x760 then
    some (BitVec.ofNat 64 ((if (getDie s ((o - 0x740) / 8)).frozen then 2 ^ 63 else 0) + (getDie s ((o - 0x740) / 8)).seq % 2 ^ 32))
  else if 0x800 ≤ o && o < 0x1000 then some (windowWord s (o - 0x800))
  else none
def istatWord (p : PortSt) : Word := BitVec.ofNat 64 ((if p.busy then 2 ^ 63 else 0) + p.aborted * 2 ^ 8 + p.status)
/-- What the 8-byte word at an address reads as for a port; none where nothing is mapped. Words that only take writes read zero. -/
def regRead (s : State) (b : Bool) (a : Nat) : Option Word :=
  if a < 0x10000 then
    if a = 0x00 || a = 0x70 then some 0
    else if 0x40 ≤ a && a < 0x70 then some (wordOfBytes ((List.range 8).map fun i => look 0 (bootOf s).anonce (a - 0x40 + i)))
    else if a = 0x100 then some ((bootOf s).fsel &&& 0x3FFF#64)
    else none
  else if a < 0x20000 then
    if a < 0x10400 then some (descWord s ((a - 0x10000) / 128) (a % 128 / 8)) else none
  else if a < 0x30000 then some (look 0 (bootOf s).cfg2 ((a - 0x20000) / 8))
  else if a < 0x40000 then
    if a < 0x30090 then some 0
    else if 0x30100 ≤ a && a < 0x301C0 then some (BitVec.ofNat 64 (getIsland s ((a - 0x30100) / 8)).wanted)
    else none
  else if a < 0x40100 then some (semOf s ((a - 0x40000) / 8))
  else if 0x41000 ≤ a && a < 0x41090 then
    if a < 0x41080 then some (look 0 (portOf b s).image ((a - 0x41000) / 8)) else if a = 0x41080 then some 0 else some (istatWord (portOf b s))
  else if 0x42000 ≤ a && a < 0x43000 then attWord s (a - 0x42000)
  else if 0x100000 ≤ a && a < 0x500000 then
    some (wordOfBytes ((List.range 8).map fun i => look 0 (bootOf s).window (a - 0x100000 + i)))
  else none

/-! ## Transactions as words -/

def sizeOk (t : HostTx) : Bool := [1, 2, 4, 8, 16, 32, 64, 128].contains t.size && t.addr % t.size = 0
def isAperture (a : Nat) : Bool := 2 ^ 47 ≤ a && a < 2 ^ 48
/-- Addresses of the 8-byte words a transaction touches. -/
def wordsOf (t : HostTx) : List Nat := (List.range (max 1 (t.size / 8))).map fun i => t.addr / 8 * 8 + 8 * i
def txBytes (t : HostTx) : List Byte := (t.data.getD [] ++ zeros t.size).take t.size
/-- The bits a write puts into the word at an address, and their mask. -/
def txWord (t : HostTx) (a : Nat) : Word × Word :=
  if t.size < 8 then
    let o := 8 * (t.addr % 8)
    (BitVec.ofNat 64 (natOfBytes (txBytes t) * 2 ^ o), BitVec.ofNat 64 ((2 ^ (8 * t.size) - 1) * 2 ^ o))
  else (wordAt (txBytes t) (a - t.addr), BitVec.allOnes 64)
def mergeWord (old d m : Word) : Word := (old &&& ~~~m) ||| (d &&& m)
/-- The bits a write puts into a word, all others zero: what a word that only takes writes sees. -/
def txBits (t : HostTx) (a : Nat) : Word :=
  if (wordsOf t).contains a then (txWord t a).1 &&& (txWord t a).2 else 0
def portB (t : HostTx) : Bool := t.port = .b

/-! ## Device memory through the aperture (R388) -/

/-- The physical address that an aperture transaction reaches; none where it completes with RANGE. -/
def apertureAt (s : State) (t : HostTx) : Option Nat :=
  let p := (t.addr - 2 ^ 47) / 2 ^ 44
  let pa := t.addr % 2 ^ 44
  if (getPart s p).valid && (partWord s p 2).toNat ≤ pa && pa + t.size ≤ (partWord s p 3).toNat then some pa else none
def hostLineBad (s : State) (pa : Nat) : State := readBad (meets s (bitsOf pa 15 12 / 4)) 0 pa 0 []
/-- A host write of part of a line reads the rest of it, and the line's code is computed anew. -/
def hostPut (s : State) (pa : Nat) (bs : List Byte) : State :=
  let s := meets (if bs.length < 128 then hostLineBad s pa else s) (bitsOf pa 15 12 / 4)
  qctlSeen (memWrite (recoded s pa 1) pa bs) pa bs.length

/-- Whether a launch of a partition runs: not while it waits or is saved, nor when only its record is still to be written. -/
def launchRuns (s : State) (p : Nat) : Bool :=
  s.launches.any fun e =>
    e.2.part = p && e.2.state ≠ .waiting && e.2.state ≠ .saved && !(e.2.state = .closing && (runningOf s e.1).isEmpty)
/-- While no launch of the partition runs, a host may write any page (R388): slices drop their clean copies of the line. -/
def dropCopies (s : State) (p pa : Nat) : State :=
  if launchRuns s p then s
  else
    let keep (z : Nat × SLine) : Bool := z.2.pa / 128 ≠ pa / 128 || z.2.dirty ≠ 0#128
    { s with slices := s.slices.map fun e => (e.1, { e.2 with lines := e.2.lines.filter keep }) }

/-! ## Partitions (R390 to R395) -/

def groupsOf (w0 : Word) : List Nat :=
  (List.range 8).filter fun g => (field w0 58 3).toNat ≤ g && g ≤ (field w0 55 3).toNat
/-- Clusters of the column groups that a PCTL names. -/
def groupClusters (w0 : Word) : List Nat := (List.range 576).filter fun k => (groupsOf w0).contains (groupOf k)
/-- Whether a partition exists or is being prepared. -/
def inForce (s : State) (p : Nat) : Bool := (getPart s p).valid || (getPart s p).preparing
/-- Order 1 of R393, over the sixteen words. -/
def descRange (w : Nat → Word) : Bool :=
  let n (i : Nat) : Nat := (w i).toNat
  let lo := n 2
  let hi := n 3
  let crn := (field (w 0) 48 6).toNat
  let nq := (field (w 12) 0 16).toNat
  let fits (i size align : Nat) : Bool := n i % align = 0 && lo ≤ n i && n i + size ≤ hi
  field (w 0) 16 32 = 0#32 && !(bit (w 0) 54) && field (w 12) 17 47 = 0#47 && w 13 = 0#64 && w 14 = 0#64 && w 15 = 0#64
    && (field (w 0) 58 3).toNat ≤ (field (w 0) 55 3).toNat && 20 ≤ crn && crn ≤ 34
    && lo % 2 ^ 25 = 0 && hi % 2 ^ 25 = 0 && lo < hi && hi ≤ 2 ^ 40
    && 1 ≤ nq && nq ≤ 4096
    && fits 4 0x8000 0x8000 && fits 5 (64 * nq) 64 && fits 6 8 8 && fits 7 (2 ^ crn) (2 ^ crn) && fits 8 64 1 && fits 9 64 1
/-- Order 2. -/
def descBusy (s : State) (p : Nat) (w : Nat → Word) : Bool :=
  (List.range 8).any fun q => q ≠ p && inForce s q &&
    ((groupsOf (w 0)).any (groupsOf (partWord s q 0)).contains
      || ((w 2).toNat < (partWord s q 3).toNat && (partWord s q 2).toNat < (w 3).toNat)
      || field (w 0) 0 16 &&& field (partWord s q 0) 0 16 ≠ 0#16
      || (bit (w 0) 62 && bit (partWord s q 0) 62))
/-- Order 3. -/
def descTenant (s : State) (p : Nat) (w : Nat → Word) : Bool :=
  (bit (w 1) 0 && !(bit (w 0) 62))
    || (List.range 8).any fun q => q ≠ p && inForce s q && w 1 &&& partWord s q 1 ≠ 0#64
/-- The check of R393: the first failure's status. -/
def descCheck (s : State) (p : Nat) (w : Nat → Word) : Nat :=
  if !(descRange w) then stRANGE else if descBusy s p w then stBUSY else if descTenant s p w then stTENANT else stOK
/-- Valid bits of the check records of a region cleared: bit 31 of the word at offset 8 of each 256-byte record (R375). -/
def clearRecords (s : State) (base size : Nat) : State :=
  let valid (a : Nat) : Bool := base ≤ a && a < base + size && (a - base) % 256 = 11
  -- the rest of each record's first line is read, and its check bytes computed anew (R403)
  let first (ln : Nat) : Bool := base ≤ 128 * ln && 128 * ln < base + size && (128 * ln - base) % 256 = 0
  let lines : List Nat := ((s.bad.map fun (e : Nat × BitVec 64) => e.1) ++ s.flips.map fun (f : Nat × Byte) => f.1 / 128).eraseDups.filter first
  let s := lines.foldl (fun s ln => recoded (readBad s 0 (128 * ln) 0 []) (128 * ln) 1) s
  let clear (e : Nat × Byte) : Option (Nat × Byte) :=
    if valid e.1 then (if e.2 &&& 0x7F#8 = memDefault then none else some (e.1, e.2 &&& 0x7F#8)) else some e
  { s with mem := s.mem.filterMap clear }
/-- A core with its tags, triggers, receives, sets and L1 cleared, and nothing running or waiting. -/
def clearedCore (k : Core) : Core :=
  { store := k.store, seqno := k.seqno, sysent := k.sysent, steer := k.steer, discards := k.discards }
/-- A cluster prepared for a new partition: every set released, every core and slice emptied (R393). -/
def prepareCluster (s : State) (cid : Nat) : State :=
  let s := (List.range 8).foldl (fun s n => setUse s cid n (.clearing (cycOfCl s cid + 1024))) s
  let s := (List.range 9).foldl (fun s i => modCore s (coreNo cid i) clearedCore) s
  let s := { s with ctrs := s.ctrs.filter fun c => if c.isSet then c.unit / 8 ≠ cid else cidOf c.unit ≠ cid }
  setSl s cid {}
/-- PCTL written with V one over a partition that is not valid: checked, and its clusters prepared (R393). -/
def createPart (s : State) (p : Nat) (w0 : Word) : State × Nat :=
  let w (i : Nat) : Word := if i = 0 then w0 else partWord s p i
  let st := descCheck s p w
  if st ≠ stOK then (s, st)
  else
    let s := setPart s p { desc := put (getPart s p).desc 0 (setField w0 63 0#1), preparing := true }
    let s := (groupClusters w0).foldl prepareCluster s
    (clearRecords s (partWord s p 7).toNat (2 ^ (field w0 48 6).toNat), stOK)
/-- Whether a partition has a launch in a slot. -/
def hasLaunch (s : State) (p : Nat) : Bool := s.launches.any fun e => e.2.part = p
/-- A partition destroyed: what its slices hold goes to memory, its clusters run nothing, its queues leave the dispatcher. -/
def destroyPart (s : State) (p : Nat) (w0 : Word) : State × Nat :=
  if (getPart s p).preparing || hasLaunch s p || bit (partWord s p 0) 62 then (s, stBUSY)
  else
    let s := flushSlices s p
    let cs := clustersOf s p
    let s := cs.foldl (fun s cid =>
      let s := (List.range 9).foldl (fun s i => modCore s (coreNo cid i) clearedCore) s
      modCl (setSl s cid {}) cid fun x => { x with part := none, overflow := [] }) s
    let s := setPart s p { desc := put (getPart s p).desc 0 (w0 &&& 0x7FBF00000000FFFF#64) }
    ({ s with disp := { s.disp with
        queues := s.disp.queues.filter fun r => r.part ≠ p
        swapped := s.disp.swapped.filter fun q => q.1 ≠ p
        stopped := s.disp.stopped.filter fun q => q.1 ≠ p } }, stOK)
/-- PCTL written over a valid partition with V one: only DBG may change (R394). -/
def pctlWrite (s : State) (p : Nat) (w0 : Word) : State × Nat :=
  let rw : Word := 0x5FBF00000000FFFF#64
  let old := partWord s p 0
  if (w0 ^^^ old) &&& rw &&& ~~~(1#64 <<< 61) ≠ 0#64 then (s, stBUSY)
  else (modPart s p fun x => { x with desc := put x.desc 0 (setField old 61 (field w0 61 1)) }, stOK)
/-- A word of a partition's descriptor written (R393, R394). -/
def partWrite (s : State) (p i : Nat) (v : Word) : State × Nat :=
  let store (s : State) : State × Nat := (modPart s p fun x => { x with desc := put x.desc i v }, stOK)
  if i = 0 then
    if inForce s p then (if !(bit v 63) then destroyPart s p v else if (getPart s p).valid then pctlWrite s p v else (s, stBUSY))
    else if bit v 63 then createPart s p v
    else (modPart s p fun x => { x with desc := put x.desc 0 (v &&& 0x7FBF00000000FFFF#64) }, stOK)
  else if inForce s p && i ≠ 10 && i ≠ 11 then (s, stBUSY)
  else store s

/-! ## Links and islands (R378, R383, R414) -/

/-- A link leaves the active state: 0 port A, 1 port B, 2 to 17 peer ports. -/
def linkLost (s : State) (n : Nat) : State :=
  if n < 2 then
    let b : Bool := n = 1
    let s := modPort (releasePort s b) b fun x => { x with active := false }
    { s with host := { s.host with tx := s.host.tx.filter fun t => portB t ≠ b } }
  else modBoot s fun x => { x with links := put x.links (n - 2) false }
/-- A compute island starts to change to a point. -/
def startChange (s : State) (i point : Nat) : State := modIsland s i fun x => { x with target := point, changing := true }
/-- A requested point (R414): an island that thermal control has slowed climbs back only by it. -/
def askPoint (s : State) (i point : Nat) : State :=
  let s := modIsland s i fun x => { x with wanted := point }
  let x := getIsland s i
  if x.changing || x.point = point || (point < x.point && x.hot) then s else startChange s i point

/-! ## Attestation (R400, R401) -/

def report (s : State) : List Byte :=
  let b := bootOf s
  ((List.range 48).map fun i => look 0 b.anonce i) ++ (b.meas ++ zeros 48).take 48 ++ bytesOf 4 b.svn ++ zeros 4
    ++ bytesOf 8 Config.fuseSerial ++ sha384 (tableBytes s) ++ bytesOf 8 (bootStat s) ++ zeros 24
/-- A report built, signed and shown (R401), in one step. The schedule may let a write of ATTGO begin one that a later turn ends
(`attestBegins`, `attestEnds`): until then BUSY is one (R400). -/
def attest (s : State) : State :=
  let r := report s
  modBoot s fun b => { b with
    arep := r, asig := ecdsaSign (sha384 r) b.signed, avalid := true, signed := b.signed + 1, building := false }

/-! ## Injection (R385 to R387) -/

def imageWord (s : State) (b : Bool) (i : Nat) : Word := look 0 (portOf b s).image i
/-- The codes of R363. -/
def faultCode (c : Nat) : Bool :=
  (0x01 ≤ c && c ≤ 0x0C) || (0x10 ≤ c && c ≤ 0x16) || (0x20 ≤ c && c ≤ 0x22) || (0x30 ≤ c && c ≤ 0x39) || (0x40 ≤ c && c ≤ 0x47)
    || (0x50 ≤ c && c ≤ 0x52) || c = 0x60
/-- A parcel of the image, sent from the router (0, 0) with core index 13 or 14: the task it starts has that as its PARENT, with frame 0
(R63, R386), so that a reply to it is dropped with cause 3. -/
def injected (s : State) (b : Bool) (p : Nat) (hdr : Word) (sys : Bool) : State :=
  let n := hLen hdr
  let x : Parcel :=
    { hdr := hdr
      payload := (List.range n).map fun i => imageWord s b (1 + i)
      src := if b then 14 else 13
      parent := BitVec.ofNat 32 ((if b then 14 else 13) * 2 ^ 18)
      sys := sys
      part := some p
      port := some b }
  modPort { s with net := s.net ++ [x] } b fun y => { y with busy := true }
/-- Whether a header's destination is a core of a partition. -/
def destIn (s : State) (p : Nat) (h : Word) : Bool :=
  hX h < 24 && hY h < 24 && hCore h ≤ 8 && (getCl s (cidOf (hDestCore h))).part = some p
/-- The launches an abort names: those of the queue that hold a launch slot and carry the LID (R387). -/
def abortNamed (s : State) (p q : Nat) (lid : BitVec 32) : List Nat :=
  (byOrder (s.launches.filter fun e => e.2.part = p && e.2.q = q && lidOf e.2 = lid)).map (·.1)
/-- A launch aborted by the host. One that is aborting already goes on so; of one whose record is written, the handlers that still run
end (R155, R373). -/
def hostAborts (s : State) (code k : Nat) : State :=
  match launchAt s k with
  | some l => if l.state = .closing then settle (endTasks s k l) k else abortLaunch s k code noHandle false
  | none => s
def injectAbort (s : State) (b : Bool) (p : Nat) : State × Nat :=
  let q := (field (imageWord s b 1) 0 12).toNat
  let lid := field (imageWord s b 2) 0 32
  let code := (field (imageWord s b 3) 0 16).toNat
  if !(faultCode code) then (s, stRANGE)
  else
    let ks := abortNamed s p q lid
    (modPort (ks.foldl (fun s k => hostAborts s code k) s) b fun y => { y with aborted := min ks.length 255 }, stOK)
def injectHandler (s : State) (b : Bool) (p kind ten : Nat) : State × Nat :=
  let h := imageWord s b 0
  if !(bit (partWord s p 1) ten) then (s, stTENANT)
  else if !(destIn s p h) then (s, stRANGE)
  else (injected s b p (mkHdr kind (hTag h) (hDest h) (hClass h) ten (hLen h) none 0) false, stOK)
def injectSystem (s : State) (b : Bool) (p : Nat) : State × Nat :=
  let h := imageWord s b 0
  if !(destIn s p h) then (s, stRANGE)
  else (injected s b p (mkHdr 3 0xE#12 (hDest h) (hClass h) 0 (hLen h) none 0) true, stOK)
def injectLaunch (s : State) (b : Bool) (p : Nat) : State × Nat :=
  let h := imageWord s b 0
  let s := queueRead s p (field (imageWord s b 1) 0 12).toNat
  if !(queueOk s p (field (imageWord s b 1) 0 12).toNat) then (s, stRANGE)
  else (injected s b p (mkHdr 3 0xF#12 0 (hClass h) 0 2 none 0) false, stOK)
/-- A write of ICTL: the check's status, shown in ISTAT too but for a write turned away by BUSY. -/
def ictlWrite (s : State) (b : Bool) (v : Word) : State × Nat :=
  let kind := (field v 61 3).toNat
  let p := (field v 58 3).toNat
  let ten := (field v 52 6).toNat
  if (portOf b s).busy then (s, stBUSY)
  else
    let r : State × Nat :=
      if !(isRunning s) then (s, stDENIED)
      else if 4 < kind || !(getPart s p).valid then (s, stRANGE)
      else if kind = 0 then injectLaunch s b p
      else if kind = 1 then injectHandler s b p 0 ten
      else if kind = 2 then injectHandler s b p 2 ten
      else if kind = 3 then injectSystem s b p
      else injectAbort s b p
    (modPort r.1 b fun y => { y with status := r.2 }, r.2)

/-! ## Writes (R381, R384) -/

/-- A word written where it is mapped, its guard held and the stage right; resets are not here. -/
def regWrite (s : State) (b : Bool) (a : Nat) (d m : Word) : State × Nat :=
  let v := mergeWord ((regRead s b a).getD 0) d m
  let w := d &&& m
  if a < 0x10000 then
    if a = 0x00 then (s, if bit w 0 && !(inRecovery s) then stDENIED else stOK)
    else if a = 0x70 then (if !(bit w 0) then (s, stOK) else if (bootOf s).building then (s, stBUSY) else (attest s, stOK))
    else if a = 0x100 then
      let s := modBoot s fun x => { x with fsel := v &&& 0x3FFF#64 }
      (if bit w 63 then modDie s (fselDie s) fun x => { x with frozen := false } else s, stOK)
    else (modBoot s fun x => { x with anonce := writeRun 0 x.anonce (a - 0x40) (bytesOf 8 v) }, stOK)
  else if a < 0x20000 then partWrite s ((a - 0x10000) / 128) (a % 128 / 8) v
  else if a < 0x30000 then (modBoot s fun x => { x with cfg2 := writeOne 0 x.cfg2 ((a - 0x20000) / 8) (v &&& commBits (a % 64 / 8)) }, stOK)
  else if a < 0x40000 then
    if a < 0x30090 then (if bit w 0 then linkLost s ((a - 0x30000) / 8) else s, stOK)
    else
      let i := (a - 0x30100) / 8
      if 4 ≤ i % 6 then (s, stRANGE) else (askPoint s i (field v 0 2).toNat, stOK)
  else if a < 0x40100 then
    let n := (a - 0x40000) / 8
    if !(bit w 0) then (s, stOK)
    else if semBy (semOf s n) b then (setSem s n (semFree (semOf s n)), stOK)
    else (s, stGUARD)
  else if a < 0x41080 then (modPort s b fun x => { x with image := writeOne 0 x.image ((a - 0x41000) / 8) v }, stOK)
  else if a = 0x41080 then ictlWrite s b w
  else if 0x100000 ≤ a then (modBoot s fun x => { x with window := writeRun 0 x.window (a - 0x100000) (bytesOf 8 v) }, stOK)
  else (s, stRANGE)
/-- Whether a word is read-only as a whole. -/
def readOnly (a : Nat) : Bool := a = 0x41088 || (0x42000 ≤ a && a < 0x43000)
/-- Whether the boot stage turns a write away (R380, R386, R399): while the device boots or is in recovery, all but CFG0 and the
semaphores, and in recovery the boot window; ICTL answers for itself. -/
def stageDenies (s : State) (a : Nat) : Bool :=
  if a < 0x10000 || (0x40000 ≤ a && a < 0x40100) || a = 0x41080 then false
  else if 0x100000 ≤ a && a < 0x500000 then !(inRecovery s)
  else decide ((bootOf s).stage < 8) || inRecovery s
/-- The guard of a configuration word (R384). -/
def guardFails (s : State) (b : Bool) (a : Nat) : Bool := a < 0x40000 && !(semBy (semOf s (a / 0x10000)) b)
/-- The status a write ends with before any of its words is written. -/
def writeCheck (s : State) (t : HostTx) : Nat :=
  let b := portB t
  if !(sizeOk t) then stRANGE
  else if isAperture t.addr then
    if stageDenies s t.addr then stDENIED else if (apertureAt s t).isNone then stRANGE else stOK
  else if (wordsOf t).any readOnly then stRANGE
  else if (wordsOf t).any (stageDenies s) then stDENIED
  else if (wordsOf t).any fun a => (regRead s b a).isNone then stRANGE
  else if (wordsOf t).any (guardFails s b) then stGUARD
  else stOK
/-- A write performed: all of it, or, where its status is not OK, none of it but the injection status. -/
def performWrite (s : State) (t : HostTx) : State × Nat :=
  let st := writeCheck s t
  if st ≠ stOK then (s, st)
  else if isAperture t.addr then
    match apertureAt s t with
    | some pa => (dropCopies (hostPut s pa (txBytes t)) ((t.addr - 2 ^ 47) / 2 ^ 44) pa, stOK)
    | none => (s, stRANGE)
  else if t.addr / 8 * 8 = 0x41080 && t.size ≤ 8 then regWrite s (portB t) 0x41080 (txWord t 0x41080).1 (txWord t 0x41080).2
  else
    let r := (wordsOf t).foldl (fun r a =>
      if r.2 ≠ stOK then r else regWrite r.1 (portB t) a (txWord t a).1 (txWord t a).2) (s, stOK)
    if r.2 = stOK then r else (s, r.2)
/-- A read performed: status and data, zeros where it fails. -/
def performRead (s : State) (t : HostTx) : State × Nat × List Byte :=
  let b := portB t
  if !(sizeOk t) then (s, stRANGE, zeros t.size)
  else if isAperture t.addr then
    match apertureAt s t with
    | some pa => (hostLineBad s pa, stOK, memRead s pa t.size)
    | none => (s, stRANGE, zeros t.size)
  else if (wordsOf t).any fun a => (regRead s b a).isNone then (s, stRANGE, zeros t.size)
  else
    let all := wordsBytes ((wordsOf t).map fun a => (regRead s b a).getD 0)
    (s, stOK, (all.drop (t.addr % 8)).take t.size)

/-! ## Ties between the ports (R379) -/

/-- The arbiter a transaction reaches: one for each range of the map (R380). -/
def arbiterOf (t : HostTx) : Nat :=
  if isAperture t.addr then 8 else if 0x100000 ≤ t.addr then 7 else t.addr / 0x10000 * 16 + (if 0x40000 ≤ t.addr then t.addr / 0x1000 % 16 else 0)
/-- The transactions still to be applied with one more among them, in order of the cycle in which they reach their arbiters; of two of one
cycle, which are of different ports, the new one comes first where `first` says so. -/
def inOrder (first : HostTx → Bool) : List HostTx → HostTx → List HostTx
  | [], x => [x]
  | y :: t, x => if x.from_ < y.from_ || (x.from_ = y.from_ && first y) then x :: y :: t else y :: inOrder first t x
/-- A transaction reaches its arbiter, and may be applied from the next cycle on. A port brings one a cycle (DESIGN CHOICE, entry 102). Where
the other port reaches the same arbiter in the same cycle, the arbiter's toggle names the port that goes first, and then the one that lost.
Reads of semaphores have a toggle of their own, TIE, and a release goes before the other port's read (R383). -/
def arrives (s : State) (x : HostTx) : State :=
  let h := s.host
  let x := { x with from_ := (h.tx.filter fun t => portB t = portB x).foldl (fun a t => max a (t.from_ + 1)) (s.clk.mesh + 1) }
  let tied : Bool := h.tx.any fun y => y.from_ = x.from_ && arbiterOf y = arbiterOf x
  let sem (t : HostTx) : Bool := arbiterOf x = 64 && t.data.isNone
  let byToggle : Bool := tied && !(h.tx.any fun y => y.from_ = x.from_ && (sem y || sem x))
  let named := look false h.ties (arbiterOf x)
  let first (y : HostTx) : Bool :=
    arbiterOf y = arbiterOf x && (if sem y || sem x then sem y && !(sem x) else named = portB x)
  { s with host := { h with
    tx := inOrder first h.tx x
    ties := if byToggle then writeOne false h.ties (arbiterOf x) !named else h.ties } }
/-- The first transaction that may be applied by now, and those after it. -/
def headTx (s : State) : Option (HostTx × List HostTx) :=
  match s.host.tx with
  | [] => none
  | t :: rest => if t.from_ ≤ s.clk.mesh then some (t, rest) else none

/-! ## Which event serves a transaction -/

/-- What a transaction asks for. -/
inductive TxKind where
  | read
  | acquire
  | memory
  | release
  | config
  | create
  | destroy
  | island
  | retrain
  | attgo
  | thaw
  | warm
  | go
  | inject (kind : Nat)
deriving DecidableEq, Repr
def touches (t : HostTx) (a : Nat) : Bool := (wordsOf t).contains a
def semAddr (a : Nat) : Bool := 0x40000 ≤ a && a < 0x40100
/-- The new PCTL of the partition whose PCTL a write touches. -/
def pctlOf (s : State) (t : HostTx) : Option (Nat × Word) :=
  ((List.range 8).find? fun p => touches t (0x10000 + 128 * p)).map fun p =>
    let a := 0x10000 + 128 * p
    (p, mergeWord (descWord s p 0) (txWord t a).1 (txWord t a).2)
def txKind (s : State) (t : HostTx) : TxKind :=
  let a := t.addr / 8 * 8
  if t.data.isNone then (if semAddr t.addr && t.size = 8 && t.addr % 8 = 0 then .acquire else .read)
  else if isAperture t.addr then .memory
  else if semAddr a then .release
  else if bit (txBits t 0) 1 then .warm
  else if bit (txBits t 0) 0 then .go
  else if bit (txBits t 0x70) 0 then .attgo
  else if bit (txBits t 0x100) 63 then .thaw
  else if 0x30000 ≤ a && a < 0x30090 && (wordsOf t).any (fun x => bit (txBits t x) 0) then .retrain
  else if 0x30100 ≤ a && a < 0x301C0 then .island
  else if touches t 0x41080 && (field (txBits t 0x41080) 61 3).toNat ≤ 4 then .inject (field (txBits t 0x41080) 61 3).toNat
  else
    match pctlOf s t with
    | some (p, w) =>
      if !(inForce s p) && bit w 63 then .create else if inForce s p && !(bit w 63) then .destroy else .config
    | none => .config
/-- A completion shown at a port (R381). -/
def showAt (s : State) (b : Bool) (st : Nat) (data : List Byte) : State := modPort s b fun x => { x with shown := some { status := st, data := data } }
/-- The first transaction is served, if it is of the kind asked for. -/
def serveWrite (s : State) (k : TxKind) : State :=
  match headTx s with
  | none => s
  | some (t, rest) =>
    if txKind s t ≠ k then s
    else
      let r := performWrite { s with host := { s.host with tx := rest } } t
      showAt r.1 (portB t) r.2 []

end Sys2Proof.Machine
end

