-- ==== Sys2Proof/Machine/EvBoot.lean ====
section
/-! DEFINITION. Cold reset, warm reset, and GO in recovery: the steps of bring-up (R398 to R402, R411). -/
namespace Sys2Proof.Machine

/-! ## The image (R398) -/

def imageByte (s : State) (o : Nat) : Byte := look 0 (bootOf s).window o
def imageBytes (s : State) (o n : Nat) : List Byte := (List.range n).map fun i => imageByte s (o + i)
def image64 (s : State) (o : Nat) : Nat := natOfBytes (imageBytes s o 8)
def image32 (s : State) (o : Nat) : Nat := natOfBytes (imageBytes s o 4)
def bodyLen (s : State) : Nat := image32 s 12
def bodyOf (s : State) : List Byte := imageBytes s 512 (bodyLen s)
/-- Step 3: MAGIC, LEN, ENTRY and the reserved bytes. -/
def formatOk (s : State) : Bool :=
  let len := bodyLen s
  image64 s 0 = 0x4F58465700000001 && len ≠ 0 && len % 128 = 0 && len ≤ 2 ^ 22 - 512
    && image64 s 16 % 8 = 0 && image64 s 16 < len && (imageBytes s 352 160).all (· = 0)
/-- Step 3: the key's digest is an unrevoked fused one. -/
def keyOk (s : State) : Bool :=
  let d := sha384 (imageBytes s 32 96)
  (List.range 4).any fun i => Config.fuseKeys[i]? = some d && !(Config.fuseRevoked i)
def imageDigest (s : State) : List Byte := sha384 (imageBytes s 0 256 ++ bodyOf s)

/-! ## The steps (R399) -/

/-- A failing step: recovery, with its error. -/
def failBoot (s : State) (err : Nat) : State := modBoot s fun b => { b with stage := 15, err := err }
/-- Words of P0DESC with V and MGMT one, G0 and G1 zero, PBASE zero and tenant 0 added. -/
def p0Word (s : State) (i : Nat) : Word :=
  let w := BitVec.ofNat 64 (image64 s (128 + 8 * i))
  if i = 0 then setField (setField (setField w 62 3#2) 58 0#3) 55 0#3
  else if i = 1 then setField w 0 1#1
  else if i = 2 then 0
  else w
/-- Step 7's checks: those of R393, LOAD a multiple of 64 KiB, and the window holds the body. -/
def p0Ok (s : State) : Bool :=
  let load := image64 s 24
  descCheck s 0 (p0Word s) = stOK && load % 0x10000 = 0 && load + bodyLen s ≤ (p0Word s 3).toNat
/-- Step 7: the body in memory, SYSENT of every core, and partition 0 with its clusters prepared. -/
def loadFirmware (s : State) : State :=
  let load := image64 s 24
  let body := bodyOf s
  let s := memWrite (recoded s load body.length) load body
  let entry := BitVec.ofNat 64 (load + image64 s 16)
  let s := ((List.range 576).flatMap clusterNumbers).foldl (fun s c => modCore s c fun k => { k with sysent := entry }) s
  let w0 := p0Word s 0
  let s := setPart s 0 { desc := (List.range 16).map fun i => (i, if i = 0 then setField w0 63 0#1 else p0Word s i), valid := true }
  let s := (groupClusters w0).foldl (fun s cid =>
    let s := prepareCluster s cid
    let s := (List.range 8).foldl (fun s n => setSet s cid n {}) s
    modCl s cid fun x => { x with part := some 0 }) s
  clearRecords s (p0Word s 7).toNat (2 ^ (field w0 48 6).toNat)
where
  clusterNumbers (cid : Nat) : List Nat := (List.range 9).map (coreNo cid)
/-- Step 8: a system parcel to the cluster core of cluster 0. -/
def startFirmware (s : State) : State :=
  let p : Parcel := { hdr := mkHdr 3 0xE#12 (coreIdOf (coreNo 0 8)) 3 0 0 none 0, payload := [], src := 15, sys := true, hw := true }
  modBoot { s with net := s.net ++ [p] } fun b => { b with stage := 8, err := 0 }
def toStage (s : State) (n : Nat) : State := modBoot s fun b => { b with stage := n }
/-- The boot controller takes the step that STAGE names, with what the board presents; the next step's number, 8 after the last, or
recovery. Step 8 follows step 7 at once: with its parcel sent the device is running. -/
def bootStep (s : State) (i : BootInput) : State :=
  let n := (bootOf s).stage
  let svn := image32 s 8
  if n = 1 then toStage s 2
  else if n = 2 then
    match i.flash with
    | none => failBoot s 1
    | some f => toStage (modBoot s fun b => { b with window := writeRun 0 [] 0 (f.take (2 ^ 22)) }) 3
  else if n = 3 then
    if !(formatOk s) then failBoot s 7 else if !(keyOk s) then failBoot s 2 else if svn < Config.fuseMinSvn then failBoot s 3 else toStage s 4
  else if n = 4 then
    if ecdsaVerify (imageDigest s) (imageBytes s 32 96) (imageBytes s 256 96) then toStage s 5 else failBoot s 4
  else if n = 5 then toStage (modBoot s fun b => { b with meas := imageDigest s, svn := BitVec.ofNat 32 svn }) 6
  else if n = 6 then (if !i.trained then failBoot s 6 else if !i.populated then failBoot s 5 else toStage s 7)
  else if n = 7 then (if p0Ok s then startFirmware (loadFirmware s) else failBoot s 8)
  else s
/-- Steps 3 to 8 on the image in the boot window, one after another. -/
def bootFrom3 (s : State) (i : BootInput) : State := (List.range 5).foldl (fun s _ => bootStep s i) (toStage s 3)
/-- The recorder's entry of a reset, with BOOTSTAT as the boot leaves it. -/
def recReset (s : State) (w0 : Nat) : State := recEvent s 0 7 0 0 (BitVec.ofNat 64 w0) (bootStat s)
/-- A cold reset: everything but the fuses is cleared, and the image is read from the board's flash. The table makes it one step, as it does
a warm reset and GO; the schedule may also let a reset begin and its steps come one by one (`bootBegins`, `bootStep`). -/
def execColdReset (i : BootInput) (s : State) : Host.Outcome State Fault Refusal :=
  let s : State := { sched := s.sched }
  match i.flash with
  | none => .next (recReset (failBoot s 1) 0)
  | some f =>
    let s := modBoot s fun b => { b with window := writeRun 0 [] 0 (f.take (2 ^ 22)) }
    .next (recReset (bootFrom3 s i) 0)
/-- Bytes of a line put into memory, the rest of it read first (R403). -/
def mergeOut (s : State) (pa : Nat) (d : Line) (m : Mask) : State := memMerge (recoded (linesRead s pa 1) pa 1) pa d m
/-- Stores already made reach memory: dirty bytes of every L1, then of every slice. -/
def drainCaches (s : State) : State :=
  let s := s.cores.foldl (fun s e => e.2.l1.foldl (fun s l =>
    if l.dirty = 0#128 then s
    else
      match s.slices.find? fun q => q.2.lines.any fun z => z.2.pa / 128 = l.pa / 128 with
      | some q => modSl s q.1 fun x => { x with lines := x.lines.map fun z =>
          if z.2.pa / 128 = l.pa / 128 then (z.1, { z.2 with data := overlay z.2.data l.data l.dirty, dirty := z.2.dirty ||| l.dirty }) else z }
      | none => mergeOut s l.pa l.data l.dirty) s) s
  s.slices.foldl (fun s q => q.2.lines.foldl (fun s z => if z.2.dirty = 0#128 then s else mergeOut s z.2.pa z.2.data z.2.dirty) s) s
/-- What a warm reset keeps, once what its write-backs found is on the management ring: memory, the recorder, the boot window, the host side but for its semaphores, and the clocks. -/
def warmState (s : State) : State :=
  let s := s.disp.queues.foldl (fun s r => physWrite32 s (queueAt s r.part r.q + 20) r.rhead) s
  let s := drainCaches s
  let s := pumpRing s (mgmtPart s) false
  let h := s.host
  { sched := s.sched
    clk := s.clk
    mem := s.mem
    bad := s.bad
    flips := s.flips
    host := { h with
      sems := []
      ties := []
      pa := { h.pa with busy := false }
      pb := { h.pb with busy := false }
      dies := h.dies.map fun e => (e.1, { e.2 with tripped := false })
      boot := { h.boot with stage := 3, err := 0, svn := 0, meas := [], building := false } } }
/-- The first transaction, where it is a write of BOOTCTL of the kind asked for and passes its checks; else it completes with its
status. -/
def bootWrite (s : State) (k : TxKind) (f : State → State) : State :=
  match headTx s with
  | none => s
  | some (t, rest) =>
    if txKind s t ≠ k then s
    else
      let s := { s with host := { s.host with tx := rest } }
      let st := writeCheck s t
      if st ≠ stOK then showAt s (portB t) st []
      else if k = .go && !(inRecovery s) then showAt s (portB t) stDENIED []
      else showAt (f s) (portB t) stOK []
def execWarmReset (i : BootInput) (s : State) : Host.Outcome State Fault Refusal :=
  .next (bootWrite s .warm fun s => recReset (bootFrom3 (warmState s) i) 1)
/-- A write of BOOTCTL at the head of the transactions begins its boot, at step 3. -/
def bootBegins (s : State) : State :=
  match (headTx s).map fun t => txKind s t.1 with
  | some .warm => bootWrite s .warm fun s => recReset (warmState s) 1
  | some .go => bootWrite s .go fun s => toStage (modBoot s fun b => { b with err := 0 }) 3
  | _ => s
/-- A write of ATTGO, alone in its transaction, at the head of the transactions: the report begins (R400). -/
def attestBegins (s : State) : State :=
  match headTx s with
  | some (t, rest) =>
    let s' := { s with host := { s.host with tx := rest } }
    if txKind s t = .attgo && t.size ≤ 8 && writeCheck s' t = stOK && !(bootOf s).building then
      showAt (modBoot s' fun b => { b with building := true }) (portB t) stOK []
    else s
  | none => s
def attestEnds (s : State) : State := if (bootOf s).building then attest s else s
/-- GO in recovery: steps 3 to 8 again, on the image in the boot window. -/
def execGoOp (i : BootInput) (s : State) : Host.Outcome State Fault Refusal :=
  .next (bootWrite s .go fun s => bootFrom3 (modBoot s fun b => { b with err := 0 }) i)

end Sys2Proof.Machine
end

