-- ==== Sys2Proof/Machine/EvDispatch.lean ====
section
/-! DEFINITION. The dispatcher and the spur engines: a launch takes its region, slices end, launches drain, boxes arrive, reload
and retire, a replay starts, records and interrupts that waited go out (R52, R53, R143, R178, R337, R338, R340, R391, R410). -/
namespace Sys2Proof.Machine

/-! ## Who is considered first (R338) -/

/-- Whether a launch waits for a region. -/
def wantsRegion (l : Launch) : Bool := (l.state = .waiting && !l.bwPending) || l.state = .saved
/-- Whether one waiting launch is considered before another: class, then saved launches in order of saving, then queue, then
admission. -/
def before (a b : Launch) : Bool :=
  if lclass a ≠ lclass b then decide (lclass b < lclass a)
  else
    match decide (a.state = .saved), decide (b.state = .saved) with
    | true, false => true
    | false, true => false
    | true, true => decide (a.savedAt < b.savedAt)
    | false, false => decide (a.q < b.q) || (decide (a.q = b.q) && decide (a.order < b.order))
def overlaps (a b : List Nat) : Bool := a.any b.contains
def allFree (s : State) (cs : List Nat) : Bool := cs.all fun k => (getCl s k).holder.isNone
/-- Whether a launch that is considered first needs one of the clusters and could take its own region now. -/
def firstClaim (s : State) (k : Nat) (l : Launch) (cs : List Nat) : Bool :=
  s.launches.any fun e => e.1 ≠ k && wantsRegion e.2 && before e.2 l && overlaps (lclusters e.2) cs && allFree s (lclusters e.2)

/-! ## Draining (R337, R340) -/

/-- A reserved leaf waits again, its sets given up (R352: it returns to STATE 1). -/
def unreserveLeaf (s : State) (k : Nat) (name : Word) : State :=
  match (launchAt s k).bind fun l => getBox l name with
  | none => s
  | some r =>
    if r.phase = .leafReserved then
      setBox (r.sets.foldl (fun s n => setUse s r.cid n .free) s) k { r with phase := .leafWait, sets := [], running := 0, queued := false }
    else s
/-- Tree tasks of a launch that wait in a core's run queue leave it: their boxes wait in the spur engine again. The X-side task of
a leaf pair that has started stays. -/
def withdraw (s : State) (k c : Nat) : State :=
  let mine (q : QTask) : Bool := q.slot = some k && (q.kind = .rule || q.kind = .join || q.kind = .leafA)
  let qs := (getCore s c).runq.filter mine
  let s := modCore s c fun x => { x with runq := x.runq.filter fun q => !(mine q) }
  qs.foldl (fun s q =>
    match q.box with
    | none => s
    | some b => modBox s k b.name fun r => { r with
        phase := if q.kind = .rule then .pending else if q.kind = .join then .joinPending else r.phase }) s
/-- Every leaf of a launch that has not started gives up its sets. -/
def unreserveLeaves (s : State) (k : Nat) : State :=
  match launchAt s k with
  | none => s
  | some l => l.boxes.foldl (fun s e => unreserveLeaf s k e.2.box.name) s
/-- A running launch is displaced: its spur engines stop. -/
def startDrain (s : State) (k : Nat) : State :=
  match launchAt s k with
  | none => s
  | some l =>
    if l.state ≠ .running then s
    else
      let s := setLaunch s k { l with state := .draining, sliceEnd := none }
      let s := (lclusters l).foldl (fun s cid => modCl s cid fun x => { x with stopped := x.stopped ++ [k] }) s
      unreserveLeaves ((regionCores l).foldl (fun s c => withdraw s k c) s) k
/-- A launch is displaced, unless its root retires first. -/
def displace (s : State) (k : Nat) : State :=
  match launchAt s k with
  | some l => if rootDue s k l then s else startDrain s k
  | none => s

/-! ## Taking a region (R143, R337, R338) -/

/-- The end of a slice that begins now; none for a launch that has no slices. -/
def newSlice (s : State) (l : Launch) : Option Nat :=
  if lclass l = 3 || l.slice = 0 then none else some (s.clk.ns + 1000 * l.slice)
def bwCore (cid : Nat) : Nat := coreNo cid 8
def bwHas (s : State) (k cid : Nat) : Bool := find (getCore s (bwCore cid)).holders 15 = some (.resident k)
/-- The bellwether set of a cluster attached, where a set is free: the lowest-numbered one, R143 naming none (DESIGN CHOICE, entry 69). An
entry that a privileged bmapw has meanwhile written at b15, which the launch saw empty when it took its region, is written over; the
spec speaks of b15 at that moment alone (DESIGN CHOICE, entry 90). -/
def bwAttach (s : State) (k cid : Nat) : State :=
  if bwHas s k cid then s
  else
    match freeSets (getCl s cid) with
    | [] => s
    | n :: _ => attachSet (setSet s cid n {}) (bwCore cid) 15 n (bmEntry true 2 n) (.resident k)
/-- The root box of a launch. -/
def rootBox (l : Launch) : BoxRec :=
  { box :=
      { axes := (List.range 8).map fun a => if a < naxes l then rootAxis l a else { org := 0, ext := 1 }
        name := 0
        rule := rootRule l
        level := 0
        sumanc := false
        refused := false
        narrowed := false
        lstat := 0
        rstat := 0
        smode := 0
        saxis := 0
        tile := 4
        leaf := 0
        modes := 0 }
    phase := .pending
    cid := rootCluster l
    seqno := 0 }
/-- The launch runs: its root reaches the spur engine of its lowest-id cluster, a slice begins, and parcels that came before start their
tasks. -/
def startRun (s : State) (k : Nat) : State :=
  match launchAt s k with
  | none => s
  | some l =>
    let b := rootBox l
    let s := setLaunch s k { l with state := .running, bwPending := false, sliceEnd := newSlice s l }
    (regionCores l).foldl takeInbox (boxArrive (setBox s k b) k b.box.name b.cid)
/-- A launch that holds its region attaches its bellwether sets where it asks for them, and runs when it has them all. -/
def bwStep (s : State) (k : Nat) : State :=
  match launchAt s k with
  | none => s
  | some l =>
    let s := if lbw l then (lclusters l).foldl (fun s cid => bwAttach s k cid) s else s
    if lbw l && !((lclusters l).all (bwHas s k)) then modLaunch s k fun l => { l with bwPending := true } else startRun s k
/-- Whether b15 of a cluster core is taken. -/
def bwTaken (s : State) (cid : Nat) : Bool := bmV (bmapOf (getCore s (bwCore cid)) 15)
/-- A launch takes its region, ends with HDR_INVALID, or displaces lower launches. -/
def execRegionTake (k : Nat) (s : State) : Host.Outcome State Fault Refusal :=
  match launchAt s k with
  | none => .next s
  | some l =>
    if l.state ≠ .waiting then .next s
    else if l.bwPending then .next (bwStep s k)
    else
      let cs := lclusters l
      if allFree s cs then
        if firstClaim s k l cs then .next s
        else if lbw l && cs.any (bwTaken s) then .next (dropLaunch (refuseAdmission s k cHDR l) k)
        else .next (bwStep (cs.foldl (fun s cid => modCl s cid fun x => { x with holder := some k }) s) k)
      else if lclass l = 3 then
        .next (((cs.filterMap fun cid => (getCl s cid).holder).eraseDups).foldl (fun s j =>
          match launchAt s j with
          | some h => if lclass h < 3 then displace s j else s
          | none => s) s)
      else .next s
/-- A slice ends: the launch is displaced where a waiting launch of its class or a higher one needs any of its clusters. -/
def execSliceEnd (k : Nat) (s : State) : Host.Outcome State Fault Refusal :=
  match launchAt s k with
  | none => .next s
  | some l =>
    match l.sliceEnd with
    | none => .next s
    | some t =>
      if l.state ≠ .running || s.clk.ns < t then .next s
      else if s.launches.any fun e => wantsRegion e.2 && lclass l ≤ lclass e.2 && overlaps (lclusters e.2) (lclusters l) then
        .next (displace s k)
      else .next (setLaunch s k { l with sliceEnd := newSlice s l })

/-! ## Quiescence (R340) -/

/-- Whether a tile of a cluster with a parked task of the launch has still to come to rest, so that its record tells all: passes to deliver,
a reset, queue entries to fill, scales to apply (R340, R345). -/
def passesLeft (s : State) (k cid : Nat) : Bool :=
  (List.range 4).any fun i =>
    let x := getTile s (4 * cid + i)
    let mine (c : Nat) : Bool := (getCore s c).parked.any fun t => t.slot = some k
    (mine (coreNo cid i) || mine (coreNo cid (4 + i)))
      && (x.waiting.isSome || !x.running.isEmpty || x.resetDue || !x.pushes.isEmpty || !x.fills.isEmpty || !x.scaleWait.isEmpty)
def isTravelling (b : BoxRec) : Bool :=
  match b.phase with
  | .travelling _ => true
  | _ => false
/-- The cluster a travelling box comes from. -/
def sourceOf (b : BoxRec) : Nat :=
  match b.phase with
  | .travelling src => src
  | _ => b.cid
/-- Nothing of a draining launch runs, is in flight, or can still retire. -/
def quiet (s : State) (k : Nat) (l : Launch) : Bool :=
  (runningOf s k).isEmpty && !(busySlot s k) && !((lclusters l).any (passesLeft s k))
    && l.boxes.all (fun e => !(isTravelling e.2) && !(canRetire s k l e.2))
    && (regionCores l).all fun c => (getCore s c).runq.all fun q => q.kind ≠ .leafX || q.slot ≠ some k
/-- The system parcel by which the dispatcher asks a cluster core to save: the launch slot in payload word 0. -/
def saveParcel (k cid : Nat) : Parcel :=
  { hdr := mkHdr 3 0xE#12 (coreIdOf (coreNo cid 8)) 3 0 1 none 0
    payload := [BitVec.ofNat 64 k]
    src := 15
    sys := true
    hw := true }
def execQuiescence (k : Nat) (s : State) : Host.Outcome State Fault Refusal :=
  match launchAt s k with
  | none => .next s
  | some l =>
    if l.state = .draining && quiet s k l then
      let s := setLaunch s k { l with state := .saving }
      .next { s with net := s.net ++ (lclusters l).map (saveParcel k) }
    else .next s

/-! ## Boxes (R47, R52, R53) -/

/-- The launch's spur engines take what reaches them: it runs or drains. -/
def engineLive (l : Launch) : Bool := l.state = .running || l.state = .draining
/-- Whether another launch completes before this one, of those that complete in one cycle: they come by queue, then admission (R178). Where
one has just completed that should have come later, this one completes in the next cycle. -/
def othersFirst (s : State) (k : Nat) (l : Launch) : Bool :=
  (s.launches.any fun e => e.1 ≠ k && rootDue s e.1 e.2 && clockRuns s (islandOf (rootCluster e.2)) && sooner e.2 l)
    || s.disp.lastDone.any fun d => d.1 = s.clk.mesh && sooner l { l with q := d.2.1, order := d.2.2 }
def execBoxRetire (k : Nat) (name : Word) (s : State) : Host.Outcome State Fault Refusal :=
  match launchAt s k with
  | none => .next s
  | some l =>
    if !(engineLive l) || (depthOf name = 0 && rootDue s k l && othersFirst s k l) then .next s else .next (retireBox s k name)
/-- Every box on its way, with its launch slot. -/
def travellers (s : State) : List (Nat × BoxRec) :=
  s.launches.flatMap fun e => if engineLive e.2 then ((e.2.boxes.map (·.2)).filter isTravelling).map fun b => (e.1, b) else []
/-- A right child waits while its left sibling is on its way to the same cluster (R52). -/
def siblingFirst (s : State) (k : Nat) (b : BoxRec) : Bool :=
  isRight b.box.name &&
    match (launchAt s k).bind fun l => getBox l (childName (parentName b.box.name) false) with
    | some x => isTravelling x && x.cid = b.cid
    | none => false
def execBoxReachesSpurEngine (n : Nat) (s : State) : Host.Outcome State Fault Refusal :=
  match (travellers s)[n]? with
  | none => .next s
  | some (k, b) =>
    let src := sourceOf b
    if siblingFirst s k b || !(boxMayArrive s b.cid src) then .next s
    else .next (spillCheck (boxArrive s k b.box.name src) k b.cid)
/-- Whether a held right child's left sibling has retired. -/
def rightFree (l : Launch) (b : BoxRec) : Bool := b.phase = .heldRight && (getBox l (childName (parentName b.box.name) false)).isNone
/-- Whether a spilled box is to be reloaded (R53): the spur engine has room; or one is next and what it waits for is there, a slot of the
run queue for its task, the sets of a leaf, or the end of a held right child's sibling. -/
def reloadDue (s : State) (l : Launch) (cid : Nat) : Bool :=
  (owed l cid < spilledAt l cid) || (((pumpList l cid).head?.any fun b : BoxRec => b.spilled) && (getCore s (coreNo cid 8)).runq.length < 32)
    || ((waitList l cid).head?.any fun b : BoxRec => b.spilled && setsNeeded l b.box.leaf b.box ≤ (freeSets (getCl s cid)).length)
    || (pendingAt l cid).any fun b => b.spilled && rightFree l b
/-- What a reloaded box waited for goes on; a spur engine without room for it spills its oldest box in turn. -/
def reloaded (s : State) (k cl : Nat) (name : Word) : State :=
  let s := modBox s k name fun r => { r with spilled := false }
  let s := match (launchAt s k).bind fun l => (getBox l name).filter (rightFree l) with
    | some r => releaseRight s k r cl
    | none => s
  spillCheck (spurPump (serveWait s cl) cl) k cl
/-- The oldest spilled box of a cluster enters its spur engine again: the record's name says which. -/
def reloadBox (s : State) (k cl : Nat) (l : Launch) (o : Nat) : State :=
  let a := savePtr l + o
  match unitTake s l.part a 128 with
  | (s, none) => saveAbort s k .page
  | (s, some h) =>
    let n := le h 8 4
    let i := le h 12 4 % 4096
    if n = 0 then s
    else
      match unitTake s l.part (a + 128 + 384 * i + 64) 8 with
      | (s, none) => saveAbort s k .page
      | (s, some b) =>
        match unitStore s l.part (a + 8) (bytesOfNat 4 (n - 1) ++ bytesOfNat 4 ((i + 1) % 4096)) with
        | (s, false) => saveAbort s k .page
        | (s, true) => reloaded s k cl (wordOfBytes b)
def execBoxReload (k cl : Nat) (s : State) : Host.Outcome State Fault Refusal :=
  match launchAt s k, (getCl s cl).spillArea with
  | some l, some o =>
    if (getCl s cl).holder = some k && engineOpen s k cl && reloadDue s l cl then .next (reloadBox s k cl l o) else .next s
  | _, _ => .next s

/-! ## Replay (R410, R411) -/

/-- The launch as its replay is admitted: one cluster, identities from 0, a new digest. -/
def replayed (l : Launch) : Launch :=
  let cid := rootCluster l
  { l with
    state := .waiting
    region := { x0 := xOf cid, y0 := yOf cid, x1 := xOf cid, y1 := yOf cid }
    dx := 0
    dy := 0
    ids := 0
    places := []
    checks := []
    boxes := []
    retired := []
    handles := []
    kept := []
    digest := 0
    replay := true
    rootDone := false
    bwPending := true }
/-- The first run has ended with everything it issued: the replay takes the lowest-id cluster, and its root starts. -/
def execReplayStart (k : Nat) (s : State) : Host.Outcome State Fault Refusal :=
  match launchAt s k with
  | none => .next s
  | some l =>
    if l.state ≠ .replaying || !(runningOf s k).isEmpty || busySlot s k then .next s
    else
      let s := recEvent s 0 8 l.part (rootCluster l) ((lidOf l).setWidth 64) l.last
      let s := closeRegion s k l
      let s := (lclusters l).foldl (fun s cid => modCl s cid fun x =>
        { x with holder := if cid = rootCluster l then x.holder else none, nextSeq := 0, spillArea := none }) s
      let s := clearBitmap s l
      match launchAt s k with
      | none => .next s
      | some l =>
        let s := setLaunch s k (replayed l)
        if lbw l && bwTaken s (rootCluster l) then
          .next (freeSlot (refuseAdmission s k cHDR (replayed l)) k)
        else .next (bwStep s k)

/-! ## Records and interrupts that waited (R178, R391) -/

/-- Whether a deferred record is the first of its ring. -/
def firstOfRing (s : State) (n : Nat) (d : Deferred) : Bool :=
  !((s.disp.deferred.take n).any fun e => e.part = d.part && e.ring = d.ring)
def execRecordDeferredWrite (n : Nat) (s : State) : Host.Outcome State Fault Refusal :=
  match s.disp.deferred[n]? with
  | none => .next s
  | some d =>
    if !(firstOfRing s n d) then .next s
    else
      match tryRecord s d with
      | (_, false) => .next s
      | (s, true) =>
        let s := { s with disp := { s.disp with deferred := dropNth s.disp.deferred n } }
        if d.held then .next (settle (modLaunch s d.slot fun l => { l with recorded := true }) d.slot) else .next s
/-- A record that waits for a partition's fault ring or debug ring is written once there is room. -/
def execFaultRingWrite (p : Nat) (dbg : Bool) (s : State) : Host.Outcome State Fault Refusal :=
  let x := getPart s p
  let d := (partWord s p (if dbg then 9 else 8)).toNat
  match (if dbg then x.dwait else x.fwait) with
  | [] => .next s
  | r :: rest =>
    if ringFull s d || ringStopped s d 64 then .next s
    else .next (ringPutPhys (setPart s p (if dbg then { x with dwait := rest } else { x with fwait := rest })) p d 64 (recBytes r))
/-- A ring's descriptor words as the dispatcher reads them: TIMETHR and VEC. -/
def ringTimes (s : State) (m : RingMark) : State × Option (Nat × Nat × Nat) :=
  if m.virt then
    match unitTake s m.part m.ring 64 with
    | (s, some b) => (s, some (le b 24 4, le b 16 8, le b 32 4))
    | (s, none) => (s, none)
  else
    let s := linesRead s m.ring 64
    (s, some (mem32 s (m.ring + 24), (memWord s (m.ring + 16)).toNat, mem32 s (m.ring + 32)))
/-- The oldest unsignalled record of a ring is TIMETHR old: the interrupt is raised. -/
def execRingInterruptTimer (n : Nat) (s : State) : Host.Outcome State Fault Refusal :=
  match s.disp.rings[n]? with
  | none => .next s
  | some m =>
    match m.oldest with
    | none => .next s
    | some t =>
      if !m.virt && stackStopped s m.ring then .next s else
      match ringTimes s m with
      | (_, none) => .next s
      | (s', some (tail, timethr, vec)) =>
        if s.clk.ns < t + timethr then .next s
        else .next (setRingMark (raiseIrq s' (vec / 2 ^ 31 % 2 = 1) (vec % 2 ^ 16)) { m with last := tail, oldest := none })

end Sys2Proof.Machine
end

