-- ==== Sys2Proof/Machine/EvEngine.lean ====
section
/-! DEFINITION. Copy-engine operations as the engine runs them, reductions, and the exchange between packages
(R162 to R167, R174, R175, R183, R280 to R282, R371, R397). -/
namespace Sys2Proof.Machine

/-! ## An engine's accesses -/

/-- An engine at work: the machine, its digest, and the races it has found, by line (R183, R409). -/
structure EngRun where
  s : State
  op : EngOp
  eng : Nat := 0                     -- the engine that runs it
  desc : List Word := []             -- the descriptor as the engine read it at the start (R280)
  dig : Digest := {}
  races : List (Nat × TrapInfo) := []
  raced : List Nat := []             -- lines reported before, while the operation waited in a reduction (R183)
  start : Option State := none       -- the machine before the operation, while it may still be put off
  met : Bool := false                -- it is to write a line of an open coalescing window, which it lets close first (R122; entry 27)
  needs : List (Nat × Nat) := []     -- lines that windows have still to deliver to it, each with the address it reads (R122)
deriving DecidableEq, Repr

/-- Why an operation fails: a code of R166 with its cause and address, or an address that reaches nothing. -/
inductive EngErr where
  | code (c cause : Nat) (addr : Word)
  | hole (pa : Nat)
deriving DecidableEq, Repr

/-- A place that an element names: device memory, or a set of the engine's cluster. -/
inductive EPlace where
  | dev (va : Nat)
  | set (n off : Nat)
deriving DecidableEq, Repr

def engPart (r : EngRun) : Nat := partOf r.s (cidOf r.op.core)
def engCid (r : EngRun) : Nat := cidOf r.op.core
def engParty (r : EngRun) : Party := { id := r.op.id, op := r.op.no }
/-- The check of an access; a race is reported once a line, and the access goes on (R183). -/
def engCheck (r : EngRun) (ln : Nat) (m : Mask) (write : Bool) : EngRun :=
  match detect r.s r.op.slot r.op.acq (engParty r) r.op.stamp ln m write false with
  | .ok s => { r with s := s }
  | .error i => if r.raced.contains ln || r.races.any (fun e => e.1 = ln) then r else { r with races := r.races ++ [(ln, i)] }
/-- Whether a line it is to write has an open window; then the operation is put off until it closes (R122; entry 27). -/
def engMeets (r : EngRun) (ln : Nat) : EngRun := { r with met := r.met || windowOpen r.s (engPart r) ln }
/-- Bytes of one line read from device memory, a weak read: from what a window has delivered, or from the slice; on a miss the operation
waits for a window (R122, R180). -/
def engReadLine (r : EngRun) (va n : Nat) : EngRun × List Byte :=
  let ln := va / 128
  let p := engPart r
  let h := homeOf r.s p ln
  match translate r.s p h va .read with
  | (s, .ok x) =>
    let r := engCheck { r with s := s } ln (maskRange (va % 128) n) false
    match find r.op.lines ln with
    | some d => (r, lineBytes d (va % 128) n)
    | none =>
      if (find (getSl r.s h).lines ln).isNone || windowOpen r.s p ln then
        ({ r with needs := if r.needs.any fun q => q.1 = ln then r.needs else r.needs ++ [(ln, va)] }, List.replicate n 0)
      else
        let (s, d) := sliceLine r.s p h ln x false (opConsumer r.op r.eng va)
        ({ r with s := s }, lineBytes d (va % 128) n)
  | (s, .error _) => ({ r with s := s }, List.replicate n 0)
/-- Bytes of one line written to device memory. -/
def engWriteLine (r : EngRun) (va : Nat) (bs : List Byte) : EngRun :=
  let ln := va / 128
  let r := engMeets r ln
  let p := engPart r
  let h := homeOf r.s p ln
  match translate r.s p h va .write with
  | (s, .ok x) =>
    let m := maskRange (va % 128) bs.length
    let v := lineAt (va % 128) bs
    let r := engCheck { r with s := s } ln m true
    let s := setRel (sliceMerge r.s p h ln x v m) p ln []
    -- what it writes itself it reads later in the line it was delivered
    let r := { r with op := { r.op with lines := r.op.lines.map fun (q : Nat × Line) => if q.1 = ln then (ln, overlay q.2 v m) else q } }
    match launchAt s r.op.slot with
    | some l => { r with s := s, dig := digestBytes l ln v m r.dig }
    | none => { r with s := s }
  | (s, .error _) => { r with s := s }
def engGet (r : EngRun) (pl : EPlace) (n : Nat) : EngRun × List Byte :=
  match pl with
  | .set k o => (r, locRead r.s (.set (engCid r) k o) n)
  | .dev va => (pieces (n / 128 + 2) va n).foldl (fun q p =>
      let (r, b) := engReadLine q.1 p.1 p.2
      (r, q.2 ++ b)) (r, [])
def engPut (r : EngRun) (pl : EPlace) (bs : List Byte) : EngRun :=
  match pl with
  | .set k o => { r with s := locWrite r.s none (.set (engCid r) k o) bs }
  | .dev va => (pieces (bs.length / 128 + 2) va bs.length).foldl (fun r p => engWriteLine r p.1 ((bs.drop (p.1 - va)).take p.2)) r
/-- Every page of a place translated for an access before anything moves (R371). -/
def engPage (s : State) (p : Nat) (pl : EPlace) (n : Nat) (k : Acc) : Except EngErr State × State :=
  match pl with
  | .set _ _ => (.ok s, s)
  | .dev va => (pieces (n / 128 + 2) va n).foldl (fun q x =>
      match q.1 with
      | .error e => (.error e, q.2)
      | .ok s =>
        match translate s p (homeOf s p (x.1 / 128)) x.1 k with
        | (s, .ok _) => (.ok s, s)
        | (s, .error (.page c)) => (.error (.code cPAGE c (BitVec.ofNat 64 x.1)), s)
        | (s, .error (.hole a)) => (.error (.hole a), s)) (.ok s, s)
def engPages (s : State) (p : Nat) (l : List (EPlace × Nat × Acc)) : Except EngErr State × State :=
  l.foldl (fun q x =>
    match q.1 with
    | .error e => (.error e, q.2)
    | .ok s => engPage s p x.1 x.2.1 x.2.2) (.ok s, s)
/-- The place of an element at a byte distance from a base: in a set recorded at issue, or in device memory (R99, R280). `i` is
the descriptor word that holds the base. -/
def engPlace (o : EngOp) (i : Nat) (space : Nat) (base : Word) (delta : Int) (n : Nat) : Except EngErr EPlace :=
  let a : Word := base + BitVec.ofInt 64 delta
  if space = 0 then .ok (.dev a.toNat)
  else
    let h := bitsOf base.toNat 31 28
    let off : Int := (bitsOf base.toNat 18 0 : Int) + delta
    match o.sets.find? fun q => q.1 = h with
    | none => .error (.code cDESC_INVALID 0 a)
    | some q =>
      if bitsOf (o.head.getD i 0).toNat 31 28 ≠ h then .error (.code cDESC_INVALID 0 a)
      else if base.toNat / 2 ^ 32 ≠ 0 || bitsOf base.toNat 27 19 ≠ 0 || off < 0 || (setBytes : Int) < off + n then .error (.code cRANGE 0 a)
      else .ok (.set q.2 off.toNat)

/-! ## The end of an operation (R164, R166, R183, R367) -/

/-- The status word (R166). -/
def statusWord (err : Nat) (collide padded : Bool) (elems : Nat) : Word :=
  BitVec.ofNat 64 (err * 2 ^ 48 + (if collide then 2 ^ 47 else 0) + (if padded then 2 ^ 46 else 0) + min elems (2 ^ 40 - 1))
def errOf (c : Nat) : Nat :=
  if c = cDESC_INVALID then 1 else if c = cALIGN then 2 else if c = cRANGE then 3 else if c = cPAGE then 4
  else if c = cGROUP_STALE then 5 else 0
/-- The checks of a counter or status reference (R164, R272, R256), in R166's order: alignment, then its range, in which a core store
has the registers of the issuing task's own frame and no other's. -/
def refMisaligned (w : Word) : Bool := w ≠ 0#64 && refOff w % 8 ≠ 0
def refOutside (o : EngOp) (w : Word) : Bool :=
  w ≠ 0#64 && (bitsOf w.toNat 62 32 ≠ 0 ||
    (if bit w 63 then bitsOf w.toNat 27 19 ≠ 0 || setBytes < refOff w + 8
     else storeSize o.core < refOff w + 8 || touchesOther o.core (frameBase o.core (frameOfHandle o.handle)) (refOff w) 8))
/-- A reference's address within its space. -/
def refAddr (w : Word) : Word := if bit w 63 then (field w 0 32).setWidth 64 else (field w 0 16).setWidth 64
/-- Where a counter or status reference of an operation stands; none where it names nothing, or fails its checks. -/
def engRef (o : EngOp) (w : Word) : Option Loc :=
  if w = 0#64 || refMisaligned w || refOutside o w then none
  else if bit w 63 then (o.sets.find? fun q => q.1 = bitsOf w.toNat 31 28).map fun q => .set (cidOf o.core) q.2 (refOff w)
  else some (.store o.core (refOff w))
/-- The counter (word 4) and status (word 5) references of the descriptor read at the start; of the head, where that read fails (R280). -/
def engWord (r : EngRun) (i : Nat) : Word := dWord (if r.desc.isEmpty then r.op.head else r.desc) i
/-- A record that an engine raises (R93, R160). -/
def engFault (s : State) (o : EngOp) (e : Nat) (i : TrapInfo) : State :=
  let r := asyncRecord s o.id o.handle (1 + e) i
  if o.slot = noSlotNo then toFaultRing s (mgmtPart s) (cidOf o.core) r else sendFault s o.slot o.id o.core r
def engOther (o : EngOp) : Word := BitVec.ofNat 64 (o.no % 2 ^ 32 * 2 ^ 32 + o.handle.toNat)
/-- The end of an operation: status, counter, records, its digest, and the sets that waited for it (R164, R166, R183, R280, R409). -/
def engDone (r : EngRun) (e : Nat) (status : Word) (fail : Option (Nat × Nat × Word)) : State :=
  let o := r.op
  let s := match engRef o (engWord r 5) with
    | some l => locWrite r.s none l (bytesOf 8 status)
    | none => r.s
  let s := match engRef o (engWord r 4) with
    | some l => bumpCounter s l 1 (engParty r) 1
    | none => s
  let s := match fail with
    | some (c, cause, a) => engFault s o e { code := c, cause := cause, addr := a, aux0 := status, aux1 := o.ref, other := engOther o }
    | none => s
  let s := r.races.foldl (fun s x => engFault s o e x.2) s
  settle (drainSets (digestJoin s o.slot r.dig) (cidOf o.core)) o.slot
/-- An operation joins the window of a line it is to read, unless it waits for one already (R122). -/
def engJoin (s : State) (r : EngRun) (q : Nat × Nat) : State :=
  let h := homeOf s (engPart r) q.1
  let me : Nat × Party := (2 * engCid r + r.eng, engParty r)
  if (getSl s h).windows.any fun w => w.line = q.1 && w.engs.contains me then s
  else
    match translate s (engPart r) h q.2 .read with
    | (s, .ok x) => joinAs s h q.1 x fun w => { w with engs := w.engs ++ [me], who := w.who ++ opConsumer r.op r.eng q.2 }
    | (s, .error _) => s
/-- The machine after an operation; or, where it is to write a line of an open window or to read one that a window has still to deliver, the
machine before it, in which it waits (R122; entry 27). -/
def putOff (r : EngRun) (s : State) : State :=
  match r.start with
  | some s0 => if r.met || !r.needs.isEmpty then r.needs.foldl (fun s q => engJoin s r q) s0 else s
  | none => s
/-- An operation ends, unless it is put off. -/
def engEnd (r : EngRun) (e : Nat) (status : Word) (fail : Option (Nat × Nat × Word)) : State := putOff r (engDone r e status fail)
/-- An engine without its first operation. -/
def popEng (s : State) (cid e : Nat) : State :=
  modCl s cid fun k => if e = 0 then { k with eng0 := k.eng0.drop 1 } else { k with eng1 := k.eng1.drop 1 }
/-- The whole descriptor as the engine reads it at the start (R280). -/
def engDesc (r : EngRun) (n : Nat) : Except EngErr (EngRun × List Word) × State :=
  let ref := r.op.ref
  if bit ref 63 then
    match engPlace { r.op with head := [ref] } 0 1 ((field ref 0 32).setWidth 64) 0 n with
    | .error e => (.error e, r.s)
    | .ok pl =>
      let (r, b) := engGet r pl n
      (.ok (r, bytesWords (n / 8) b), r.s)
  else
    match engPage r.s (engPart r) (.dev ref.toNat) n .read with
    | (.error e, s) => (.error e, s)
    | (.ok s, _) =>
      let (r, b) := engGet { r with s := s } (.dev ref.toNat) n
      (.ok (r, bytesWords (n / 8) b), r.s)
/-- The whole descriptor read, and kept as what the operation goes by (R280). -/
def engOpen (r : EngRun) (n : Nat) : Except EngErr (EngRun × List Word) × State :=
  match engDesc r n with
  | (.ok (r, w), s) => (.ok ({ r with desc := w }, w), s)
  | (.error x, s) => (.error x, s)
/-- The checks of R166 in their order, with those of the counter and status references (R164, R272): reserved values, alignment,
then the references' range. -/
def engVerdict (o : EngOp) (w : List Word) (bad align : Bool) : Except EngErr Unit :=
  if bad then .error (.code cDESC_INVALID 0 o.ref)
  else if align || refMisaligned (dWord w 4) || refMisaligned (dWord w 5) then .error (.code cALIGN 0 o.ref)
  else if refOutside o (dWord w 4) then .error (.code cRANGE 0 (refAddr (dWord w 4)))
  else if refOutside o (dWord w 5) then .error (.code cRANGE 0 (refAddr (dWord w 5)))
  else .ok ()
/-- Whether the counter and status references still name the handles they named at issue. -/
def sameRefs (o : EngOp) (w : List Word) : Bool :=
  let same (i : Nat) : Bool := bit (dWord w i) 63 = bit (dWord o.head i) 63
    && (!(bit (dWord w i) 63) || bitsOf (dWord w i).toNat 31 28 = bitsOf (dWord o.head i).toNat 31 28)
  same 4 && same 5

/-! ## xcopy and xfill (R163 to R166, R281) -/

structure Dim where
  count : Nat
  sext : Nat
  soff : Int
  sstr : Int
  dstr : Int
  resv : Nat
deriving DecidableEq, Repr, Inhabited
def int64 (w : Word) : Int := w.toInt
def dimOf (w : List Word) (d : Nat) : Dim :=
  let a := dWord w (8 + 4 * d)
  let b := dWord w (9 + 4 * d)
  { count := (field a 0 32).toNat, sext := (field a 32 32).toNat, soff := (field b 0 32).toInt, sstr := int64 (dWord w (10 + 4 * d)),
    dstr := int64 (dWord w (11 + 4 * d)), resv := (field b 32 32).toNat }
def elemBytes (c : Word) : Nat := 2 ^ (field c 53 3).toNat
/-- The index digits of a linear index, innermost first. -/
def digits : List Dim → Nat → List Nat
  | [], _ => []
  | d :: t, l => l % d.count :: digits t (l / d.count)
/-- An element of a copy: its destination, and its source where it is in bounds. -/
structure Elem where
  dst : EPlace
  src : Option EPlace
deriving DecidableEq, Repr
/-- Covered bytes as intervals of keys, in descending order. -/
abbrev Cover := List (Nat × Nat)
def placeKeyOf (p : EPlace) : Nat :=
  match p with
  | .dev va => va
  | .set n o => 2 ^ 70 + n * 2 ^ 24 + o
def cover : Cover → Nat → Nat → Cover
  | [], a, b => [(a, b)]
  | (x, y) :: t, a, b =>
    if y < a then (a, b) :: (x, y) :: t
    else if b < x then (x, y) :: cover t a b
    else cover t (min a x) (max b y)
def hits (c : Cover) (a b : Nat) : Bool := c.any fun i => i.1 < b && a < i.2
/-- The offsets of an element's bytes that a cover leaves free. -/
def freeBytes (c : Cover) (p : EPlace) (n : Nat) : List Nat :=
  let a := placeKeyOf p
  if hits c a (a + n) then (List.range n).filter fun i => !(hits c (a + i) (a + i + 1)) else List.range n
/-- Runs of consecutive numbers in a rising list: start and length. -/
def runsOf (l : List Nat) : List (Nat × Nat) :=
  l.foldr (fun i acc => match acc with
    | (j, k) :: t => if i + 1 = j then (i, k + 1) :: t else (i, 1) :: (j, k) :: t
    | [] => [(i, 1)]) []
def shiftPlace (p : EPlace) (k : Nat) : EPlace :=
  match p with
  | .dev va => .dev (va + k)
  | .set n o => .set n (o + k)
/-- Bytes of an element put at the offsets given. -/
def putBytes (r : EngRun) (p : EPlace) (bs : List Byte) (offs : List Nat) : EngRun :=
  (runsOf offs).foldl (fun r q => engPut r (shiftPlace p q.1) ((bs.drop q.1).take q.2)) r
/-- The elements of a copy in ascending order of L, or the first that lies outside a set; and whether one is out of bounds, so that PADDED
is one: also where valid writes cover it wholly (DESIGN CHOICE, entry 104). -/
def copyElems (o : EngOp) (w : List Word) (ds : List Dim) (fill : Bool) : Except EngErr (List Elem × Bool) :=
  let c := dCtl w
  let n := elemBytes c
  let pad := if fill then 1 else (field c 49 2).toNat
  let total := (ds.map fun d => d.count).foldl (· * ·) 1
  (List.range total).foldl (fun r l => do
    let (es, padded) ← r
    let ix := (digits ds l).zip ds
    let inb := !fill && (pad = 0 || ix.all fun q => 0 ≤ (q.1 : Int) + q.2.soff && (q.1 : Int) + q.2.soff < q.2.sext)
    let da : Int := (ix.map fun q => (q.1 : Int) * q.2.dstr).foldl (· + ·) 0
    let sa : Int := (ix.map fun q => ((q.1 : Int) + q.2.soff) * q.2.sstr).foldl (· + ·) 0
    if inb then do
      let src ← engPlace o 1 (srcSpace .copy c) (dWord w 1) sa n
      let dst ← engPlace o 2 (dstSpace .copy c) (dWord w 2) da n
      return ({ dst := dst, src := some src } :: es, padded)
    else if pad = 1 then do
      let dst ← engPlace o 2 (dstSpace .copy c) (dWord w 2) da n
      return ({ dst := dst, src := none } :: es, true)
    else return (es, true)) (Except.ok ([], false))
/-- Checks 1 and 2 of R166. -/
def copyCheck (o : EngOp) (w : List Word) (ds : List Dim) (fill : Bool) : Except EngErr Unit :=
  let c := dCtl w
  let n := elemBytes c
  let d0 := ds.headD default
  let off (x : Word) (k : Nat) : Bool := x.toNat % k ≠ 0
  let bad := field c 60 4 ≠ 0#4 || field c 0 44 ≠ 0#44 || dWord w 6 ≠ 0#64 || dWord w 7 ≠ 0#64 || 4 < (field c 53 3).toNat
    || (field c 49 2).toNat = 3 || 1 < dstSpace .copy c || (!fill && (1 < (field c 51 2).toNat || 1 < srcSpace .copy c))
    || ds.any (fun d => d.count = 0 || d.resv ≠ 0) || !(sameRefs o w)
  let align := if bit c 48 then
      off (dWord w 2) 16 || ds.any (fun d => d.dstr % 16 ≠ 0) || (!fill && (off (dWord w 1) 16 || ds.any fun d => d.sstr % 16 ≠ 0))
    else off (dWord w 2) n || d0.dstr % n ≠ 0 || (!fill && (off (dWord w 1) n || d0.sstr % n ≠ 0))
  engVerdict o w bad align
/-- The pad value's bytes for an element size (R163). -/
def padBytes (v : Word) (n : Nat) : List Byte := if n = 16 then bytesOf 8 v ++ bytesOf 8 v else bytesOf n v
/-- What a copy does once its elements are known: pages first, then the writes in ascending L, decided byte by byte (R165). Under COLL 01b
an element none of whose bytes is kept is not counted in ELEMS; under 00b one that a later write covers is (DESIGN CHOICE, entry 103). -/
def copyRun (r : EngRun) (es : List Elem) (n : Nat) (first : Bool) (pad : List Byte) : Except EngErr (EngRun × Nat × Bool) × State :=
  let valid := es.foldl (fun (q : Cover × Bool) e => if e.src.isSome then
      (cover q.1 (placeKeyOf e.dst) (placeKeyOf e.dst + n), q.2 || hits q.1 (placeKeyOf e.dst) (placeKeyOf e.dst + n)) else q) ([], false)
  let pads := es.foldl (fun (q : Cover × Bool) e => if e.src.isNone then
      (freeBytes valid.1 e.dst n).foldl (fun q i => let a := placeKeyOf e.dst + i; (cover q.1 a (a + 1), q.2 || hits q.1 a (a + 1))) q
    else q) ([], false)
  let offs (e : Elem) : List Nat := if e.src.isSome then List.range n else freeBytes valid.1 e.dst n
  let checks := es.flatMap fun e =>
    (match e.src with
     | some p => [(p, n, Acc.read)]
     | none => []) ++ (runsOf (offs e)).map fun q => (shiftPlace e.dst q.1, q.2, Acc.write)
  match engPages r.s (engPart r) checks with
  | (.error e, s) => (.error e, s)
  | (.ok s, _) =>
    let (r, _, k) := es.foldl (fun (q : EngRun × Cover × Nat) e =>
      let (r, bs) := match e.src with
        | some p => engGet q.1 p n
        | none => (q.1, pad)
      let os := if first then (offs e).filter fun i => !(hits q.2.1 (placeKeyOf e.dst + i) (placeKeyOf e.dst + i + 1)) else offs e
      let done := if first then (runsOf os).foldl (fun c x => cover c (placeKeyOf e.dst + x.1) (placeKeyOf e.dst + x.1 + x.2)) q.2.1 else q.2.1
      (putBytes r e.dst bs os, done, if os.isEmpty then q.2.2 else q.2.2 + 1)) ({ r with s := s }, [], 0)
    (.ok (r, k, valid.2 || pads.2), r.s)
/-- An operation that fails: nothing is written but its status and its counter (R166). -/
def engFail (r : EngRun) (e : Nat) (x : EngErr) : Host.Outcome State Fault Refusal :=
  match x with
  | .hole a => .fault (.physicalHole a)
  | .code c cause a => .next (engEnd r e (statusWord (errOf c) false false 0) (some (c, cause, a)))
/-- The first operation of an engine, when it is of a kind: the engine without it, and the operation. -/
def engStart (s : State) (e : Nat) (k : EngKind) : Option (EngRun × Nat) :=
  let cid := e / 2
  match engQueue s cid (e % 2) with
  | o :: _ => if o.kind = k then some ({ s := popEng s cid (e % 2), op := o, eng := e % 2, start := some s }, e % 2) else none
  | [] => none
/-- xcopy or xfill, run whole. -/
def runCopy (r : EngRun) (e : Nat) (fill : Bool) : Host.Outcome State Fault Refusal :=
  match engDesc r 64 with
  | (.error x, s) => engFail { r with s := s } e x
  | (.ok (r, h), _) =>
    let nd := (field (dCtl h) 56 4).toNat + 1
    match engOpen r (if r.needs.isEmpty then 64 + 32 * nd else 64) with
    | (.error x, s) => engFail { r with s := s } e x
    | (.ok (r, w), _) =>
      -- a descriptor that is still to be delivered says nothing
      if !r.needs.isEmpty then .next (putOff r r.s) else
      let ds := (List.range nd).map (dimOf w)
      match copyCheck r.op w ds fill with
      | .error x => engFail r e x
      | .ok () =>
        match copyElems r.op w ds fill with
        | .error x => engFail r e x
        | .ok (es, padded) =>
          let c := dCtl w
          let n := elemBytes c
          match copyRun r es.reverse n (!fill && field c 51 2 = 1#2) (padBytes (dWord w 3) n) with
          | (.error x, s) => engFail { r with s := s } e x
          | (.ok (r, k, coll), _) => .next (engEnd r e (statusWord 0 (coll && !fill) padded k) none)
def execCopyOperation (e : Nat) (s : State) : Host.Outcome State Fault Refusal :=
  match engStart s e .copy with
  | some (r, i) => runCopy r i false
  | none => .next s
def execFillOperation (e : Nat) (s : State) : Host.Outcome State Fault Refusal :=
  match engStart s e .fill with
  | some (r, i) => runCopy r i true
  | none => .next s

/-! ## xcompact (R167, R281) -/

/-- Whether a record with this key survives. -/
def keySurvives (test kfmt : Nat) (key thr : Nat) : Bool :=
  let a := decodeElem kfmt key
  let b := decodeElem kfmt thr
  if isNan a then false
  else if test = 3 then !(isZero a)
  else if isNan b then false
  else if test = 1 then 0 < cmpV a b
  else 0 ≤ cmpV a b
/-- The places an xcompact reads before it writes: records and keys. -/
def compactReads (o : EngOp) (w : List Word) (n rsz test kw : Nat) : Except EngErr (List (EPlace × Nat)) :=
  let ss := srcSpace .compact (dCtl w)
  let keys : Except EngErr (List (EPlace × Nat)) :=
    if test = 0 then (engPlace o 10 ss (dWord w 10) 0 (ceilDiv n 8)).map fun p => if n = 0 then [] else [(p, ceilDiv n 8)]
    else ((List.range n).foldl (fun r i => do
      let acc ← r
      let p ← engPlace o 10 ss (dWord w 10) ((i : Int) * int64 (dWord w 11)) kw
      return (p, kw) :: acc) (Except.ok [])).map List.reverse
  let recs := ((List.range n).foldl (fun r i => do
    let acc ← r
    let p ← engPlace o 1 ss (dWord w 1) ((i * rsz : Nat) : Int) rsz
    return (p, rsz) :: acc) (Except.ok [])).map List.reverse
  do
    let k ← keys
    let r ← recs
    return k ++ r
/-- The places of the survivors and of their indices. -/
def compactWrites (o : EngOp) (w : List Word) (m rsz : Nat) (none_ : Bool) : Except EngErr (List (EPlace × Nat) × List (EPlace × Nat)) := do
  let ds := dstSpace .compact (dCtl w)
  let go (f : Nat → Except EngErr (EPlace × Nat)) : Except EngErr (List (EPlace × Nat)) :=
    ((List.range (if none_ then 0 else m)).foldl (fun r j => do
      let acc ← r
      let p ← f j
      return p :: acc) (Except.ok [])).map List.reverse
  let rs ← go fun j => (engPlace o 2 ds (dWord w 2) ((j * rsz : Nat) : Int) rsz).map fun p => (p, rsz)
  let ix ← go fun j => (engPlace o 13 ds (dWord w 13) ((4 * j : Nat) : Int) 4).map fun p => (p, 4)
  return (rs, ix)
/-- Checks 1 and 2 of R166 for xcompact. -/
def compactCheck (o : EngOp) (w : List Word) : Except EngErr Unit :=
  -- ESZ is unused, so that without STRICT no alignment of SRC and DST is stated; none is of KEY, KSTR, IDX and CNT
  let c := dCtl w
  let rsz := (field (dWord w 8) 32 32).toNat
  let test := (field (dWord w 9) 0 8).toNat
  let kf := (field (dWord w 9) 8 8).toNat
  let bad := field c 60 4 ≠ 0#4 || field c 0 44 ≠ 0#44 || dWord w 6 ≠ 0#64 || dWord w 7 ≠ 0#64
    || 1 < (field c 51 2).toNat || (field c 49 2).toNat = 3
    || 1 < srcSpace .compact c || 1 < dstSpace .compact c || rsz % 16 ≠ 0 || rsz < 16 || 4096 < rsz || 3 < test
    || 12 ≤ kf || kf = 0 || kf = 5 || !(sameRefs o w)
  engVerdict o w bad (bit c 48 && ((dWord w 1).toNat % 16 ≠ 0 || (dWord w 2).toNat % 16 ≠ 0))
/-- Where the count goes: its range is known from the descriptor, so that it is checked before any page (R166). -/
def countPlace (o : EngOp) (w : List Word) : Except EngErr EPlace := engPlace o 14 (dstSpace .compact (dCtl w)) (dWord w 14) 0 4
/-- xcompact, run whole: every page is checked before anything is written. -/
def runCompact (r : EngRun) (w : List Word) : Except EngErr (EngRun × Nat) × State :=
  let n := (field (dWord w 8) 0 32).toNat
  let rsz := (field (dWord w 8) 32 32).toNat
  let test := (field (dWord w 9) 0 8).toNat
  let kf := (field (dWord w 9) 8 8).toNat
  let kw := fmtWidth kf / 8
  let planned : Except EngErr (List (EPlace × Nat) × EPlace) := do
    compactCheck r.op w
    let reads ← compactReads r.op w n rsz test kw
    let c ← countPlace r.op w
    return (reads, c)
  match planned with
  | .error x => (.error x, r.s)
  | .ok (reads, c) =>
    match engPages r.s (engPart r) (reads.map fun p => (p.1, p.2, Acc.read)) with
    | (.error x, s) => (.error x, s)
    | (.ok s, _) =>
      let nk := if test = 0 then min n 1 else n
      let (r, ks) := (reads.take nk).foldl (fun (q : EngRun × List (List Byte)) p =>
        let (r, b) := engGet q.1 p.1 p.2
        (r, q.2 ++ [b])) ({ r with s := s }, [])
      let lives (i : Nat) : Bool :=
        if test = 0 then ((ks.headD []).getD (i / 8) 0).getLsbD (i % 8)
        else keySurvives test kf (natOfBytes (ks.getD i [])) ((dWord w 12).toNat % 2 ^ (8 * kw))
      let live := (List.range n).filter lives
      -- keys that are still to be delivered decide nothing
      if !r.needs.isEmpty then (.ok (r, 0), r.s) else
      match compactWrites r.op w live.length rsz (n = 0) with
      | .error x => (.error x, r.s)
      | .ok (rs, ix) =>
        match engPages r.s (engPart r) ((rs ++ ix ++ [(c, 4)]).map fun p : EPlace × Nat => (p.1, p.2, Acc.write)) with
        | (.error x, s) => (.error x, s)
        | (.ok s, _) =>
          let r : EngRun := { r with s := s }
          let r := (live.zip (rs.zip ix)).foldl (fun r q =>
            let (r, b) := engGet r ((reads.drop nk).getD q.1 (.dev 0, 0)).1 rsz
            engPut (engPut r q.2.1.1 b) q.2.2.1 (bytesOfNat 4 q.1)) r
          (.ok (engPut r c (bytesOfNat 4 live.length), live.length), r.s)
def execCompactOperation (e : Nat) (s : State) : Host.Outcome State Fault Refusal :=
  match engStart s e .compact with
  | none => .next s
  | some (r, i) =>
    match engOpen r 128 with
    | (.error x, s) => engFail { r with s := s } i x
    | (.ok (r, w), _) =>
      if !r.needs.isEmpty then .next (putOff r r.s) else
      match runCompact r w with
      | (.error x, s) => engFail { r with s := s } i x
      | (.ok (r, m), _) => .next (engEnd r i (statusWord 0 false false m) none)

/-! ## Reductions (R174, R282, R371) -/

/-- The fields of the descriptor's control word: group, format and operation. -/
def redGroup (c : Word) : Nat := (field c 56 8).toNat
def redFmt (c : Word) : Nat := (field c 52 4).toNat
def redOp (c : Word) : Nat := (field c 50 2).toNat
def redN (w : List Word) : Nat := (field (dWord w 3) 0 32).toNat
def redComm (w : List Word) : Nat := (field (dWord w 6) 0 16).toNat
def redBytes (c : Word) : Nat := fmtWidth (redFmt c) / 8
/-- Whether a core is a member of a group that is installed. -/
def isMember (s : State) (p g c : Nat) : Bool :=
  let x := groupAt s p g
  x.installed && x.members.any fun m => memberCore m = c
/-- The root of a group: its member 0. -/
def groupRoot (s : State) (p g : Nat) : Nat := memberCore ((groupAt s p g).members.headD 0)
/-- Checks 1 and 2 of R166 for xred, and that the issuing core is a member (R282). -/
def redCheck (s : State) (o : EngOp) (w : List Word) : Except EngErr Unit :=
  let c := dCtl w
  let p := partOf s (cidOf o.core)
  let bad := field c 0 46 ≠ 0#46 || !([3, 4, 10, 11].contains (redFmt c)) || redOp c = 3 || 1 < srcSpace .reduce c || 1 < dstSpace .reduce c
    || field (dWord w 3) 32 32 ≠ 0#32 || redN w = 0 || 65536 < redN w || field (dWord w 6) 16 48 ≠ 0#48 || dWord w 7 ≠ 0#64
    || (!o.peer && redComm w ≠ 0) || !(sameRefs o w) || !(isMember s p (redGroup c) o.core)
  let off (x : Word) : Bool := x.toNat % redBytes c ≠ 0
  engVerdict o w bad (off (dWord w 1) || off (dWord w 2))
/-- The places a contribution reads and, where it receives a result, writes. -/
def redPlaces (o : EngOp) (w : List Word) (writes : Bool) : Except EngErr (EPlace × List (EPlace × Nat × Acc)) := do
  let n := redN w * redBytes (dCtl w)
  let src ← engPlace o 1 (srcSpace .reduce (dCtl w)) (dWord w 1) 0 n
  if writes then do
    let dst ← engPlace o 2 (dstSpace .reduce (dCtl w)) (dWord w 2) 0 n
    return (src, [(src, n, Acc.read), (dst, n, Acc.write)])
  else return (src, [(src, n, Acc.read)])
/-- One step of a fold: the running value, and the later one on its right (R174). -/
def redStep (fmt op : Nat) (a b : Word) : Word × Bool :=
  let w := fmtWidth fmt
  if isInt fmt then
    let x := sgn w a.toNat
    let y := sgn w b.toNat
    let q := satOrWrap w true (if op = 0 then x + y else if op = 1 then min x y else max x y)
    (BitVec.ofNat 64 q.1, q.2.sat)
  else
    let x := decodeElem fmt a.toNat
    let y := decodeElem fmt b.toNat
    let v := if op = 0 then (sumV [(x, false), (y, false)] false).1 else if op = 1 then minV x y else maxV x y
    (BitVec.ofNat 64 (roundFP fmt 0 false 0 v).1, false)
def redFold (fmt op : Nat) (a : List Word × Bool) (b : List Word) : List Word × Bool :=
  let q := (a.1.zip b).map fun p => redStep fmt op p.1 p.2
  (q.map (·.1), a.2 || q.any (·.2))
/-- An engine run for an operation that waits in a reduction: on the engine it was issued to. -/
def redRun (s : State) (c : Contrib) : EngRun := { s := s, op := c.op, eng := c.eng, raced := c.raced }
def setReds (s : State) (l : List Reduction) : State := { s with reds := l }
/-- The contribution of the group's root. -/
def rootContrib (s : State) (x : Reduction) : Option Contrib := x.contribs.find? fun c => c.member = groupRoot s x.part x.g
/-- The status of the root: what the reduction gathered (R166, R174; entry 21). -/
def redStatus (err : Nat) (sat : Bool) (elems : Nat) : Word :=
  statusWord err false false elems ||| (if sat then Config.redSat.setWidth 64 <<< 40 else 0#64)
def codeOfErr (e : Nat) : Nat := if e = 5 then cGROUP_STALE else cDESC_INVALID
/-- The engine that ends an operation of a reduction: engine 0 of member 0's cluster folds, and ends the root's; the others end on the
engine they were issued to (R282). -/
def redEng (root : Nat) (c : Contrib) : Nat := if c.member = root then 0 else c.eng
/-- The end of every operation of a reduction: the result is written where it goes, the root's status says what was found, and
an operation that fails writes nothing and raises its fault (R166, R174). -/
def redFinish (s : State) (x : Reduction) (fails : Bool) : State :=
  let root := groupRoot s x.part x.g
  let s := setReds s (s.reds.filter fun y => y ≠ x)
  (x.contribs.filter fun c => !c.joined).foldl (fun s c =>
    let r := { redRun s c with eng := redEng root c }
    let n := x.value.length * (fmtWidth c.fmt / 8)
    let dst := if fails then none else (engPlace c.op 2 (dstSpace .reduce (dCtl c.op.head)) (dWord c.op.head 2) 0 n).toOption
    let r := match dst with
      | some pl => engPut r pl (x.value.flatMap fun v => bytesOf (fmtWidth c.fmt / 8) v)
      | none => r
    let elems := if dst.isSome then x.value.length else 0
    if c.member = root then
      engEnd r 0 (redStatus x.err x.sat elems) (if x.err = 0 then none else some (codeOfErr x.err, 0, c.op.ref))
    else engEnd r c.eng (statusWord (if fails then x.err else 0) false false elems)
      (if fails then some (codeOfErr x.err, 0, c.op.ref) else none)) s
/-- A package's own fold, in ascending cluster and core (R174). A contribution unlike the root's has no value (R282). -/
def redPackage (s : State) (x : Reduction) : Reduction :=
  match rootContrib s x with
  | none => x
  | some rc =>
    let order := (groupAt s x.part x.g).members.map memberCore
    let sorted := (List.range 9216).filter fun c => order.contains c
    let like (c : Contrib) : Bool := c.fmt = rc.fmt && c.fold = rc.fold && c.vals.length = rc.vals.length
    let cs := (sorted.filterMap fun m => x.contribs.find? fun c => c.member = m)
    let vals := (cs.filter like).map (·.vals)
    let q := match vals with
      | [] => ([], false)
      | v :: t => t.foldl (redFold rc.fmt rc.fold) (v, false)
    { x with value := q.1, sat := q.2, folded := true, err := if x.stale then 5 else if cs.all like then 0 else 1 }

/-! ## Communicators (R175, R397) -/

structure Comm where
  valid : Bool
  part : Nat
  size : Nat
  rank : Nat
  ident : Word
  steps : List (BitVec 16)
deriving DecidableEq, Repr
def commAt (s : State) (c : Nat) : Comm :=
  let w (i : Nat) : Word := if c < 1024 then look 0 s.host.boot.cfg2 (8 * c + i) else 0
  { valid := bit (w 0) 63, part := (field (w 0) 56 3).toNat, size := (field (w 0) 50 6).toNat + 1, rank := (field (w 0) 44 6).toNat,
    ident := w 1, steps := (List.range 6).map fun l => field (w (2 + l / 4)) (16 * (l % 4)) 16 }
/-- Whether a rank receives from its partner at a step, and whether it sends. -/
def receivesAt (r p l : Nat) : Bool := r % 2 ^ (l + 1) = 0 && r + 2 ^ l < p
def sendsAt (r p l : Nat) : Bool := r % 2 ^ (l + 1) = 2 ^ l && r < p
def partAt (r p l : Nat) : Bool := receivesAt r p l || sendsAt r p l
def stepPort (c : Comm) (l : Nat) : Nat := bitsOf (c.steps.getD l 0).toNat 3 0
/-- A communicator is valid in a partition and its steps agree with the tree. -/
def commOk (s : State) (p : Nat) (c : Comm) : Bool :=
  c.valid && c.part = p && c.rank < c.size && (List.range 6).all fun l =>
    let v := (c.steps.getD l 0).getLsbD 15
    v = partAt c.rank c.size l && (!v || (partWord s p 0).getLsbD (stepPort c l))
/-- The next step at which the package takes part; none when its part of the tree is done. -/
def nextStep (c : Comm) (l : Nat) : Option Nat := (List.range 6).find? fun k => l ≤ k && partAt c.rank c.size k
/-- Where a reduction goes on when its package has its value: the peers, or the end. -/
def redNext (s : State) (x : Reduction) (l : Nat) : State :=
  match rootContrib s x with
  | none => setReds s (s.reds ++ [x])
  | some rc =>
    if rc.op.peer then
      let c := commAt s (redComm rc.op.head)
      if !(commOk s x.part c) then redFinish s { x with err := 1 } true
      else
        match nextStep c l with
        | some k => setReds s (s.reds ++ [{ x with step := k }])
        | none => redFinish s x false
    else redFinish s x false

/-! ## A contribution arrives (R174) -/

/-- Contributions of an earlier generation are discarded; those whose operation has not joined end with GROUP_STALE. -/
def dropStale (s : State) (x : Reduction) (gen : Nat) : State × Reduction :=
  let old := x.contribs.filter fun c => c.gen ≠ gen
  let s := (old.filter fun c => !c.joined).foldl (fun s c =>
    engEnd (redRun s c) c.eng (statusWord 5 false false 0) (some (cGROUP_STALE, 0, c.op.ref))) s
  (s, { x with contribs := x.contribs.filter fun c => c.gen = gen, stale := x.stale || !old.isEmpty })
/-- A contribution joins the first reduction of its group that is still open and lacks its member. -/
def redAccept (s : State) (p g : Nat) (c : Contrib) : State :=
  let open_ (x : Reduction) : Bool := x.part = p && x.g = g && !x.folded && !(x.contribs.any fun d => d.member = c.member && d.gen = c.gen)
  let x := (s.reds.find? open_).getD { part := p, g := g, contribs := [] }
  let s := setReds s (match s.reds.find? open_ with
    | some y => s.reds.erase y
    | none => s.reds)
  let (s, x) := dropStale s x c.gen
  let x := { x with contribs := x.contribs ++ [c] }
  if (groupAt s p g).members.all fun m => x.contribs.any fun d => d.member = memberCore m then
    redNext s (redPackage s x) 0
  else setReds s (s.reds ++ [x])
/-- The values of a contribution, from its bytes. -/
def redValues (bs : List Byte) (b n : Nat) : List Word :=
  (List.range n).map fun i => BitVec.ofNat 64 (natOfBytes ((bs.drop (b * i)).take b))
/-- An xred as its engine runs it: checked, read, and sent to the root, where it is accepted. -/
def runReduce (r : EngRun) (e : Nat) (w : List Word) : Host.Outcome State Fault Refusal :=
  let p := engPart r
  let c := dCtl w
  let g := redGroup c
  let takes := r.op.all || groupRoot r.s p g = r.op.core
  match redCheck r.s r.op w, redPlaces r.op w takes with
  | .error x, _ => engFail r e x
  | .ok _, .error x => engFail r e x
  | .ok _, .ok (src, pages) =>
    match engPages r.s p pages with
    | (.error x, s) => engFail { r with s := s } e x
    | (.ok s, _) =>
      let (r, bs) := engGet { r with s := s } src (redN w * redBytes c)
      let o := { r.op with head := w, lines := [] }
      let ct : Contrib := { member := o.core, eng := e, op := o, fmt := redFmt c, fold := redOp c,
                            vals := redValues bs (redBytes c) (redN w), gen := (groupAt r.s p g).gen, joined := !takes,
                            raced := r.races.map (·.1) }
      let s := if takes then r.races.foldl (fun s x => engFault s o e x.2) r.s
        else engDone { r with op := o } e (statusWord 0 false false 0) none
      .next (putOff r (redAccept s p g ct))
def execReduceOperation (e : Nat) (s : State) : Host.Outcome State Fault Refusal :=
  match engStart s e .reduce with
  | none => .next s
  | some (r, i) =>
    match engOpen r 64 with
    | (.error x, s) => engFail { r with s := s } i x
    | (.ok (r, w), _) => if !r.needs.isEmpty then .next (putOff r r.s) else runReduce r i w

/-- A partner's identity and values arrive at the step a reduction waits for (R175, R397): a package that receives combines them
on the right of its own; one that sent its value receives the result. -/
def execPeerPortExchange (q : PeerInput) (s : State) : Host.Outcome State Fault Refusal :=
  let waits (x : Reduction) : Bool := x.part = q.part && x.folded && x.step = q.step
    && (match rootContrib s x with
        | some rc => redComm rc.op.head = q.comm
        | none => false)
  match s.reds.find? waits with
  | none => .next s
  | some x =>
    let c := commAt s q.comm
    let rc := (rootContrib s x).getD default
    if stepPort c q.step ≠ q.port || !(look false s.host.boot.links q.port) then .next s
    else if q.ident ≠ c.ident then .next (redFinish s { x with err := 1 } true)
    else if q.values.length ≠ x.value.length then .next s
    else
      let s := setReds s (s.reds.erase x)
      if sendsAt c.rank c.size q.step then .next (redFinish s { x with value := q.values, down := true } false)
      else
        let v := redFold rc.fmt rc.fold (x.value, x.sat) q.values
        .next (redNext s { x with value := v.1, sat := v.2 } (q.step + 1))

end Sys2Proof.Machine
end

