-- ==== Sys2Proof/Machine/EvHealth.lean ====
section
/-! DEFINITION. Wear, heat and operating points (R411, R412, R414, R415). -/
namespace Sys2Proof.Machine

/-- The prediction of R415, from the powered hours and DRIFT: EOL, LOW, HIGH. An EOL beyond 32 bits, which the rule gives no value, is
free (entry 85). -/
def wearOf (drift : BitVec 16) (hours : Nat) : BitVec 32 × BitVec 32 × BitVec 32 :=
  let d := drift.toNat
  if hours < 1000 || d = 0 then (0xFFFFFFFF#32, 0xFFFFFFFF#32, 0xFFFFFFFF#32)
  else
    let x := hours * (50000 - d) / d
    let eol := if x < 2 ^ 32 then BitVec.ofNat 32 x else Config.eolBeyond hours d
    let e := eol.toNat
    (eol, BitVec.ofNat 32 (e * 3 / 4), BitVec.ofNat 32 (min (e * 5 / 4) 0xFFFFFFFE))
/-- An island's wear monitor publishes its readings: the slowdown, and its powered hours, of which STRESS counts fours. -/
def execWearUpdate (island : Nat) (drift : BitVec 16) (hours : Nat) (s : State) : Host.Outcome State Fault Refusal :=
  if 24 ≤ island then .next s
  else
    let w := wearOf drift hours
    .next (modIsland s island fun x =>
      { x with eol := w.1, low := w.2.1, high := w.2.2, drift := drift, stress := BitVec.ofNat 16 (min (hours / 4) 65535) })
def deg90 : Nat := 720
def deg100 : Nat := 800
def deg110 : Nat := 880
/-- A thermal event (kind 6). -/
def recThermal (s : State) (island point : Nat) (temp : BitVec 16) : State :=
  recEvent s (island / 6) 6 0 0 (BitVec.ofNat 64 (island + point * 256)) (temp.setWidth 64)
/-- A step of thermal control: the island changes to the point next to its own, and to no other within a millisecond (entry 101). -/
def thermalStep (s : State) (island point : Nat) (temp : BitVec 16) : State :=
  modIsland (startChange (recThermal s island point temp) island point) island fun x => { x with steppedAt := some s.clk.ns }
/-- An island's sensor reads 110 degrees: every island of its die stops (`halted`), STAGE reads 0xE, and the rings freeze. -/
def execThermalTrip (island : Nat) (temp : BitVec 16) (s : State) : Host.Outcome State Fault Refusal :=
  if 24 ≤ island || temp.toNat < deg110 then .next s
  else
    let s := modIsland s island fun x => { x with sensor := temp }
    let s := modBoot (modDie s (island / 6) fun d => { d with tripped := true }) fun b => { b with stage := 14 }
    .next (freezeRings (recEvent s 0 7 0 0 2 (bootStat s)) 7)
/-- An island's hottest sensor reads a temperature: at 100 degrees a compute island drops one point a millisecond, down to P3; at 90 it climbs
one, back to the point requested; at 110 its die stops. Islands 4 and 5 of a die have a sensor and no points. -/
def execThermalThrottle (island : Nat) (temp : BitVec 16) (s : State) : Host.Outcome State Fault Refusal :=
  if 24 ≤ island then .next s
  else if deg110 ≤ temp.toNat then execThermalTrip island temp s
  else
    let hot : Bool := deg100 ≤ temp.toNat
    let cool : Bool := temp.toNat ≤ deg90
    let s := modIsland s island fun x => { x with
      sensor := temp
      hot := 4 > island % 6 && (hot || (x.hot && !(cool && x.point ≤ x.wanted))) }
    let x := getIsland s island
    if x.changing || 4 ≤ island % 6 || x.steppedAt.any (fun t => s.clk.ns < t + 1000000) then .next s
    else if hot && x.point < 3 then .next (thermalStep s island (x.point + 1) temp)
    else if cool && x.wanted < x.point then .next (thermalStep s island (x.point - 1) temp)
    else .next s
/-- A change of point completes, and the island's clocks run again; a request that came meanwhile is taken up. -/
def execPointChangeDone (island : Nat) (s : State) : Host.Outcome State Fault Refusal :=
  let x := getIsland s island
  if !x.changing then .next s
  else
    let s := modIsland s island fun x => { x with point := x.target, changing := false }
    let x := getIsland s island
    .next (if x.point < x.wanted || (x.wanted < x.point && !x.hot) then startChange s island x.wanted else s)

end Sys2Proof.Machine
end

