-- ==== Sys2Proof/Machine/EvHost.lean ====
section
/-! DEFINITION. Events of the host ports: what a transaction of a host does (R378 to R394, R401, R413, R414). -/
namespace Sys2Proof.Machine

/-! ## Links (R378, R383) -/

def execLinkDown (link : Nat) (s : State) : Host.Outcome State Fault Refusal := .next (if link < 18 then linkLost s link else s)
def execLinkActive (link : Nat) (s : State) : Host.Outcome State Fault Refusal :=
  .next (if link < 2 then modPort s (decide (link = 1)) fun x => { x with active := true }
    else if link < 18 then modBoot s fun x => { x with links := put x.links (link - 2) true }
    else s)
def execLinkRetrain (s : State) : Host.Outcome State Fault Refusal := .next (serveWrite s .retrain)

/-! ## Semaphores (R383) -/

/-- Whether the other port's release of a semaphore goes before a port's first transaction (R383). -/
def releaseFirst (s : State) (b : Bool) (n : Nat) : Bool :=
  (s.host.tx.takeWhile fun t => portB t ≠ b).any fun t => txKind s t = .release && t.addr / 8 * 8 = 0x40000 + 8 * n
/-- The first transaction of a port, where it is an 8-byte read of a semaphore that may be applied by now and no release goes before it. -/
def semRead (s : State) (b : Bool) (n : Nat) : Option HostTx :=
  match s.host.tx.find? fun t => portB t = b with
  | some t =>
    if t.from_ ≤ s.clk.mesh && txKind s t = .acquire && t.addr = 0x40000 + 8 * n && !(releaseFirst s b n) then some t else none
  | none => none
/-- Whether the other port reads the same semaphore in the same cycle, or read it earlier and is not served yet (R379, R383). -/
def rivalRead (s : State) (t : HostTx) : Bool :=
  s.host.tx.any fun u => portB u ≠ portB t && txKind s u = .acquire && u.addr = t.addr && u.from_ ≤ t.from_
/-- A semaphore read by one port. -/
def readSem (s : State) (n : Nat) (b : Bool) : State :=
  let w := semOf s n
  if semHeld w then showAt s b stOK (bytesOf 8 w)
  else
    let w := semTake w b
    showAt (setSem s n w) b stOK (bytesOf 8 (setField w 61 1#1))
/-- A free semaphore read by both ports in one cycle: TIE names the winner, and then the loser. -/
def tieSem (s : State) (n : Nat) : State :=
  let w := semOf s n
  if semHeld w then readSem (readSem s n false) n true
  else
    let b := bit w 60
    let w := setField (semTake w b) 60 (b1 !b)
    let s := showAt (setSem s n w) b stOK (bytesOf 8 (setField w 61 1#1))
    showAt s (!b) stOK (bytesOf 8 w)
def dropTx (s : State) (t : HostTx) : State := { s with host := { s.host with tx := s.host.tx.erase t } }
def execSemaphoreAcquire (n : Nat) (a b : Bool) (s : State) : Host.Outcome State Fault Refusal :=
  match a, b with
  | false, false => .next s
  | true, false =>
    match semRead s false n with
    | some t => .next (if rivalRead s t then s else readSem (dropTx s t) n false)
    | none => .next s
  | false, true =>
    match semRead s true n with
    | some t => .next (if rivalRead s t then s else readSem (dropTx s t) n true)
    | none => .next s
  | true, true =>
    match semRead s false n, semRead s true n with
    | some t, some u => .next (if t.from_ = u.from_ then tieSem (dropTx (dropTx s t) u) n else s)
    | _, _ => .next s
def execSemaphoreRelease (s : State) : Host.Outcome State Fault Refusal := .next (serveWrite s .release)

/-! ## Configuration (R384, R393, R394, R401, R413, R414) -/

def execCfgWrite (s : State) : Host.Outcome State Fault Refusal := .next (serveWrite s .config)
def execPartitionCreate (s : State) : Host.Outcome State Fault Refusal := .next (serveWrite s .create)
/-- Every set of a partition's clusters is cleared: PCTL.V reads one, and PART is written in every core. -/
def execPartitionReady (p : Nat) (s : State) : Host.Outcome State Fault Refusal :=
  let x := getPart s p
  let cs := groupClusters (partWord s p 0)
  if x.preparing && cs.all (fun cid => (freeSets (getCl s cid)).length = 8) then
    .next (cs.foldl (fun s cid => modCl s cid fun y => { y with part := some p }) (setPart s p { x with valid := true, preparing := false }))
  else .next s
def execPartitionDestroy (s : State) : Host.Outcome State Fault Refusal := .next (serveWrite s .destroy)
def execIslandPointWrite (s : State) : Host.Outcome State Fault Refusal := .next (serveWrite s .island)
def execAttgo (s : State) : Host.Outcome State Fault Refusal := .next (serveWrite s .attgo)
def execThaw (s : State) : Host.Outcome State Fault Refusal := .next (serveWrite s .thaw)

/-! ## Injection (R386, R387) -/

def execInjectLaunch (s : State) : Host.Outcome State Fault Refusal := .next (serveWrite s (.inject 0))
def execInjectHandler (s : State) : Host.Outcome State Fault Refusal := .next (serveWrite s (.inject 1))
def execInjectTaggedData (s : State) : Host.Outcome State Fault Refusal := .next (serveWrite s (.inject 2))
def execInjectSystem (s : State) : Host.Outcome State Fault Refusal := .next (serveWrite s (.inject 3))
def execInjectAbort (s : State) : Host.Outcome State Fault Refusal := .next (serveWrite s (.inject 4))

/-! ## Reads, and device memory (R388) -/

def execHostRead (s : State) : Host.Outcome State Fault Refusal :=
  match headTx s with
  | none => .next s
  | some (t, rest) =>
    if txKind s t ≠ .read then .next s
    else
      let r := performRead { s with host := { s.host with tx := rest } } t
      .next (showAt r.1 (portB t) r.2.1 r.2.2)
def execHostWrite (s : State) : Host.Outcome State Fault Refusal := .next (serveWrite s .memory)

end Sys2Proof.Machine
end

