-- ==== Sys2Proof/Machine/EvMem.lean ====
section
/-! DEFINITION. Events of the memory path: coalesced replies, the invalidation sequencer, clearing of bank sets, the scrubber and
the replay of flits (R38, R42, R105, R122, R360, R403 to R405). -/
namespace Sys2Proof.Machine

/-- Whether an instruction of a core waits for the line that a window of a number delivers. -/
def waitsFor (s : State) (c ln no : Nat) : Option (List (Nat × Line)) :=
  match (getCore s c).wait with
  | some (.lines (some n) got) => if n = (ln, no) then some got else none
  | _ => none
/-- A line that a window delivers to a core: to its instruction that waits for it, to the entry of a load queue that an ldq reserved, and
into its L1 for a pref or an ldq, where room is found at once (R122, R257, R262). -/
def deliverLine (s : State) (c ln no : Nat) (x : Xl) (d : Line) : State :=
  let s := match waitsFor s c ln no with
    | some got => modCore s c fun k => { k with wait := some (.lines none ((ln, d) :: got)) }
    | none => s
  let s := if classOf (idxOf c) = .a then modTile s (tileOfCore c) fun x => fillsGet x ln no d else s
  if !((getCore s c).prefs.contains (ln, no)) then s
  else
    asCore (modCore s c fun k => { k with prefs := k.prefs.filter (· ≠ (ln, no)) }) c fun s =>
      match (l1Find s ln).filter (·.rd), l1Room s ln with
      | none, .ok s' => l1Fill s' ln x d
      | _, _ => s
/-- A line that a window delivers to the operation at the head of an engine that waits for it (R122). -/
def deliverEng (s : State) (i : Nat) (who : Party) (ln : Nat) (d : Line) : State :=
  let give (l : List EngOp) : List EngOp :=
    match l with
    | o :: t => if o.id = who.id && o.no = who.op then { o with lines := (ln, d) :: o.lines } :: t else l
    | [] => []
  modCl s (i / 2) fun k => if i % 2 = 0 then { k with eng0 := give k.eng0 } else { k with eng1 := give k.eng1 }
/-- The reply of a window as it reaches a core: the core's own later bytes over it (R184). -/
def replyFor (w : Window) (c : Nat) (d : Line) : Line :=
  if w.reply.isNone then d else w.late.foldl (fun d e => if e.1 = c then overlay d e.2.1 e.2.2 else d) d
/-- A window's line that can no longer be read there reaches a core: the entry of a load queue, whose ldq has passed its checks, is filled
all the same (R261); a waiting instruction tries anew, and a pref has no line (R122, R360). -/
def deliverLost (s : State) (c ln no : Nat) (d : Line) : State :=
  let s := match waitsFor s c ln no with
    | some got => modCore s c fun k => { k with wait := some (.lines none got) }
    | none => s
  let s := modCore s c fun k => { k with prefs := k.prefs.filter (· ≠ (ln, no)) }
  if classOf (idxOf c) = .a then modTile s (tileOfCore c) fun x => fillsGet x ln no d else s
/-- The coalesced reply of a window (R122): formed when its 64 mesh cycles are over, as the line then stands or as it stood
before the first write that came meanwhile; every core and engine that waits is answered, and an error of the line's goes to each (R405).
Where the line can no longer be read, an operation of an engine tries anew. -/
def execCoalesceReply (cl line : Nat) (s : State) : Host.Outcome State Fault Refusal :=
  match (getSl s cl).windows.find? fun w => w.line = line with
  | none => .next s
  | some w =>
    if s.clk.mesh < w.opened + 64 then .next s
    else
      let p := partOf s cl
      let s := modSl s cl fun y => { y with windows := y.windows.filter fun v => v ≠ w }
      let form (s : State) (x : Xl) : State × Line := match w.reply with
        | some d => (s, d)
        | none => sliceLine s p cl line x w.fresh w.who
      match (if w.dead then (s, .error (.page 1)) else translate s p cl (128 * line) .read : State × Except XErr Xl) with
      | (s, .ok x) =>
        let (s, d) := form s x
        .next (w.engs.foldl (fun s q => deliverEng s q.1 q.2 line d)
          (w.cores.foldl (fun s c => deliverLine s c line w.no x (replyFor w c d)) s))
      | (s, .error _) =>
        let (s, d) := form s { pa := w.pa, rd := true, wr := false, hc := w.hc }
        .next (w.cores.foldl (fun s c => deliverLost s c line w.no (replyFor w c d)) s)

/-! ## The invalidation sequencer (R360, R416) -/

/-- Whether a range of 64 KiB pages that a command names holds the page of a line, or meets a leaf entry. -/
def invalFrom (b : Word) : Nat := (field b 16 33).toNat
def invalCount (b : Word) : Nat := if field b 0 16 = 0#16 then 65536 else (field b 0 16).toNat
def invalLine (b : Word) (ln : Nat) : Bool :=
  bit b 63 || (invalFrom b ≤ ln / 512 && ln / 512 < invalFrom b + invalCount b)
def invalEntry (b : Word) (t : Tlb) : Bool :=
  bit b 63 || (t.page < invalFrom b + invalCount b && invalFrom b < t.page + if t.big then 512 else 1)
/-- Lines of the range leave a core's L1, dirty bytes first; a byte whose check fails is held back, and MMX comes at the next
boundary. -/
def invalL1 (s : State) (c : Nat) (b : Word) : State :=
  asCore s c fun s =>
    (((getCore s c).l1.map (·.line)).filter (invalLine b)).foldl (fun s ln =>
      let (s, i) := wbLine s ln
      let s := l1Drop s ln
      match i with
      | none => s
      | some i => modTask s fun t =>
          if t.mmxNext.isSome then t else { t with mmxNext := some (parkRecord s t t.ctx.pc t.ctx.status i) }) s
/-- Reads of the range that wait at a slice are answered with the line as it stands before the command; their translation is gone (R122,
R360). -/
def closeReads (s : State) (p cid : Nat) (b : Word) : State :=
  ((getSl s cid).windows.filter fun w => invalLine b w.line).foldl (fun s w =>
    let s := if w.reply.isSome then s
      else
        let (s, d) := sliceLine s p cid w.line { pa := w.pa, rd := true, wr := false, hc := w.hc } w.fresh w.who
        formReply s cid w.line d
    modSl s cid fun y => { y with windows := y.windows.map fun v => if v.line = w.line then { v with dead := true } else v }) s
/-- Steps 1 to 4 of R360; walks are whole steps here, so none is in progress. -/
def invalidate (s : State) (p : Nat) (b : Word) : State :=
  let cs := clustersOf s p
  let s := cs.foldl (fun s cid => modSl s cid fun y =>
    { y with
      tlb := y.tlb.filter fun t => !(t.part = p && invalEntry b t)
      walk := if bit b 62 then y.walk.filter (fun e => e.part ≠ p) else y.walk }) s
  let s := cs.foldl (fun s cid => closeReads s p cid b) s
  let s := cs.foldl (fun s cid => (List.range 9).foldl (fun s i => invalL1 s (coreNo cid i) b) s) s
  cs.foldl (fun s cid => (((getSl s cid).lines.map (·.1)).filter (invalLine b)).foldl (fun s ln => evict s cid ln) s) s
/-- The release record that the exchange of a command on XINV would leave; none where its release or its acquire does not fit, and then the
command has no effect but its trap (R194, R195, R221). A command whose task no longer waits carries no release. -/
def invalMerged (s : State) (p : Nat) (q : XCmd) : Option (List Rel) :=
  let r0 := relOf s p (q.va / 128)
  match (getCore s q.core).wait with
  | some (.inval none) =>
    let v := { s with cur := q.core }
    let d := (taskOf v).det
    match acqFits v r0 (some .sys) with
    | .ok _ => relMerged v r0 d (carried d (some .sys))
    | .error _ => none
  | _ => some r0
/-- The exchange on XINV that a command is: the word in memory, its release record `r`, and the reply to the core that waits. -/
def invalReply (s : State) (p : Nat) (q : XCmd) (r : List Rel) : State :=
  let a := (partWord s p 6).toNat
  let s := readBad (meetsMem s a 8) (homeOf s p (q.va / 128)) a (q.va / 128) (consumerOf s q.core q.va)
  let got := (memWord s a, relOf s p (q.va / 128))
  let s := digestAtomic (memWriteWord (recoded s a 8) a q.operand) q.slot q.id 6 3 q.va q.operand 0
  match (getCore s q.core).wait with
  | some (.inval none) => modCore (setRel s p (q.va / 128) r) q.core fun k => { k with wait := some (.inval (some (some got))) }
  | _ => s
def execXinvCommand (p : Nat) (s : State) : Host.Outcome State Fault Refusal :=
  match (getPart s p).xinv with
  | [] => .next s
  | q :: rest =>
    let s := modPart s p fun x => { x with xinv := rest }
    match invalMerged s p q with
    | some r =>
      let s := invalidate s p q.operand
      .next (invalReply s p q ((invalMerged s p q).getD r))
    | none => .next (modCore s q.core fun k => { k with wait := some (.inval (some none)) })

/-! ## Bank sets, scrubbing, flits -/

/-- A set's clearing ends: it is free, and the leaf wait list is served (R38, R42, R105). A cycle that begins does this itself. -/
def execSetFree (cl set : Nat) (s : State) : Host.Outcome State Fault Refusal :=
  match (getSet (getCl s cl) set).use with
  | .clearing t => if cycOfCl s cl < t then .next s else .next (serveWait (setSet s cl set {}) cl)
  | _ => .next s
/-- The scrubber reads every line of a stack: corrected lines are counted, and those beyond correction reported (R404, R405). -/
def execPatrolScrub (q : Scrub) (s : State) : Host.Outcome State Fault Refusal :=
  if 16 ≤ q.stack then .next s
  else
    let s : State := (q.corrected.filter fun pa => bitsOf pa 15 12 = q.stack && pa < 2 ^ 40).foldl (fun s pa =>
      corrected s (q.stack / 4) 0 0 (BitVec.ofNat 64 pa)) s
    let here (ln : Nat) : Bool := bitsOf (128 * ln) 15 12 = q.stack
    let lines : List Nat := ((s.flips.map fun (f : Nat × Byte) => f.1 / 128) ++ s.bad.map fun (e : Nat × BitVec 64) => e.1).eraseDups
    .next ((lines.filter here).foldl (fun s ln => readBad s 0 (128 * ln) 0 []) s)
/-- A flit received in error is sent again (R403): nothing but time comes of it, and the count of corrected errors on its die (R404):
die 0 for a host port, die k for peer ports 4k to 4k + 3, a split the spec does not give (DESIGN CHOICE, entry 75). -/
def execFlitReplay (n : Nat) (s : State) : Host.Outcome State Fault Refusal :=
  .next (modDie s (if n < 2 then 0 else (n - 2) / 4 % 4) fun d => { d with corrChip := satInc d.corrChip })

end Sys2Proof.Machine
end

