-- ==== Sys2Proof/Machine/EvSave.lean ====
section
/-! DEFINITION. A launch saved to its save block and restored from it (R94, R112, R158, R161, R168, R337, R340 to R348). -/
namespace Sys2Proof.Machine

/-! ## What a cluster's area records (R343 to R345) -/

def clusterCores (cid : Nat) : List Nat := (List.range 9).map (coreNo cid)
/-- A task that waits in a run queue, as the parcel it came in; none for a software pend. -/
def parcelOf (q : QTask) : Option Parcel :=
  let r (i : Nat) : Word := listSet q.regs i
  let hdr := r 2
  if hdr = 0#64 || !(q.kind = .handler || q.kind = .carried) then none
  else
    let src := (r 3).toNat
    let words := (List.range 15).map fun i => r (16 + i)
    some
      { hdr := hdr
        payload := (if q.kind = .carried then q.code else words).take (hLen hdr)
        src := src
        from_ := coreOfId src
        parent := q.parent
        owner := (q.slot.bind fun k => q.sender.map fun i => (k, i))
        acq := q.acq
        give := q.take }
/-- A fault task still unstarted that no parked task waits for, as its fault parcel (R367). -/
def faultParcelOf (k c : Nat) (q : QTask) : Parcel :=
  { hdr := mkHdr 3 0xD#12 (coreIdOf c) q.cls 0 8 none k
    payload := (List.range 8).map fun i => listSet q.regs (16 + i)
    src := coreIdOf c
    from_ := c
    parent := q.parent
    owner := some (k, q.serves.getD noIdentity)
    acq := q.acq
    hw := true
    serves := q.serves
    fbox := q.box }
def lateFaults (s : State) (k c : Nat) : List QTask := (getCore s c).faultq.filter fun q => q.slot = some k && q.flink = noHandle
def ofSlot (k : Nat) (p : Parcel) : Bool := hSlot p.hdr = k && !p.sys && launchBound p
/-- Parcels of a launch held for a core: faults and handlers not started, its inbox, and the cluster's overflow queue, in that
order. -/
def heldParcels (s : State) (k c : Nat) : List Parcel :=
  let x := getCore s c
  (lateFaults s k c).map (faultParcelOf k c) ++ (x.runq.filter fun q => q.slot = some k).filterMap parcelOf ++ (x.inbox.filter fun p => ofSlot k p && !p.soft)
    ++ (getCl s (cidOf c)).overflow.filter fun p => ofSlot k p && hDestCore p.hdr = c
/-- Tasks of software pends that have not run, one each, in order. -/
def softsOf (s : State) (k c : Nat) : List Parcel :=
  ((getCore s c).runq.filter fun q => q.slot = some k && q.soft).map (fun q => softParcel s c (q.tag.toNat % 256) q.parent q.acq)
    ++ (getCore s c).inbox.filter fun p => ofSlot k p && p.soft
def softTag (p : Parcel) : Nat := (hTag p.hdr).toNat % 256
/-- Tags whose software pend started a handler that has not run. -/
def pendsOf (s : State) (k c : Nat) : List Nat := (softsOf s k c).map softTag
def tagsKept (s : State) (k c : Nat) : List Nat := ((getCore s c).tagsBy ++ pendsOf s k c).eraseDups
def persistOf (s : State) (c : Nat) : List Byte := locRead s (.store c (persistBase c)) 4096
/-- The sets a core's record-keeping covers: handles attached on a core. -/
def attachedAt (s : State) (c : Nat) : List Nat := (List.range 16).filter fun h => bmV (bmapOf (getCore s c) h)
def isTask (w : Holder) : Bool :=
  match w with
  | .task _ => true
  | _ => false
/-- Whether a core needs a record (R345). -/
def coreHolds (s : State) (k c : Nat) : Bool :=
  let x := getCore s c
  x.holders.any (fun e => !(isTask e.2)) || !(x.trigs.isEmpty) || !(x.recvs.isEmpty) || !((heldParcels s k c).isEmpty)
    || !((tagsKept s k c).isEmpty) || (persistOf s c).any fun b => b ≠ 0
def pad128 (b : List Byte) : List Byte := b ++ zeros ((128 - b.length % 128) % 128)
def trigBytes (t : Trig) : List Byte := bytesOf 8 t.ctr ++ bytesOf 8 t.val ++ bytesOf 8 (t.tag.setWidth 64)
def recvBytes (r : Recv) : List Byte :=
  bytesOf 8 (r.tag.setWidth 64) ++ (match r.src with
    | some x => bytesOf 8 (x.setWidth 64)
    | none => bytesOfNat 8 (2 ^ 63)) ++ bytesOf 8 r.buf ++ bytesOf 8 r.ctr
def heldBytes (p : Parcel) : List Byte := bytesOf 8 p.hdr ++ wordsBytes ((List.range 15).map fun i => p.payload.getD i 0)
/-- A tag state (R345). -/
def tagState (s : State) (k c t : Nat) : Word :=
  let e := tagOf (getCore s c) t
  BitVec.ofNat 64 (t + (if tagEN e then 256 else 0) + if bit e 62 || (pendsOf s k c).contains t then 512 else 0)
/-- A core record. NTAG counts to 255: a state beyond that stays with the launch (entry 19). -/
def coreBytes (s : State) (k c : Nat) : List Byte :=
  let x := getCore s c
  let held := (heldParcels s k c).take 255
  let tags := (tagsKept s k c).take 255
  let n (i : Nat) : Byte := BitVec.ofNat 8 i
  pad128 ([n (idxOf c), n x.trigs.length, n x.recvs.length, n held.length, n tags.length] ++ zeros 11
    ++ x.trigs.flatMap trigBytes ++ x.recvs.flatMap recvBytes ++ held.flatMap heldBytes ++ tags.flatMap (fun t => bytesOf 8 (tagState s k c t)) ++ persistOf s c)
/-- A tile record. -/
def tileBytes (s : State) (t : Nat) : List Byte :=
  let x := getTile s t
  let q (m : NMap (List Line)) (i : Nat) : List Line := look [] m i
  let lines (l : List Line) : List Byte := (List.range 8).flatMap fun i => bytesOf 128 (l.getD i 0)
  let n (i : Nat) : Byte := BitVec.ofNat 8 i
  [n (t % 4)] ++ zeros 7 ++ (List.range 8).map (fun i => look 0 x.sems i)
    ++ (List.range 8).flatMap (fun i => bytesOf 4 (look 0x00406001#32 x.shapes i))
    ++ (List.range 4).map (fun i => n (q x.lq i).length) ++ (List.range 4).map (fun i => n (q x.sq i).length)
    ++ (List.range 8).map (fun i => n (look [] x.chans i).length) ++ zeros 64
    ++ (List.range 512).flatMap (fun i => bytesOf 96 (look 0 x.rows i))
    ++ (List.range 8192).flatMap (fun i => bytesOf 4 (look 0 x.acc i))
    ++ (List.range 8).flatMap (fun r =>
        let z : Side := look {} x.sides r
        (List.range 256).flatMap (fun i => bytesOf 2 (look 0 x.entries (256 * r + i)))
          ++ bytesOf 32 z.fill ++ bytesOfNat 2 (sstOf x r) ++ zeros 94)
    ++ (List.range 4).flatMap (fun i => lines (q x.lq i)) ++ (List.range 4).flatMap (fun i => lines (q x.sq i))
    ++ (List.range 8).flatMap fun i => (List.range 64).flatMap fun j => bytesOf 8 ((look [] x.chans i).getD j 0)
def tileLen : Nat := 99456
def setLen : Nat := 278656
/-- A set record. -/
def setRecord (s : State) (c h : Nat) : List Byte :=
  let e := bmapOf (getCore s c) h
  let st : Nat := match find (getCore s c).holders h with
    | some (.resident _) => 1
    | some (.pending _) => 2
    | _ => 0
  [BitVec.ofNat 8 (idxOf c), BitVec.ofNat 8 h] ++ zeros 2 ++ bytesOf 4 e ++ bytesOfNat 4 st ++ zeros 116
    ++ locRead s (.set (cidOf c) (bmSet e) 0) setBytes
/-- Tiles of a cluster with a leaf of a launch. -/
def leafTiles (s : State) (k cid : Nat) : List Nat :=
  ((List.range 4).map fun i => 4 * cid + i).filter fun t => ((getTile s t).pair.map fun p : Nat × Nat => p.1) = some k
def parkedHere (s : State) (k c : Nat) : List Task := (getCore s c).parked.filter fun t => t.slot = some k
/-- The area of a cluster (R343). Each task record takes a multiple of 128 bytes, since ctxsave's address is one (R331), and so does
the area (R342; DEDUCED, entry 73). -/
def areaBytes (s : State) (k : Nat) (l : Launch) (cid : Nat) : List Byte :=
  let cs := clusterCores cid
  let boxes := heldBoxes l cid
  let cores := cs.filter (coreHolds s k)
  let tasks := cs.flatMap fun c => (parkedHere s k c).map fun t => (c, t)
  let tiles := leafTiles s k cid
  let sets := cs.flatMap fun c => (attachedAt s c).map fun h => (c, h)
  let body := boxes.flatMap (fun b => wordsBytes (boxWords b ((stateCode b.phase).getD 0))) ++ cores.flatMap (coreBytes s k)
    ++ tasks.flatMap (fun e => pad128 (taskBytes s e.1 e.2)) ++ tiles.flatMap (tileBytes s) ++ sets.flatMap fun e => setRecord s e.1 e.2
  bytesOfNat 4 (128 + body.length) ++ bytesOfNat 2 cid ++ [1, 0] ++ bytesOfNat 4 boxes.length ++ zeros 4 ++ bytesOfNat 2 cores.length
    ++ bytesOfNat 2 tasks.length ++ bytesOfNat 1 tiles.length ++ bytesOfNat 1 sets.length ++ zeros 106 ++ body

/-! ## The save -/

/-- The counter lists of a core that survive: those of its persistent store, and of its sets by handle. -/
def ctrsKept (s : State) (c : Nat) : List CtrList :=
  (s.ctrs.filter fun x => !x.isSet && x.unit = c && persistBase c ≤ x.off && x.off < persistBase c + 4096)
    ++ (attachedAt s c).flatMap fun h =>
      (s.ctrs.filter fun x => x.isSet && x.unit = 8 * cidOf c + bmSet (bmapOf (getCore s c) h)).map fun x => { x with unit := h }
/-- What the device keeps of a core beside its records. -/
def leftAt (s : State) (k c : Nat) : Left :=
  let x := getCore s c
  { parcels := heldParcels s k c
    trigs := x.trigs
    holders := x.holders
    ctrs := ctrsKept s c
    softs := softsOf s k c
    tags := ((tagsKept s k c).drop 255).map (tagState s k c)
    tagAcq := x.tagAcq
    chans := if classOf (idxOf c) = .x && !((leafTiles s k (cidOf c)).contains (tileOfCore c)) then (getTile s (tileOfCore c)).chans else [] }
/-- A core of the region cleared of a saved launch. -/
def clearCore (s : State) (k c : Nat) : State :=
  let s := modLaunch s k fun l => { l with left := put l.left c (leftAt s k c) }
  let s := (parkedHere s k c).foldl (fun s t => takeTask s c t) s
  let s := (attachedAt s c).foldl (fun s h => releaseHandle s c h) s
  let s := { s with ctrs := s.ctrs.filter fun x => x.isSet || x.unit ≠ c }
  modCore s c fun x => { x with
    runq := x.runq.filter fun q => q.slot ≠ some k
    faultq := x.faultq.filter fun q => q.slot ≠ some k
    inbox := x.inbox.filter fun p => !(ofSlot k p)
    trigs := []
    recvs := []
    tagsBy := []
    tagAcq := [] }
/-- A cluster of the region cleared of a saved launch, and free. -/
def clearCluster (s : State) (k : Nat) (l : Launch) (cid : Nat) : State :=
  let ts := leafTiles s k cid
  let s := forgetBoxes s k cid (heldBoxes l cid)
  let s := (clusterCores cid).foldl (fun s c => clearCore s k c) s
  let s := ts.foldl (fun s t => modTile s t fun x => { x with pair := none, lq := [], sq := [] }) s
  let s := (List.range 4).foldl (fun s i => modTile s (4 * cid + i) fun x => { x with chans := [] }) s
  modCl s cid fun x => { x with
    overflow := x.overflow.filter fun p => !(ofSlot k p)
    stopped := x.stopped.filter (· ≠ k)
    holder := none
    nextSeq := 0
    spillArea := none }
/-- The areas of the clusters that are left to write, in order. -/
def writeAreas (k : Nat) : List Nat → State → State × Except SaveErr Unit
  | [], s => (s, .ok ())
  | cid :: rest, s =>
    match launchAt s k with
    | none => (s, .error .page)
    | some l =>
      let b := areaBytes s k l cid
      match allocArea s k b.length with
      | (s, .error e) => (s, .error e)
      | (s, .ok o) =>
        match unitStore s l.part (savePtr l + o) b with
        | (s, false) => (s, .error .page)
        | (s, true) => writeAreas k rest s
/-- A save-block header (R342). -/
def saveHeader (st : Nat) (size used region narea drops : Nat) (fsum stime : Word) (ctr : Nat) : List Byte :=
  bytesOfNat 8 (2 ^ 56 + st * 2 ^ 48) ++ bytesOfNat 8 size ++ bytesOfNat 8 used ++ bytesOfNat 4 region ++ bytesOfNat 2 narea
    ++ bytesOfNat 2 drops ++ bytesOf 8 fsum ++ bytesOf 8 stime ++ bytesOfNat 8 ctr ++ zeros 72
/-- REGION as a launch stands: laid out as in R22. -/
def regionWord (l : Launch) : Nat :=
  let x (a : Nat) (d : Int) : Nat := ((a : Int) + d).toNat % 256
  x l.region.x0 l.dx + 256 * x l.region.y0 l.dy + 2 ^ 16 * x l.region.x1 l.dx + 2 ^ 24 * x l.region.y1 l.dy
/-- Whether the firmware's save routines of a region have ended: no system parcel, queued or running system task, and no
halted cluster core. -/
def saversDone (s : State) (l : Launch) : Bool :=
  (lclusters l).all fun cid =>
    let c := coreNo cid 8
    let x := getCore s c
    x.sysq.isEmpty && !x.halted && !(x.run.any fun t : Task => t.kind = .system)
      && !(s.net.any fun p => p.sys && p.hw && hDestCore p.hdr = c)
/-- The header of a completed save, and the launch Saved with its region free. STIME takes the time base, as R342 says, though R353
shows no STIME and has what it does not show zero (DEDUCED, entry 114). -/
def finishSave (s : State) (k : Nat) (l : Launch) : State :=
  match unitTake s l.part (savePtr l) 128 with
  | (s, none) => saveAbort s k .page
  | (s, some b) =>
    match unitStore s l.part (savePtr l) (saveHeader 2 (le b 8 8) (le b 16 8) (regionWord l) (le b 28 2) (min l.drops 0xFFFF)
        (launchFsum l) (timeNow s) l.ids) with
    | (s, false) => saveAbort s k .page
    | (s, true) =>
      let s := (lclusters l).foldl (fun s cid => clearCluster s k l cid) s
      let n := s.disp.saves + 1
      modLaunch { s with disp := { s.disp with saves := n } } k fun l => { l with state := .saved, savedAt := n }
def execSaveComplete (k : Nat) (s : State) : Host.Outcome State Fault Refusal :=
  match launchAt s k with
  | none => .next s
  | some l =>
    if l.state ≠ .saving || !(saversDone s l) then .next s
    else
      match writeAreas k (lclusters l) s with
      | (s, .error e) => .next (saveAbort s k e)
      | (s, .ok _) =>
        match launchAt s k with
        | none => .next s
        | some l => .next (finishSave s k l)

/-! ## Reading the save block -/

/-- An area as its records. -/
structure Area where
  cid : Nat
  boxes : List (List Byte)
  cores : List (List Byte)
  tasks : List (List Byte)
  tiles : List (List Byte)
  sets : List (List Byte)
/-- Records of a kind, each with the length its own bytes give it. -/
def takeRecs (len : List Byte → Nat) : Nat → List Byte → List (List Byte) × List Byte
  | 0, b => ([], b)
  | n + 1, b =>
    let r := takeRecs len n (b.drop (len b))
    (b.take (len b) :: r.1, r.2)
def coreLen (b : List Byte) : Nat :=
  let n := 16 + 24 * le b 1 1 + 32 * le b 2 1 + 128 * le b 3 1 + 8 * le b 4 1 + 4096
  128 * ceilDiv n 128
def taskRecLen (b : List Byte) : Nat := 128 * ceilDiv (256 + frameSize (coreNo 0 (le b 72 1)) + 160 * le b 73 1) 128
def areaOf (b : List Byte) : Area :=
  let x := takeRecs (fun _ => 384) (le b 8 4) (b.drop 128)
  let c := takeRecs coreLen (le b 16 2) x.2
  let t := takeRecs taskRecLen (le b 18 2) c.2
  let i := takeRecs (fun _ => tileLen) (le b 20 1) t.2
  let z := takeRecs (fun _ => setLen) (le b 21 1) i.2
  { cid := le b 4 2, boxes := x.1, cores := c.1, tasks := t.1, tiles := i.1, sets := z.1 }
/-- The save areas of a block, found from offset 128 by their lengths. -/
def readAreas (p base used : Nat) : Nat → Nat → State → State × Option (List Area)
  | 0, _, s => (s, some [])
  | n + 1, o, s =>
    if used ≤ o then (s, some [])
    else
      match unitTake s p (base + o) 128 with
      | (s, none) => (s, none)
      | (s, some h) =>
        let len := le h 0 4
        if len < 128 then (s, some [])
        else if le h 6 1 ≠ 1 then readAreas p base used n (o + len) s
        else
          match unitTake s p (base + o) len with
          | (s, none) => (s, none)
          | (s, some b) =>
            match readAreas p base used n (o + len) s with
            | (s, none) => (s, none)
            | (s, some as) => (s, some (areaOf b :: as))
/-- A save block read: its header and its save areas. -/
def readBlock (s : State) (l : Launch) : State × Option (List Byte × List Area) :=
  match unitTake s l.part (savePtr l) 128 with
  | (s, none) => (s, none)
  | (s, some h) =>
    match readAreas l.part (savePtr l) (le h 16 8) 1152 128 s with
    | (s, none) => (s, none)
    | (s, some as) => (s, some (h, as))

/-! ## The restore (R346, R348) -/

/-- A cluster moved by a shift. -/
def movedCl (dx dy : Int) (cid : Nat) : Nat := cidAt ((xOf cid : Int) + dx).toNat ((yOf cid : Int) + dy).toNat
/-- A set record filled into a free set, at the handle it had (R112). -/
def restoreSet (s : State) (k cid : Nat) (left : NMap Left) (from' : Nat) (b : List Byte) : State :=
  match freeSets (getCl s cid) with
  | [] => s
  | n :: _ =>
    let c := coreNo cid (le b 0 1)
    let h := le b 1 1 % 16
    let e := setField (bmWritten (BitVec.ofNat 32 (le b 4 4))) 0 (BitVec.ofNat 3 n)
    let kept := find (look {} left (coreNo from' (le b 0 1))).holders h
    let who : Holder := if le b 8 4 = 1 then .resident k else if le b 8 4 = 2 then .pending k
      else match kept with
        | some (.task t) => .task t
        | _ => .task noHandle
    attachSet (setSet s cid n { data := writeUnits 16 [] 0 ((b.drop 128).take setBytes) }) c h n e who
/-- Numbers by index, those that read as unwritten left out. -/
def listed {w : Nat} (d : BitVec w) (n : Nat) (f : Nat → BitVec w) : NMap (BitVec w) := writeRun d [] 0 ((List.range n).map f)
def chunk (b : List Byte) (o n : Nat) : List Byte := (b.drop o).take n
def restoreTile (s : State) (k cid : Nat) (b : List Byte) : State :=
  let t := 4 * cid + le b 0 1 % 4
  let lines (o n : Nat) : List Line := (List.range n).map fun j => ofBytes 1024 (chunk b (o + 128 * j) 128)
  let queues (q o : Nat) : NMap (List Line) :=
    ((List.range 4).filter fun i => le b (q + i) 1 ≠ 0).map fun i => (i, lines (o + 1024 * i) (min 8 (le b (q + i) 1)))
  let name : Option Word := ((launchAt s k).bind fun l => (l.boxes.map (·.2)).find? fun r : BoxRec =>
    r.phase = .leafRun && r.cid = cid && (parkedOf s k).any fun e =>
      tileOfCore e.1 = t && (e.2.box.map fun x : Box => x.name) = some r.box.name).map fun r => r.box.name
  modTile s t fun x => { x with
    sems := listed 0 8 fun i => ofBytes 8 (chunk b (8 + i) 1)
    shapes := listed 0x00406001#32 8 fun i => ofBytes 32 (chunk b (16 + 4 * i) 4) &&& 0x00FFFF0F#32
    rows := listed 0 512 fun i => ofBytes 768 (chunk b (128 + 96 * i) 96)
    acc := listed 0 8192 fun i => ofBytes 32 (chunk b (49280 + 4 * i) 4)
    entries := listed 0 2048 fun i => ofBytes 16 (chunk b (82048 + 640 * (i / 256) + 2 * (i % 256)) 2)
    sides := (List.range 8).map fun r =>
      (r, { fill := ofBytes 256 (chunk b (82560 + 640 * r) 32), stale := le b (82592 + 640 * r) 1 % 128,
            epoch := ofBytes 8 (chunk b (82593 + 640 * r) 1) })
    lq := queues 48 87168
    sq := queues 52 91264
    chans := ((List.range 8).filter fun i => le b (56 + i) 1 ≠ 0).map fun i =>
      (i, (List.range (min 64 (le b (56 + i) 1))).map fun j => recWord b (95360 + 512 * i + 8 * j))
    waiting := none
    running := []
    resetEnd := none
    resetDue := false
    scaleWait := []
    pushes := []
    fills := []
    pair := name.map fun n => (k, n.toNat) }
/-- The set that a reference of a core names, as it is attached now. -/
def refSetOn (s : State) (c : Nat) (r : Word) : Option Nat :=
  if bit r 63 then some (bmSet (bmapOf (getCore s c) (bitsOf r.toNat 31 28))) else none
/-- A held parcel read back, on its way to its core as it now stands; reserved bits of its header take no write (R8, R149). -/
def parcelBack (cid : Nat) (base : Option Parcel) (b : List Byte) : Parcel :=
  let p : Parcel := base.getD { hdr := 0, payload := [], src := 0 }
  let hdr := setField (setField (recWord b 0 &&& ~~~7#64) 45 (BitVec.ofNat 5 (xOf cid))) 40 (BitVec.ofNat 5 (yOf cid))
  { p with hdr := hdr, payload := (List.range (hLen hdr)).map fun i => recWord b (8 + 8 * i) }
/-- The general store of a core of the region: the persistent bytes as given, every other byte zero. -/
def resetStore (s : State) (c : Nat) (persist : List Byte) : State :=
  let s := { s with ctrs := s.ctrs.filter fun x => x.isSet || x.unit ≠ c }
  let s := locWrite s none (.store c 0) (zeros (generalTop c))
  locWrite s none (.store c (persistBase c)) persist
/-- The lists of a core's counters, on its sets as they are attached now. -/
def restoreCtrs (s : State) (c : Nat) (l : List CtrList) : State :=
  { s with ctrs := s.ctrs ++ l.map fun x =>
    if x.isSet then { x with unit := 8 * cidOf c + bmSet (bmapOf (getCore s c) x.unit) } else { x with unit := c } }
/-- A tag state read back: the tasks of its software pend wait for the launch to run, with what they inherit. -/
def restoreTag (s : State) (c : Nat) (kept : Left) (w : Word) : State :=
  let t := (field w 0 8).toNat
  let en := bit w 8
  let e := setField (setField (tagOf (getCore s c) t) 63 (b1 en)) 62 (b1 (bit w 9 && !en))
  let ps := kept.softs.filter fun p => softTag p = t
  let new := (if ps.isEmpty then [softParcel s c t noHandle []] else ps).map fun p => softParcel s c t p.parent p.acq
  modCore s c fun x =>
    { x with
      tags := put x.tags t e
      tagsBy := x.tagsBy ++ [t]
      tagAcq := if bit w 9 && !en then put x.tagAcq t (look [] kept.tagAcq t) else x.tagAcq
      inbox := if bit w 9 && en then x.inbox ++ new else x.inbox }
/-- A core record: triggers, receives, tags, the persistent store, and the held parcels in their order. -/
def restoreCore (s : State) (k cid : Nat) (left : NMap Left) (from' : Nat) (b : List Byte) : State :=
  let c := coreNo cid (le b 0 1)
  let kept : Left := look {} left (coreNo from' (le b 0 1))
  let nt := le b 1 1
  let nr := le b 2 1
  let nh := le b 3 1
  let ng := le b 4 1
  let oR := 16 + 24 * nt
  let oH := oR + 32 * nr
  let oG := oH + 128 * nh
  let s := resetStore s c (chunk b (oG + 8 * ng) 4096)
  let trigs : List Trig := (List.range nt).map fun i =>
    let o := 16 + 24 * i
    let t0 := kept.trigs[i]?
    { slot := k
      ctr := recWord b o
      val := recWord b (o + 8)
      tag := field (recWord b (o + 16)) 0 12
      set := refSetOn s c (recWord b o)
      parent := (t0.map fun t : Trig => t.parent).getD noHandle
      acq := (t0.map fun t : Trig => t.acq).getD [] }
  let recvs : List Recv := (List.range nr).map fun i =>
    let o := oR + 32 * i
    { slot := k
      tag := field (recWord b o) 0 12
      src := if bit (recWord b (o + 8)) 63 then none else some (field (recWord b (o + 8)) 0 15)
      buf := recWord b (o + 16)
      ctr := recWord b (o + 24)
      set := refSetOn s c (recWord b (o + 16))
      ctrSet := refSetOn s c (recWord b (o + 24)) }
  let held := (List.range nh).map fun i => parcelBack cid (kept.parcels[i]?) (chunk b (oH + 128 * i) 128)
  let isIn (p : Parcel) : Bool := hKind p.hdr ≤ 1 || (hKind p.hdr = 2 && isXCore p)
  let faults : List QTask := (held.filter fun p => hKind p.hdr = 3).map fun p =>
    match launchAt s k with
    | some l =>
      { faultOf s c k l p with acq := p.acq }
    | none => default
  let s := modCore s c fun x => { x with trigs := x.trigs ++ trigs, recvs := x.recvs ++ recvs, inbox := x.inbox ++ held.filter isIn, faultq := x.faultq ++ faults }
  let s := modCl s cid fun x => { x with overflow := x.overflow ++ held.filter fun p => hKind p.hdr = 2 && !(isXCore p) }
  (((List.range ng).map fun i => recWord b (oG + 8 * i)) ++ kept.tags).foldl (fun s w => restoreTag s c kept w) s
/-- Fault tasks that were still to start, ahead of every queued task (R340, R348). -/
def dueFaults (s : State) (k c : Nat) : State :=
  match launchAt s k with
  | none => s
  | some l =>
    modCore s c fun x =>
      let due := x.parked.filter fun t => t.slot = some k && t.due
      { x with
        parked := x.parked.map fun t => if t.slot = some k then { t with due := false } else t
        faultq := (due.map fun t => (faultTask l k t.cls t.frec t.handle true t.box t.det.id t.det.acq)) ++ x.faultq }
/-- A task whose fault was still to be delivered, in a launch with no fault handler: it aborts the launch (R340, R354, R372). -/
def dueAbort (s : State) (k : Nat) (l : Launch) : Option Task :=
  if faulth l = noHandle then ((parkedOf s k).map (·.2)).find? fun t => t.due else none
/-- One area brought back to its cluster, as R348 says. -/
def restoreArea (s : State) (k : Nat) (l : Launch) (sh : Shift) (a : Area) : State :=
  let cid := movedCl sh.dx sh.dy a.cid
  let s := a.sets.foldl (fun s b => restoreSet s k cid l.left a.cid b) s
  let s := a.tasks.foldl (fun s b => placeTask s (some k) (recCore cid b) b) s
  let s := a.tiles.foldl (fun s b => restoreTile s k cid b) s
  let s := (clusterCores cid).foldl (fun s c => resetStore s c []) s
  -- the boxes stand first, so that a fault parcel's task finds the one it serves; nothing runs before all is back
  let s := loadBoxes s k cid (a.boxes.map (bytesWords 48))
  a.cores.foldl (fun s b => restoreCore s k cid l.left a.cid b) s
/-- The spur engine of a cluster starts, and what waited on its cores goes on. -/
def restartCluster (s : State) (k : Nat) (left : NMap Left) (sh : Shift) (cid : Nat) : State :=
  let from' := movedCl (-sh.dx) (-sh.dy) cid
  let s := modCl s cid fun x => { x with stopped := x.stopped.filter (· ≠ k) }
  let s := (List.range 9).foldl (fun s i =>
    let c := coreNo cid i
    let kept : Left := look {} left (coreNo from' i)
    let s := restoreCtrs (dueFaults s k c) c kept.ctrs
    let s := if kept.chans.isEmpty then s else modTile s (tileOfCore c) fun x => { x with chans := kept.chans }
    let s := if classOf i = .x then fillChannels s c else s
    fireTrigs (takeInbox s c) c) s
  spillCheck (spurPump (serveWait s cid) cid) k cid
/-- Everything of a launch brought back once its clusters have the sets it needs. -/
def restoreAll (s : State) (k : Nat) (sh : Shift) (h : List Byte) (as : List Area) : State :=
  match launchAt s k with
  | none => s
  | some l =>
    let s := as.foldl (fun s a => restoreArea s k l sh a) s
    let hd := saveHeader 3 (le h 8 8) 128 (le h 24 4) 0 (le h 30 2) (recWord h 32) (recWord h 40) (le h 48 8)
    match unitStore s l.part (savePtr l) hd with
    | (s, false) => saveAbort s k .page
    | (s, true) =>
      let s := modLaunch s k fun l => { l with state := .running, sliceEnd := newSlice s l, left := [], kept := [], handles := [] }
      match dueAbort s k l with
      | some t => abortLaunch s k (recCode t.frec) t.handle true
      | none => (lclusters l).foldl (fun s cid => restartCluster s k l.left sh cid) s
/-- Whether every cluster has the free sets its records need. -/
def setsReady (s : State) (sh : Shift) (as : List Area) : Bool :=
  as.all fun a =>
    let n := ((as.filter fun b => b.cid = a.cid).map fun b => b.sets.length).foldl (· + ·) 0
    n ≤ (freeSets (getCl s (movedCl sh.dx sh.dy a.cid))).length
/-- Whether the frames that a block's task records name are free. -/
def framesReady (s : State) (sh : Shift) (as : List Area) : Bool :=
  as.all fun a => a.tasks.all fun b =>
    !(frameBusy s (recCore (movedCl sh.dx sh.dy a.cid) b) (frameOfHandle (BitVec.ofNat 32 (le b 64 4))))
/-- Whether a shift is one that R346 allows: multiples of 6, the region wholly in the partition. -/
def shiftOk (s : State) (l : Launch) (sh : Shift) : Bool :=
  let dest := regionClusters l.region (l.dx + sh.dx) (l.dy + sh.dy)
  sh.dx % 6 = 0 && sh.dy % 6 = 0 && dest.length = (lclusters l).length && dest.all fun k => (getCl s k).part = some l.part
/-- The restore goes on where its clusters have the sets; else it waits (R348 step 1). -/
def goRestore (s : State) (k : Nat) (sh : Shift) (h : List Byte) (as : List Area) : State :=
  if setsReady s sh as then restoreAll s k sh h as else s
def execRestore (k : Nat) (shift : Shift) (s : State) : Host.Outcome State Fault Refusal :=
  match launchAt s k with
  | none => .next s
  | some l =>
    if l.state = .restoring then
      match readBlock s l with
      | (s, none) => .next (saveAbort s k .page)
      | (s, some (h, as)) =>
        let x : Int := bitsOf (le h 24 4) 7 0
        let y : Int := bitsOf (le h 24 4) 15 8
        .next (goRestore s k { dx := (l.region.x0 : Int) + l.dx - x, dy := (l.region.y0 : Int) + l.dy - y } h as)
    else
      let dest := regionClusters l.region (l.dx + shift.dx) (l.dy + shift.dy)
      if l.state ≠ .saved || !(shiftOk s l shift) || !(allFree s dest) || firstClaim s k l dest then .next s
      else
        match readBlock s l with
        | (s, none) => .next (saveAbort s k .page)
        | (s', some (h, as)) =>
          let moved : Bool := shift.dx ≠ 0 || shift.dy ≠ 0
          if (moved && as.any fun a => !a.tasks.isEmpty) || !(framesReady s' shift as) then .next s
          else
            let s := setLaunch s' k { l with state := .restoring, dx := l.dx + shift.dx, dy := l.dy + shift.dy }
            let s := dest.foldl (fun s cid => modCl s cid fun x => { x with holder := some k, stopped := x.stopped ++ [k] }) s
            .next (goRestore s k shift h as)

end Sys2Proof.Machine
end

