-- ==== Sys2Proof/Machine/Priv.lean ====
section
/-! DEFINITION. The privileged instructions (R329 to R333). -/
namespace Sys2Proof.Machine

/-- `wpset` (R331): WP takes a frame base of this core. -/
def execWpset (f : FmtS) (s : State) : Host.Outcome State Fault Refusal :=
  issue 0x020 (.s f) (seqBody fun s =>
    let a := readS s f.a
    if (List.range 8).any fun i => a = BitVec.ofNat 64 (frameBase s.cur i) then .ok (modTask s fun t => { t with wp := a.toNat })
    else raise s cRANGE) s
/-- The system task ends as end does, after its release (R231, R331). -/
def endSystem (s : State) : Res (State × Flow) := do
  let s ← endRelease s
  return (endRunning s, .over)
/-- `eret` (R331): a parked task of this core, of any launch, is marked resumed; the system task ends. -/
def execEret (f : FmtS) (s : State) : Host.Outcome State Fault Refusal :=
  issue 0x021 (.s f) (fun s =>
    let h := field (readS s f.a) 0 32
    if h = noHandle then endSystem s
    else
      match parkedNamed s s.cur h with
      | some _ => endSystem (resumeParked s s.cur h)
      | none => raise s cBAD_HANDLE) s
/-- `halt` (R331): the system task ends, and the core starts nothing until a system parcel arrives. -/
def execHalt (f : FmtS) (s : State) : Host.Outcome State Fault Refusal :=
  issue 0x027 (.s f) (fun s => do
    let (s, fl) ← endSystem s
    return (modCore s s.cur fun k => { k with halted := true }, fl)) s

/-- Whether accesses of a task to an attached set are still in flight (R108 step 1, R332). -/
def setBusy (s : State) (cid n : Nat) : Bool :=
  match (getSet (getCl s cid) n).use with
  | .attached _ _ => engNames s cid n none
  | _ => false
/-- `bmapw` (R332). A set taken from another handle keeps its holder; one that was free is held by no task. Of a set that its task has
released and that waits for an engine operation to join (R280) R332 says nothing: it raises SET_BUSY, as one that is being cleared does
(DESIGN CHOICE, entry 96). -/
def execBmapw (f : FmtS) (s : State) : Host.Outcome State Fault Refusal :=
  issue 0x022 (.s f) (seqBody fun s =>
    let a := readS s f.a
    let h := (field a 0 4).toNat
    let i := (field a 4 4).toNat
    let cid := cidOf s.cur
    let c := coreNo cid i
    let b : BitVec 32 := field (readS s f.b) 0 32
    let n := bmSet b
    let old := bmapOf (getCore s c) h
    if 3 < i && i ≠ 8 then raise s cRANGE
    else if !(bmV b) then .ok (if bmV old then releaseHandle s c h else s)
    else
      match (getSet (getCl s cid) n).use with
      | .reserved _ _ => raise s cSET_BUSY
      | .clearing _ => raise s cSET_BUSY
      | .draining => raise s cSET_BUSY
      | .free =>
        if bmV old then raise s cSET_BUSY
        else
          let who : Holder := match (getCl s cid).holder with
            | some k => if bmRes b then .resident k else .task noHandle
            | none => .task noHandle
          .ok (attachSet s c h n (bmWritten b) who)
      | .attached c' h' =>
        if bmV old then raise s cSET_BUSY
        else if setBusy s cid n then .error (.wait s)
        else
          let who := (find (getCore s c').holders h').getD (.task noHandle)
          .ok (attachSet (detachCore s c' h') c h n (bmWritten b) who)) s

/-! Record addresses (R331): device addresses in the core's partition, multiples of 128. -/

/-- PAGE and ALIGN of a record at an address, in the order of R256, before anything moves. -/
def recAddr (s : State) (a : Word) (n : Nat) (k : Acc) : Res State := do
  if 2 ^ 49 < a.toNat + n then
    .error (.trap { code := cPAGE, cause := 0, addr := a, aux0 := BitVec.ofNat 64 (accCode k + 256 * 7) } s)
  else if a.toNat % 128 ≠ 0 then raiseAt s cALIGN a
  else
    (pieces (n / 128 + 2) a.toNat n).foldl (fun r p => do
      let s ← r
      let (s, _) ← xlate s (myPart s) (homeOf s (myPart s) (p.1 / 128)) p.1 k 7
      return s) (Except.ok s)
def recPut (s : State) (a : Word) (bs : List Byte) : Res State := do
  let s ← recAddr s a bs.length .write
  (pieces (bs.length / 128 + 2) a.toNat bs.length).foldl (fun r p => do
    let s ← r
    weakWrite s p.1 ((bs.drop (p.1 - a.toNat)).take p.2) 7) (Except.ok s)
def recGet (s : State) (a : Word) (n : Nat) : Res (State × List Byte) := do
  let s ← recAddr s a n .read
  (pieces (n / 128 + 2) a.toNat n).foldl (fun r p => do
    let (s, acc) ← r
    let (s, b) ← weakRead s a.toNat p.1 p.2 7
    return (s, acc ++ b)) (Except.ok (s, []))

/-- `ctxsave` (R331, R344). -/
def execCtxsave (f : FmtS) (s : State) : Host.Outcome State Fault Refusal :=
  issue 0x023 (.s f) (seqBody fun s =>
    match parkedIn s (cidOf s.cur) (field (readS s f.a) 0 32) with
    | none => raise s cBAD_HANDLE
    | some (c, t) => do
      let s ← recPut s (readS s f.b) (taskBytes s c t)
      return writeS (takeTask s c t) f.d (BitVec.ofNat 64 (taskLen c t))) s
/-- `ctxload` (R331, R344): a record whose core index names no core finds no free frame. -/
def execCtxload (f : FmtS) (s : State) : Host.Outcome State Fault Refusal :=
  issue 0x024 (.s f) (seqBody fun s => do
    let a := readS s f.a
    let cid := cidOf s.cur
    let (s, b) ← recGet s a 256
    let c := recCore cid b
    let h : BitVec 32 := BitVec.ofNat 32 (le b 64 4)
    if 8 < le b 72 1 || frameBusy s c (frameOfHandle h) then raise s cFRAME_BUSY
    else do
      let (s, b) ← recGet s a (256 + frameSize c + 160 * le b 73 1)
      return writeS (placeTask s (getCl s cid).holder c b) f.d (h.setWidth 64)) s
/-- Whether the dispatcher has stopped the cluster's spur engine for a slot (R331, R340): from the start of a drain to the end of the save,
and through a restore until step 6 of R348. A Saved launch has no region, and so no spur engine to stop: unfsave and unfload name its
slot with UNF_ACTIVE (DESIGN CHOICE, entry 97). -/
def spurStopped (s : State) (k : Nat) : Bool := (getCl s (cidOf s.cur)).stopped.contains k
/-- `unfsave` (R331): the records, and the count; the spur engine forgets the boxes. -/
def execUnfsave (f : FmtS) (s : State) : Host.Outcome State Fault Refusal :=
  issue 0x025 (.s f) (seqBody fun s =>
    let k := (field (readS s f.a) 0 10).toNat
    if !(spurStopped s k) then raise s cUNF_ACTIVE
    else
      match launchAt s k with
      | none => raise s cUNF_ACTIVE
      | some l => do
        let bs := heldBoxes l (cidOf s.cur)
        let s ← recPut s (readS s f.b) (bs.flatMap fun b => wordsBytes (boxWords b ((stateCode b.phase).getD 0)))
        return writeS (forgetBoxes s k (cidOf s.cur) bs) f.d (BitVec.ofNat 64 bs.length)) s
/-- `unfload` (R331). -/
def execUnfload (f : FmtS) (s : State) : Host.Outcome State Fault Refusal :=
  issue 0x026 (.s f) (seqBody fun s =>
    let k := (field (readS s f.a) 0 10).toNat
    let n := (readS s f.c).toNat
    if !(spurStopped s k) then raise s cUNF_ACTIVE
    else if 2 ^ 49 / 384 < n then raiseAt s cPAGE (readS s f.b)
    else do
      let (s, b) ← recGet s (readS s f.b) (384 * n)
      let w := bytesWords (48 * n) b
      return loadBoxes s k (cidOf s.cur) ((List.range n).map fun i => (w.drop (48 * i)).take 48)) s

end Sys2Proof.Machine
end

