-- ==== Sys2Proof/Machine/Scalar.lean ====
section
/-! DEFINITION. Scalar and packed integer instructions, constants and literals (R237 to R242). -/
namespace Sys2Proof.Machine

/-! Lane results that need more than a line (R238 to R240). `w` is the lane width; operands are lanes below 2^w. -/

def divS (w a b : Nat) : Nat :=
  if b = 0 then 2 ^ w - 1 else wrapInt w ((sgn w a).tdiv (sgn w b))
def remS (w a b : Nat) : Nat :=
  if b = 0 then a else wrapInt w ((sgn w a).tmod (sgn w b))
def clzN (w a : Nat) : Nat := if a = 0 then w else w - 1 - Nat.log2 a
def ctzN (w a : Nat) : Nat := ((List.range w).find? fun i => Nat.testBit a i).getD w
def popN (w a : Nat) : Nat := ((List.range w).filter fun i => Nat.testBit a i).length
/-- bfx (R240): the field that `b` describes, zero- or sign-extended. -/
def bfxN (a b : Nat) : Nat :=
  let pos := bitsOf b 5 0
  let l := min (bitsOf b 14 8) (64 - pos)
  let v := a / 2 ^ pos % 2 ^ l
  if l = 0 then 0 else if Nat.testBit b 15 then wrapInt 64 (sgn l v) else v
/-- bfi (R240): the low bits of `a` laid into `c`. -/
def bfiN (a b c : Nat) : Nat :=
  let pos := bitsOf b 5 0
  let l := min (bitsOf b 14 8) (64 - pos)
  c % 2 ^ pos + a % 2 ^ l * 2 ^ pos + c / 2 ^ (pos + l) * 2 ^ (pos + l)

/-! The two forms (R237, R241). -/

/-- The lane results of the register form: `fn` of the width and the lanes of a, b and c. -/
def laneValue (s : State) (f : FmtS) (fn : Nat → Nat → Nat → Nat → Nat) : Word :=
  let w := 64 / 2 ^ f.lw.toNat
  let n := 64 / w
  let a := modLanes f.amod (splitLanes w n (readS s f.a).toNat)
  let b := splitLanes w n (readS s f.b).toNat
  let c := splitLanes w n (readS s f.c).toNat
  BitVec.ofNat 64 (joinLanes w ((List.range n).map fun i => fn w (a.getD i 0) (b.getD i 0) (c.getD i 0)))
def laneReg (op : Nat) (f : FmtS) (fn : Nat → Nat → Nat → Nat → Nat) : Body :=
  seqBody fun s => .ok (writeSLat s f.d (laneValue s f fn) (latOf op (.s f)) (ilkOf op (.s f)))
/-- The immediate as source b: sign-extended, or its low bits in every lane (R241). -/
def immLane (w : Nat) (imm : BitVec 32) : Nat := if w = 64 then (imm.signExtend 64).toNat else imm.toNat % 2 ^ w
/-- The lane results of the immediate form; source c is the old destination. -/
def laneImmValue (s : State) (f : FmtI) (fn : Nat → Nat → Nat → Nat → Nat) : Word :=
  let w := 64 / 2 ^ (field f.sub 0 3).toNat
  let n := 64 / w
  let a := splitLanes w n (readS s f.a).toNat
  let c := splitLanes w n (readS s f.d).toNat
  BitVec.ofNat 64 (joinLanes w ((List.range n).map fun i => fn w (a.getD i 0) (immLane w f.imm) (c.getD i 0)))
def laneImm (op : Nat) (f : FmtI) (fn : Nat → Nat → Nat → Nat → Nat) : Body :=
  seqBody fun s => .ok (writeSLat s f.d (laneImmValue s f fn) (latOf op (.i f)) (ilkOf op (.i f)))

/-! Register forms (R238). -/

def execAdd (f : FmtS) (s : State) : Host.Outcome State Fault Refusal :=
  issue 0x040 (.s f) (laneReg 0x040 f (fun _ a b _ => a + b)) s
def execSub (f : FmtS) (s : State) : Host.Outcome State Fault Refusal :=
  issue 0x041 (.s f) (laneReg 0x041 f (fun w a b _ => a + 2 ^ w - b)) s
def execMul (f : FmtS) (s : State) : Host.Outcome State Fault Refusal :=
  issue 0x042 (.s f) (laneReg 0x042 f (fun _ a b _ => a * b)) s
def execMulh (f : FmtS) (s : State) : Host.Outcome State Fault Refusal :=
  issue 0x043 (.s f) (laneReg 0x043 f (fun w a b _ => wrapInt w (sgn w a * sgn w b / (2 ^ w : Nat)))) s
def execMulhu (f : FmtS) (s : State) : Host.Outcome State Fault Refusal :=
  issue 0x044 (.s f) (laneReg 0x044 f (fun w a b _ => a * b / 2 ^ w)) s
def execDivOp (f : FmtS) (s : State) : Host.Outcome State Fault Refusal :=
  issue 0x045 (.s f) (laneReg 0x045 f (fun w a b _ => divS w a b)) s
def execDivu (f : FmtS) (s : State) : Host.Outcome State Fault Refusal :=
  issue 0x046 (.s f) (laneReg 0x046 f (fun w a b _ => if b = 0 then 2 ^ w - 1 else a / b)) s
def execRemOp (f : FmtS) (s : State) : Host.Outcome State Fault Refusal :=
  issue 0x047 (.s f) (laneReg 0x047 f (fun w a b _ => remS w a b)) s
def execRemu (f : FmtS) (s : State) : Host.Outcome State Fault Refusal :=
  issue 0x048 (.s f) (laneReg 0x048 f (fun _ a b _ => if b = 0 then a else a % b)) s
def execAndOp (f : FmtS) (s : State) : Host.Outcome State Fault Refusal :=
  issue 0x049 (.s f) (laneReg 0x049 f (fun _ a b _ => a &&& b)) s
def execOrOp (f : FmtS) (s : State) : Host.Outcome State Fault Refusal :=
  issue 0x04A (.s f) (laneReg 0x04A f (fun _ a b _ => a ||| b)) s
def execXorOp (f : FmtS) (s : State) : Host.Outcome State Fault Refusal :=
  issue 0x04B (.s f) (laneReg 0x04B f (fun _ a b _ => a ^^^ b)) s
def execAndn (f : FmtS) (s : State) : Host.Outcome State Fault Refusal :=
  issue 0x04C (.s f) (laneReg 0x04C f (fun w a b _ => a &&& (2 ^ w - 1 - b))) s
def execShl (f : FmtS) (s : State) : Host.Outcome State Fault Refusal :=
  issue 0x04D (.s f) (laneReg 0x04D f (fun w a b _ => a * 2 ^ (b % w))) s
def execShr (f : FmtS) (s : State) : Host.Outcome State Fault Refusal :=
  issue 0x04E (.s f) (laneReg 0x04E f (fun w a b _ => a / 2 ^ (b % w))) s
def execSar (f : FmtS) (s : State) : Host.Outcome State Fault Refusal :=
  issue 0x04F (.s f) (laneReg 0x04F f (fun w a b _ => wrapInt w (sgn w a / (2 ^ (b % w) : Nat)))) s
def execRot (f : FmtS) (s : State) : Host.Outcome State Fault Refusal :=
  issue 0x050 (.s f) (laneReg 0x050 f (fun w a b _ => a * 2 ^ (b % w) + a / 2 ^ (w - b % w))) s
def execMinOp (f : FmtS) (s : State) : Host.Outcome State Fault Refusal :=
  issue 0x051 (.s f) (laneReg 0x051 f (fun w a b _ => if sgn w b < sgn w a then b else a)) s
def execMaxOp (f : FmtS) (s : State) : Host.Outcome State Fault Refusal :=
  issue 0x052 (.s f) (laneReg 0x052 f (fun w a b _ => if sgn w a < sgn w b then b else a)) s
def execMinu (f : FmtS) (s : State) : Host.Outcome State Fault Refusal :=
  issue 0x053 (.s f) (laneReg 0x053 f (fun _ a b _ => if b < a then b else a)) s
def execMaxu (f : FmtS) (s : State) : Host.Outcome State Fault Refusal :=
  issue 0x054 (.s f) (laneReg 0x054 f (fun _ a b _ => if a < b then b else a)) s
def execSetOp (f : FmtS) (s : State) : Host.Outcome State Fault Refusal :=
  issue 0x055 (.s f) (laneReg 0x055 f (fun w a b _ => if condHolds f.sub.toNat w a b then 1 else 0)) s
def execSel (f : FmtS) (s : State) : Host.Outcome State Fault Refusal :=
  issue 0x056 (.s f) (laneReg 0x056 f (fun _ a b c => if a ≠ 0 then b else c)) s
def execClz (f : FmtS) (s : State) : Host.Outcome State Fault Refusal :=
  issue 0x057 (.s f) (laneReg 0x057 f (fun w a _ _ => clzN w a)) s
def execCtz (f : FmtS) (s : State) : Host.Outcome State Fault Refusal :=
  issue 0x058 (.s f) (laneReg 0x058 f (fun w a _ _ => ctzN w a)) s
def execPopc (f : FmtS) (s : State) : Host.Outcome State Fault Refusal :=
  issue 0x059 (.s f) (laneReg 0x059 f (fun w a _ _ => popN w a)) s
def execBfx (f : FmtS) (s : State) : Host.Outcome State Fault Refusal :=
  issue 0x05A (.s f) (laneReg 0x05A f (fun _ a b _ => bfxN a b)) s
def execBfi (f : FmtS) (s : State) : Host.Outcome State Fault Refusal :=
  issue 0x05B (.s f) (laneReg 0x05B f (fun _ a b c => bfiN a b c)) s

/-! Immediate forms (R241). clz, ctz and popc count the immediate. -/

def execAddImm (f : FmtI) (s : State) : Host.Outcome State Fault Refusal :=
  issue 0x080 (.i f) (laneImm 0x080 f (fun _ a b _ => a + b)) s
def execSubImm (f : FmtI) (s : State) : Host.Outcome State Fault Refusal :=
  issue 0x081 (.i f) (laneImm 0x081 f (fun w a b _ => a + 2 ^ w - b)) s
def execMulImm (f : FmtI) (s : State) : Host.Outcome State Fault Refusal :=
  issue 0x082 (.i f) (laneImm 0x082 f (fun _ a b _ => a * b)) s
def execMulhImm (f : FmtI) (s : State) : Host.Outcome State Fault Refusal :=
  issue 0x083 (.i f) (laneImm 0x083 f (fun w a b _ => wrapInt w (sgn w a * sgn w b / (2 ^ w : Nat)))) s
def execMulhuImm (f : FmtI) (s : State) : Host.Outcome State Fault Refusal :=
  issue 0x084 (.i f) (laneImm 0x084 f (fun w a b _ => a * b / 2 ^ w)) s
def execDivImm (f : FmtI) (s : State) : Host.Outcome State Fault Refusal :=
  issue 0x085 (.i f) (laneImm 0x085 f (fun w a b _ => divS w a b)) s
def execDivuImm (f : FmtI) (s : State) : Host.Outcome State Fault Refusal :=
  issue 0x086 (.i f) (laneImm 0x086 f (fun w a b _ => if b = 0 then 2 ^ w - 1 else a / b)) s
def execRemImm (f : FmtI) (s : State) : Host.Outcome State Fault Refusal :=
  issue 0x087 (.i f) (laneImm 0x087 f (fun w a b _ => remS w a b)) s
def execRemuImm (f : FmtI) (s : State) : Host.Outcome State Fault Refusal :=
  issue 0x088 (.i f) (laneImm 0x088 f (fun _ a b _ => if b = 0 then a else a % b)) s
def execAndImm (f : FmtI) (s : State) : Host.Outcome State Fault Refusal :=
  issue 0x089 (.i f) (laneImm 0x089 f (fun _ a b _ => a &&& b)) s
def execOrImm (f : FmtI) (s : State) : Host.Outcome State Fault Refusal :=
  issue 0x08A (.i f) (laneImm 0x08A f (fun _ a b _ => a ||| b)) s
def execXorImm (f : FmtI) (s : State) : Host.Outcome State Fault Refusal :=
  issue 0x08B (.i f) (laneImm 0x08B f (fun _ a b _ => a ^^^ b)) s
def execAndnImm (f : FmtI) (s : State) : Host.Outcome State Fault Refusal :=
  issue 0x08C (.i f) (laneImm 0x08C f (fun w a b _ => a &&& (2 ^ w - 1 - b))) s
def execShlImm (f : FmtI) (s : State) : Host.Outcome State Fault Refusal :=
  issue 0x08D (.i f) (laneImm 0x08D f (fun w a b _ => a * 2 ^ (b % w))) s
def execShrImm (f : FmtI) (s : State) : Host.Outcome State Fault Refusal :=
  issue 0x08E (.i f) (laneImm 0x08E f (fun w a b _ => a / 2 ^ (b % w))) s
def execSarImm (f : FmtI) (s : State) : Host.Outcome State Fault Refusal :=
  issue 0x08F (.i f) (laneImm 0x08F f (fun w a b _ => wrapInt w (sgn w a / (2 ^ (b % w) : Nat)))) s
def execRotImm (f : FmtI) (s : State) : Host.Outcome State Fault Refusal :=
  issue 0x090 (.i f) (laneImm 0x090 f (fun w a b _ => a * 2 ^ (b % w) + a / 2 ^ (w - b % w))) s
def execMinImm (f : FmtI) (s : State) : Host.Outcome State Fault Refusal :=
  issue 0x091 (.i f) (laneImm 0x091 f (fun w a b _ => if sgn w b < sgn w a then b else a)) s
def execMaxImm (f : FmtI) (s : State) : Host.Outcome State Fault Refusal :=
  issue 0x092 (.i f) (laneImm 0x092 f (fun w a b _ => if sgn w a < sgn w b then b else a)) s
def execMinuImm (f : FmtI) (s : State) : Host.Outcome State Fault Refusal :=
  issue 0x093 (.i f) (laneImm 0x093 f (fun _ a b _ => if b < a then b else a)) s
def execMaxuImm (f : FmtI) (s : State) : Host.Outcome State Fault Refusal :=
  issue 0x094 (.i f) (laneImm 0x094 f (fun _ a b _ => if a < b then b else a)) s
def execSetImm (f : FmtI) (s : State) : Host.Outcome State Fault Refusal :=
  issue 0x095 (.i f) (laneImm 0x095 f (fun w a b _ => if condHolds (field f.sub 3 3).toNat w a b then 1 else 0)) s
def execSelImm (f : FmtI) (s : State) : Host.Outcome State Fault Refusal :=
  issue 0x096 (.i f) (laneImm 0x096 f (fun _ a b c => if a ≠ 0 then b else c)) s
def execClzImm (f : FmtI) (s : State) : Host.Outcome State Fault Refusal :=
  issue 0x097 (.i f) (laneImm 0x097 f (fun w _ a _ => clzN w a)) s
def execCtzImm (f : FmtI) (s : State) : Host.Outcome State Fault Refusal :=
  issue 0x098 (.i f) (laneImm 0x098 f (fun w _ a _ => ctzN w a)) s
def execPopcImm (f : FmtI) (s : State) : Host.Outcome State Fault Refusal :=
  issue 0x099 (.i f) (laneImm 0x099 f (fun w _ a _ => popN w a)) s
def execBfxImm (f : FmtI) (s : State) : Host.Outcome State Fault Refusal :=
  issue 0x09A (.i f) (laneImm 0x09A f (fun _ a b _ => bfxN a b)) s
def execBfiImm (f : FmtI) (s : State) : Host.Outcome State Fault Refusal :=
  issue 0x09B (.i f) (laneImm 0x09B f (fun _ a b c => bfiN a b c)) s

/-! Constants and literals (R242). -/

def execMovi (f : FmtI) (s : State) : Host.Outcome State Fault Refusal :=
  issue 0x060 (.i f) (seqBody fun s => .ok (writeSLat s f.d (f.imm.signExtend 64) 1 false)) s
def execMovhi (f : FmtI) (s : State) : Host.Outcome State Fault Refusal :=
  issue 0x061 (.i f) (seqBody fun s => .ok (writeSLat s f.d (f.imm ++ field (readS s f.d) 0 32) 1 false)) s
/-- The word lit reads: through the code path, or a payload word of a carried-code task. -/
def literal (s : State) (imm : BitVec 32) : Res (State × Word) :=
  let t := taskOf s
  if t.kind = .carried then
    let i : Int := (t.ctx.pc.toNat / 8 : Nat) + imm.toInt
    if i < 0 then raise s cILLEGAL_CARRIED
    else
      match t.code[i.toNat]? with
      | some w => .ok (s, w)
      | none => raise s cILLEGAL_CARRIED
  else codeWord s (t.ctx.pc + (imm.signExtend 64 <<< 3))
def execLit (f : FmtI) (s : State) : Host.Outcome State Fault Refusal :=
  issue 0x062 (.i f) (seqBody fun s => do
    let (s, w) ← literal s f.imm
    return writeSLat s f.d w 2 false) s

end Sys2Proof.Machine
end

