-- ==== Sys2Proof/Machine/Dispatch.lean ====
section
/-! DEFINITION. One arm for each constructor of `Instr`: its meaning. -/
namespace Sys2Proof.Machine

/-- The effect of an instruction of the running task of the core `s.cur`, or of an event of the device. -/
def exec (i : Instr) (s : State) : Host.Outcome State Fault Refusal :=
  match i with
  | .nop f => Sys2Proof.Machine.execNop f s
  | .hint f => Sys2Proof.Machine.execHint f s
  | .br f => Sys2Proof.Machine.execBr f s
  | .jmp f => Sys2Proof.Machine.execJmp f s
  | .jmpr f => Sys2Proof.Machine.execJmpr f s
  | .call f => Sys2Proof.Machine.execCall f s
  | .ret f => Sys2Proof.Machine.execRet f s
  | .rep f => Sys2Proof.Machine.execRep f s
  | .endTask f => Sys2Proof.Machine.execEndTask f s
  | .fmt f => Sys2Proof.Machine.execFmt f s
  | .trapOp f => Sys2Proof.Machine.execTrapOp f s
  | .brk f => Sys2Proof.Machine.execBrk f s
  | .csrr f => Sys2Proof.Machine.execCsrr f s
  | .csrw f => Sys2Proof.Machine.execCsrw f s
  | .timeOp f => Sys2Proof.Machine.execTimeOp f s
  | .resume f => Sys2Proof.Machine.execResume f s
  | .abandon f => Sys2Proof.Machine.execAbandon f s
  | .wpset f => Sys2Proof.Machine.execWpset f s
  | .eret f => Sys2Proof.Machine.execEret f s
  | .bmapw f => Sys2Proof.Machine.execBmapw f s
  | .ctxsave f => Sys2Proof.Machine.execCtxsave f s
  | .ctxload f => Sys2Proof.Machine.execCtxload f s
  | .unfsave f => Sys2Proof.Machine.execUnfsave f s
  | .unfload f => Sys2Proof.Machine.execUnfload f s
  | .halt f => Sys2Proof.Machine.execHalt f s
  | .add f => Sys2Proof.Machine.execAdd f s
  | .sub f => Sys2Proof.Machine.execSub f s
  | .mul f => Sys2Proof.Machine.execMul f s
  | .mulh f => Sys2Proof.Machine.execMulh f s
  | .mulhu f => Sys2Proof.Machine.execMulhu f s
  | .divOp f => Sys2Proof.Machine.execDivOp f s
  | .divu f => Sys2Proof.Machine.execDivu f s
  | .remOp f => Sys2Proof.Machine.execRemOp f s
  | .remu f => Sys2Proof.Machine.execRemu f s
  | .andOp f => Sys2Proof.Machine.execAndOp f s
  | .orOp f => Sys2Proof.Machine.execOrOp f s
  | .xorOp f => Sys2Proof.Machine.execXorOp f s
  | .andn f => Sys2Proof.Machine.execAndn f s
  | .shl f => Sys2Proof.Machine.execShl f s
  | .shr f => Sys2Proof.Machine.execShr f s
  | .sar f => Sys2Proof.Machine.execSar f s
  | .rot f => Sys2Proof.Machine.execRot f s
  | .minOp f => Sys2Proof.Machine.execMinOp f s
  | .maxOp f => Sys2Proof.Machine.execMaxOp f s
  | .minu f => Sys2Proof.Machine.execMinu f s
  | .maxu f => Sys2Proof.Machine.execMaxu f s
  | .setOp f => Sys2Proof.Machine.execSetOp f s
  | .sel f => Sys2Proof.Machine.execSel f s
  | .clz f => Sys2Proof.Machine.execClz f s
  | .ctz f => Sys2Proof.Machine.execCtz f s
  | .popc f => Sys2Proof.Machine.execPopc f s
  | .bfx f => Sys2Proof.Machine.execBfx f s
  | .bfi f => Sys2Proof.Machine.execBfi f s
  | .addImm f => Sys2Proof.Machine.execAddImm f s
  | .subImm f => Sys2Proof.Machine.execSubImm f s
  | .mulImm f => Sys2Proof.Machine.execMulImm f s
  | .mulhImm f => Sys2Proof.Machine.execMulhImm f s
  | .mulhuImm f => Sys2Proof.Machine.execMulhuImm f s
  | .divImm f => Sys2Proof.Machine.execDivImm f s
  | .divuImm f => Sys2Proof.Machine.execDivuImm f s
  | .remImm f => Sys2Proof.Machine.execRemImm f s
  | .remuImm f => Sys2Proof.Machine.execRemuImm f s
  | .andImm f => Sys2Proof.Machine.execAndImm f s
  | .orImm f => Sys2Proof.Machine.execOrImm f s
  | .xorImm f => Sys2Proof.Machine.execXorImm f s
  | .andnImm f => Sys2Proof.Machine.execAndnImm f s
  | .shlImm f => Sys2Proof.Machine.execShlImm f s
  | .shrImm f => Sys2Proof.Machine.execShrImm f s
  | .sarImm f => Sys2Proof.Machine.execSarImm f s
  | .rotImm f => Sys2Proof.Machine.execRotImm f s
  | .minImm f => Sys2Proof.Machine.execMinImm f s
  | .maxImm f => Sys2Proof.Machine.execMaxImm f s
  | .minuImm f => Sys2Proof.Machine.execMinuImm f s
  | .maxuImm f => Sys2Proof.Machine.execMaxuImm f s
  | .setImm f => Sys2Proof.Machine.execSetImm f s
  | .selImm f => Sys2Proof.Machine.execSelImm f s
  | .clzImm f => Sys2Proof.Machine.execClzImm f s
  | .ctzImm f => Sys2Proof.Machine.execCtzImm f s
  | .popcImm f => Sys2Proof.Machine.execPopcImm f s
  | .bfxImm f => Sys2Proof.Machine.execBfxImm f s
  | .bfiImm f => Sys2Proof.Machine.execBfiImm f s
  | .movi f => Sys2Proof.Machine.execMovi f s
  | .movhi f => Sys2Proof.Machine.execMovhi f s
  | .lit f => Sys2Proof.Machine.execLit f s
  | .boxr f => Sys2Proof.Machine.execBoxr f s
  | .boxn f => Sys2Proof.Machine.execBoxn f s
  | .pathOp f => Sys2Proof.Machine.execPathOp f s
  | .splitOp f => Sys2Proof.Machine.execSplitOp f s
  | .splitf f => Sys2Proof.Machine.execSplitf f s
  | .prune f => Sys2Proof.Machine.execPrune f s
  | .leafOp f => Sys2Proof.Machine.execLeafOp f s
  | .fitq f => Sys2Proof.Machine.execFitq f s
  | .ruleq f => Sys2Proof.Machine.execRuleq f s
  | .ld f => Sys2Proof.Machine.execLd f s
  | .st f => Sys2Proof.Machine.execSt f s
  | .lds f => Sys2Proof.Machine.execLds f s
  | .sts f => Sys2Proof.Machine.execSts f s
  | .ldq f => Sys2Proof.Machine.execLdq f s
  | .stq f => Sys2Proof.Machine.execStq f s
  | .gather f => Sys2Proof.Machine.execGather f s
  | .scatter f => Sys2Proof.Machine.execScatter f s
  | .pref f => Sys2Proof.Machine.execPref f s
  | .flush f => Sys2Proof.Machine.execFlush f s
  | .inval f => Sys2Proof.Machine.execInval f s
  | .fence f => Sys2Proof.Machine.execFence f s
  | .aadd f => Sys2Proof.Machine.execAadd f s
  | .amin f => Sys2Proof.Machine.execAmin f s
  | .amax f => Sys2Proof.Machine.execAmax f s
  | .aand f => Sys2Proof.Machine.execAand f s
  | .aor f => Sys2Proof.Machine.execAor f s
  | .axor f => Sys2Proof.Machine.execAxor f s
  | .axchg f => Sys2Proof.Machine.execAxchg f s
  | .acas f => Sys2Proof.Machine.execAcas f s
  | .aaddn f => Sys2Proof.Machine.execAaddn f s
  | .postedAtomic n => Sys2Proof.Machine.execPostedAtomic n s
  | .give f => Sys2Proof.Machine.execGive f s
  | .detach c => Sys2Proof.Machine.execDetach c s
  | .giveRes f => Sys2Proof.Machine.execGiveRes f s
  | .giveRel f => Sys2Proof.Machine.execGiveRel f s
  | .bmapr f => Sys2Proof.Machine.execBmapr f s
  | .tload f => Sys2Proof.Machine.execTload f s
  | .tstore f => Sys2Proof.Machine.execTstore f s
  | .tstoreCol f => Sys2Proof.Machine.execTstoreCol f s
  | .sems f => Sys2Proof.Machine.execSems f s
  | .semw f => Sys2Proof.Machine.execSemw f s
  | .qstat f => Sys2Proof.Machine.execQstat f s
  | .ctrwait f => Sys2Proof.Machine.execCtrwait f s
  | .ctrtrig f => Sys2Proof.Machine.execCtrtrig f s
  | .arrive f => Sys2Proof.Machine.execArrive f s
  | .send f => Sys2Proof.Machine.execSend f s
  | .sendc f => Sys2Proof.Machine.execSendc f s
  | .sendt f => Sys2Proof.Machine.execSendt f s
  | .reply f => Sys2Proof.Machine.execReply f s
  | .recvp f => Sys2Proof.Machine.execRecvp f s
  | .recvx f => Sys2Proof.Machine.execRecvx f s
  | .tagset f => Sys2Proof.Machine.execTagset f s
  | .tagr f => Sys2Proof.Machine.execTagr f s
  | .grpset f => Sys2Proof.Machine.execGrpset f s
  | .grpfree f => Sys2Proof.Machine.execGrpfree f s
  | .groupBusy c => Sys2Proof.Machine.execGroupBusy c s
  | .mcast f => Sys2Proof.Machine.execMcast f s
  | .wrq f => Sys2Proof.Machine.execWrq f s
  | .xcopy f => Sys2Proof.Machine.execXcopy f s
  | .xcompact f => Sys2Proof.Machine.execXcompact f s
  | .xfill f => Sys2Proof.Machine.execXfill f s
  | .xred f => Sys2Proof.Machine.execXred f s
  | .xstat f => Sys2Proof.Machine.execXstat f s
  | .copyOperation e => Sys2Proof.Machine.execCopyOperation e s
  | .compactOperation e => Sys2Proof.Machine.execCompactOperation e s
  | .fillOperation e => Sys2Proof.Machine.execFillOperation e s
  | .reduceOperation n => Sys2Proof.Machine.execReduceOperation n s
  | .vadd f => Sys2Proof.Machine.execVadd f s
  | .vsub f => Sys2Proof.Machine.execVsub f s
  | .vmul f => Sys2Proof.Machine.execVmul f s
  | .vfma f => Sys2Proof.Machine.execVfma f s
  | .vfms f => Sys2Proof.Machine.execVfms f s
  | .vdiv f => Sys2Proof.Machine.execVdiv f s
  | .vsqrt f => Sys2Proof.Machine.execVsqrt f s
  | .vrcp f => Sys2Proof.Machine.execVrcp f s
  | .vrsq f => Sys2Proof.Machine.execVrsq f s
  | .vexp2 f => Sys2Proof.Machine.execVexp2 f s
  | .vlog2 f => Sys2Proof.Machine.execVlog2 f s
  | .vmin f => Sys2Proof.Machine.execVmin f s
  | .vmax f => Sys2Proof.Machine.execVmax f s
  | .vabs f => Sys2Proof.Machine.execVabs f s
  | .vneg f => Sys2Proof.Machine.execVneg f s
  | .vcmp f => Sys2Proof.Machine.execVcmp f s
  | .vsel f => Sys2Proof.Machine.execVsel f s
  | .vand f => Sys2Proof.Machine.execVand f s
  | .vor f => Sys2Proof.Machine.execVor f s
  | .vxor f => Sys2Proof.Machine.execVxor f s
  | .vshl f => Sys2Proof.Machine.execVshl f s
  | .vshr f => Sys2Proof.Machine.execVshr f s
  | .vsar f => Sys2Proof.Machine.execVsar f s
  | .vcvt f => Sys2Proof.Machine.execVcvt f s
  | .vred f => Sys2Proof.Machine.execVred f s
  | .vscan f => Sys2Proof.Machine.execVscan f s
  | .vtopk f => Sys2Proof.Machine.execVtopk f s
  | .vidx f => Sys2Proof.Machine.execVidx f s
  | .vmov f => Sys2Proof.Machine.execVmov f s
  | .vbcast f => Sys2Proof.Machine.execVbcast f s
  | .vins f => Sys2Proof.Machine.execVins f s
  | .vext f => Sys2Proof.Machine.execVext f s
  | .tshape f => Sys2Proof.Machine.execTshape f s
  | .tzero f => Sys2Proof.Machine.execTzero f s
  | .mma f => Sys2Proof.Machine.execMma f s
  | .passStart t => Sys2Proof.Machine.execPassStart t s
  | .passDeliver t => Sys2Proof.Machine.execPassDeliver t s
  | .acczero f => Sys2Proof.Machine.execAcczero f s
  | .accrd f => Sys2Proof.Machine.execAccrd f s
  | .accwr f => Sys2Proof.Machine.execAccwr f s
  | .accepi f => Sys2Proof.Machine.execAccepi f s
  | .sclwait f => Sys2Proof.Machine.execSclwait f s
  | .sclsend f => Sys2Proof.Machine.execSclsend f s
  | .taskStart c => Sys2Proof.Machine.execTaskStart c s
  | .leafSteal c => Sys2Proof.Machine.execLeafSteal c s
  | .taskOverrun c => Sys2Proof.Machine.execTaskOverrun c s
  | .parkTimeout c h => Sys2Proof.Machine.execParkTimeout c h s
  | .handlerParcel n => Sys2Proof.Machine.execHandlerParcel n s
  | .carriedCodeParcel n => Sys2Proof.Machine.execCarriedCodeParcel n s
  | .taggedDataParcel n => Sys2Proof.Machine.execTaggedDataParcel n s
  | .channelParcel n => Sys2Proof.Machine.execChannelParcel n s
  | .scaleParcel n => Sys2Proof.Machine.execScaleParcel n s
  | .systemParcel n => Sys2Proof.Machine.execSystemParcel n s
  | .faultParcel n => Sys2Proof.Machine.execFaultParcel n s
  | .launchParcel n => Sys2Proof.Machine.execLaunchParcel n s
  | .queueSubmit n => Sys2Proof.Machine.execQueueSubmit n s
  | .admission p q => Sys2Proof.Machine.execAdmission p q s
  | .regionTake k => Sys2Proof.Machine.execRegionTake k s
  | .sliceEnd k => Sys2Proof.Machine.execSliceEnd k s
  | .quiescence k => Sys2Proof.Machine.execQuiescence k s
  | .saveComplete k => Sys2Proof.Machine.execSaveComplete k s
  | .restore k shift => Sys2Proof.Machine.execRestore k shift s
  | .boxReload k cl => Sys2Proof.Machine.execBoxReload k cl s
  | .boxRetire k name => Sys2Proof.Machine.execBoxRetire k name s
  | .replayStart k => Sys2Proof.Machine.execReplayStart k s
  | .recordDeferredWrite n => Sys2Proof.Machine.execRecordDeferredWrite n s
  | .faultRingWrite p dbg => Sys2Proof.Machine.execFaultRingWrite p dbg s
  | .ringInterruptTimer n => Sys2Proof.Machine.execRingInterruptTimer n s
  | .setFree cl set => Sys2Proof.Machine.execSetFree cl set s
  | .coalesceReply cl line => Sys2Proof.Machine.execCoalesceReply cl line s
  | .xinvCommand p => Sys2Proof.Machine.execXinvCommand p s
  | .patrolScrub scrub => Sys2Proof.Machine.execPatrolScrub scrub s
  | .flitReplay link => Sys2Proof.Machine.execFlitReplay link s
  | .wearUpdate island drift hours => Sys2Proof.Machine.execWearUpdate island drift hours s
  | .thermalThrottle island temp => Sys2Proof.Machine.execThermalThrottle island temp s
  | .thermalTrip island temp => Sys2Proof.Machine.execThermalTrip island temp s
  | .pointChangeDone island => Sys2Proof.Machine.execPointChangeDone island s
  | .coldReset boot => Sys2Proof.Machine.execColdReset boot s
  | .warmReset boot => Sys2Proof.Machine.execWarmReset boot s
  | .goOp boot => Sys2Proof.Machine.execGoOp boot s
  | .linkDown link => Sys2Proof.Machine.execLinkDown link s
  | .linkRetrain => Sys2Proof.Machine.execLinkRetrain s
  | .semaphoreAcquire n a b => Sys2Proof.Machine.execSemaphoreAcquire n a b s
  | .semaphoreRelease => Sys2Proof.Machine.execSemaphoreRelease s
  | .cfgWrite => Sys2Proof.Machine.execCfgWrite s
  | .partitionCreate => Sys2Proof.Machine.execPartitionCreate s
  | .partitionReady p => Sys2Proof.Machine.execPartitionReady p s
  | .partitionDestroy => Sys2Proof.Machine.execPartitionDestroy s
  | .islandPointWrite => Sys2Proof.Machine.execIslandPointWrite s
  | .attgo => Sys2Proof.Machine.execAttgo s
  | .thaw => Sys2Proof.Machine.execThaw s
  | .injectLaunch => Sys2Proof.Machine.execInjectLaunch s
  | .injectHandler => Sys2Proof.Machine.execInjectHandler s
  | .injectTaggedData => Sys2Proof.Machine.execInjectTaggedData s
  | .injectSystem => Sys2Proof.Machine.execInjectSystem s
  | .injectAbort => Sys2Proof.Machine.execInjectAbort s
  | .hostRead => Sys2Proof.Machine.execHostRead s
  | .hostWrite => Sys2Proof.Machine.execHostWrite s
  | .unassignedOpcode f => Sys2Proof.Machine.execUnassignedOpcode f s
  | .poolHeaderWord f => Sys2Proof.Machine.execPoolHeaderWord f s
  | .boxReachesSpurEngine n => Sys2Proof.Machine.execBoxReachesSpurEngine n s
  | .leafResetEnd t => Sys2Proof.Machine.execLeafResetEnd t s
  | .linkActive link => Sys2Proof.Machine.execLinkActive link s
  | .peerPortExchange peer => Sys2Proof.Machine.execPeerPortExchange peer s

end Sys2Proof.Machine
end

