-- ==== Sys2Proof/Machine/Surround.lean ====
section
/-! DEFINITION. Every turn that is neither an instruction nor an event of the table, and what a stopped island holds back (R14, R162,
R378, R379, R399 to R401, R414). -/
namespace Sys2Proof.Machine

/-! ## Islands that have stopped (R414) -/

/-- A die's islands have all stopped; the memory-and-fabric island's slices and routers, and on die 0 the dispatcher, among them. -/
def dieStopped (s : State) (die : Nat) : Bool := (getDie s die).tripped
/-- The compute island of a cluster has stopped, by a trip or for a change of point. -/
def clusterStopped (s : State) (cid : Nat) : Bool := !(clockRuns s (islandOf cid))
/-- The cluster a parcel in flight is for. -/
def parcelStopped (s : State) (n : Nat) : Bool :=
  match s.net[n]? with
  | some p => clusterStopped s (cidOf (hDestCore p.hdr))
  | none => false
/-- Whether an event of the table belongs to an island that has stopped: it does not come about until the island runs again. Events of
the links, the boot controller and the sensors, by which a die is started again, do. -/
def halted (s : State) (i : Instr) : Bool :=
  match i with
  | .detach c | .groupBusy c | .taskStart c | .leafSteal c | .taskOverrun c => clusterStopped s (cidOf c)
  | .copyOperation e | .compactOperation e | .fillOperation e | .reduceOperation e => clusterStopped s (e / 2)
  | .passStart t | .passDeliver t | .leafResetEnd t => clusterStopped s (t / 4)
  | .handlerParcel n | .carriedCodeParcel n | .taggedDataParcel n | .channelParcel n | .scaleParcel n | .systemParcel n | .faultParcel n =>
    parcelStopped s n
  | .setFree cl _ | .boxReload _ cl => clusterStopped s cl
  | .boxRetire k name =>
    match (launchAt s k).bind fun l => getBox l name with
    | some b => clusterStopped s b.cid
    | none => false
  | .boxReachesSpurEngine n =>
    match (travellers s)[n]? with
    | some b => clusterStopped s b.2.cid
    | none => false
  | .postedAtomic n =>
    match s.posted[n]? with
    | some p => dieStopped s (dieOf (homeOf s (partOf s (cidOf p.core)) (p.addr / 128)))
    | none => false
  | .coalesceReply cl _ => dieStopped s (dieOf cl)
  | .patrolScrub x => dieStopped s (x.stack / 4)
  | .launchParcel _ | .queueSubmit _ | .admission _ _ | .regionTake _ | .sliceEnd _ | .quiescence _ | .saveComplete _ | .restore _ _
  | .replayStart _ | .recordDeferredWrite _ | .faultRingWrite _ _ | .ringInterruptTimer _ | .parkTimeout _ _ | .xinvCommand _ => dieStopped s 0
  | _ => false

/-! ## The turns -/

/-- A turn that is neither an instruction nor an event of the table. -/
def surroundings (s : State) (t : Turn) : State :=
  match t with
  | .engineCommand n => if parcelStopped s n then s else engineAccepts s n
  | .sliceEvict cid _ => if dieStopped s (dieOf cid) then s else otherTurn s t
  | .hostSends x => if portActive s (portB x) then arrives s x else s
  | .powerOn => recReset { sched := s.sched } 0
  | .bootBegins => bootBegins s
  | .bootStep i => bootStep s i
  | .attestBegins => attestBegins s
  | .attestEnds => attestEnds s
  | t => otherTurn s t

end Sys2Proof.Machine
end

