-- ==== Sys2Proof/Machine/Upset.lean ====
section
/-! DEFINITION. A turn run, what it meets of a die that has stopped, and which of the flipped words of the on-chip stores it finds
(R403 to R405, R414). -/
namespace Sys2Proof.Machine

/-- What a turn comes to: a core issues the instruction it fetches, an event comes about, a clock advances, or the surroundings act. A turn
that cannot be taken now changes nothing. -/
def runTurn (t : Turn) (s : State) : Host.Outcome State Fault Refusal :=
  match t with
  | .issue c =>
    match turnOf s c with
    | .go s w => exec (decodeRaw w) s
    | .done s => .next s
    | .hole pa => .fault (.physicalHole pa)
  | .event i => if (view i).isNone && i.wellFormed && !(halted s i) then exec i s else .next s
  | t => .next (surroundings s t)
/-- A turn that has met a slice or a stack of a die that a trip has stopped does not come about (R414; entry 99). -/
def unlessStuck (s : State) (r : Host.Outcome State Fault Refusal) : Host.Outcome State Fault Refusal :=
  match r with
  | .next t => if t.stuck then .next s else r
  | r => r

/-! ## Flipped words (R403 to R405; entry 100)

A turn has found a flipped word where it reads it by what it does, or comes to something else with the word changed. -/

/-- Every bit of a word of a unit. -/
def wholeWord (unit : Nat) : BitVec 128 := BitVec.ofNat 128 (2 ^ (8 * codeBytes unit) - 1)
/-- The word of an upset, all of its bits changed. -/
def otherWord (s : State) (u : Upset) : State := wordFlip s u.unit u.place u.word (wholeWord u.unit)
/-- Where the word stands after the turn: a queue's or a channel's entries move up as its head is popped. -/
def movedTo (u : Upset) : List Nat :=
  if u.unit = 5 && 21504 ≤ u.word then [u.word, u.word - 32, u.word - 64, u.word - 96] else [u.word]
/-- A byte set to zero in a line of a list of lines. -/
def blankBytes (d : Line) (off n : Nat) : Line := overlay d 0 (maskRange (off % 128) n)
/-- The bytes of the word of an upset. -/
def wordBytes (s : State) (u : Upset) : List Byte :=
  let n := codeBytes u.unit
  let off := n * u.word
  if u.unit = 1 then ((find (getSl s u.place).lines (off / 128)).map fun e : SLine => lineBytes e.data (off % 128) n).getD []
  else if u.unit = 2 then
    (((getCore s u.place).l1.find? fun l => l.line = off / 128).map fun l : L1Line => lineBytes l.data (off % 128) n).getD []
  else if u.unit = 3 then locRead s (.set (unitCluster 3 u.place) (u.place % 8) off) n
  else if u.unit = 4 then storeBytes (getCore s u.place) off n
  else tileStored (getTile s u.place) off n
/-- The machine without the values that registers with a write in flight had before it (R79). -/
def withoutOld (s : State) : State :=
  { s with cores := s.cores.map fun e => (e.1, { e.2 with wr := e.2.wr.map fun w => { w with old := 0 } }) }
/-- The machine without the word of an upset wherever a write-back or an eviction takes it (R121, R405), and where a
write of some of its bytes leaves the rest: such a transfer is no access that consumes the word. -/
def withoutWord (s : State) (u : Upset) : State :=
  let n := codeBytes u.unit
  let off := n * u.word
  let blank (l : Line) : Line := blankBytes l off n
  let quietTask (t : Task) : Task :=
    { t with dig := {}, held := t.held.map fun h => if h.line = off / 128 then { h with data := blank h.data } else h }
  let quietCore (c : Nat) (k : Core) : Core :=
    { k with
      run := k.run.map quietTask
      parked := k.parked.map quietTask
      l1 := if u.unit = 2 && c = u.place then k.l1.map fun l => if l.line = off / 128 then { l with data := blank l.data } else l else k.l1 }
  let quietSlice (y : Slice) : Slice :=
    { y with
      lines := y.lines.map fun e => if e.1 = off / 128 then (e.1, { e.2 with data := blank e.2.data }) else e
      windows := y.windows.map fun w => if w.line = off / 128 then { w with reply := none } else w }
  let pas : List Nat := s.slices.flatMap fun e => (find e.2.lines (off / 128)).toList.map (·.pa)
  let s := { s with
    cores := s.cores.map fun e => (e.1, quietCore e.1 e.2)
    launches := s.launches.map fun e => (e.1, { e.2 with digest := 0 })
    host := { s.host with writes := [] } }
  if u.unit = 1 || u.unit = 2 then
    let gone (a : Nat) : Bool := pas.any fun pa => pa + off % 128 ≤ a && a < pa + off % 128 + n
    { s with mem := s.mem.filter fun e => !(gone e.1), slices := s.slices.map fun e => (e.1, quietSlice e.2) }
  else wordFlip s u.unit u.place u.word (ofBytes 128 (wordBytes s u))
/-! What a turn reads of the on-chip stores by what it does, whatever comes of the value. -/

/-- Whether the word of an upset has one of some bytes of a unit. -/
def Upset.within (u : Upset) (unit place off n : Nat) : Bool :=
  u.unit = unit && u.place = place && off < codeBytes unit * (u.word + 1) && codeBytes unit * u.word < off + n
/-- The bytes of a virtual address at their home slice. -/
def atSlice (s : State) (u : Upset) (cid va n : Nat) : Bool := u.within 1 (homeOf s (partOf s cid) (va / 128)) va n
/-- The sources of an instruction that names the registers of a payload besides; those move into the parcel. -/
def sourceRegs (op : Nat) (f : Fields) : List Reg :=
  let l := readsOf op f
  if [0x168, 0x169, 0x16A, 0x16F, 0x172].contains op then l.take (l.length - 15) else l
/-- A load whose destination is 63: its bytes go nowhere (R208). -/
def loadReads (s : State) (u : Upset) (op : Nat) (f : FmtM) : Bool :=
  let n := 2 ^ f.sz.toNat
  let a := effAddr s f
  if f.d ≠ 63#6 then false
  else if op = 0x102 then atSlice s u (cidOf s.cur) (devAddr s f).toNat n
  else if op ≠ 0x100 then false
  else
    match a.2 with
    | .dev =>
      if (getCore s s.cur).l1.any fun l => l.line = a.1.toNat / 128 then u.within 2 s.cur a.1.toNat n
      else atSlice s u (cidOf s.cur) a.1.toNat n
    | .sp =>
      match spCheck s a.1 n 1 false with
      | .ok (.set cid k o) => u.within 3 (8 * cid + k) o n
      | _ => false
    | .core => u.within 4 s.cur a.1.toNat n
/-- What an instruction of the core that runs reads: its source registers and heads, the word of an atomic, a half-row of an
accumulator, the bytes of a load that it discards. -/
def instrReads (s : State) (u : Upset) (w : Word) : Bool :=
  match view (decodeRaw w) with
  | none => false
  | some (op, f0) =>
    let f := effFields (ctxOf s) f0
    let t := tileOfCore s.cur
    let head (q : BitVec 6) : Bool :=
      let k := headsIn (vecSources op f) q.toNat
      if 16 ≤ q.toNat && q.toNat < 20 then u.within 5 t (86016 + 1024 * (q.toNat - 16)) (128 * k)
      else 24 ≤ q.toNat && q.toNat < 32 && u.within 5 t (94208 + 512 * (q.toNat - 24)) (128 * k)
    ((sourceRegs op f).any fun r => u.within 4 s.cur (8 * regWord (taskOf s).wp r) (if r.vec then 128 else 8))
      || (vecSources op f).any head
      || (match f with
          | .m m => (0x110 ≤ op && op ≤ 0x117 && atSlice s u (cidOf s.cur) (devAddr s m).toNat (2 ^ m.sz.toNat)) || loadReads s u op m
          | .x x => (op = 0x1E4 || op = 0x1E6) && u.within 5 t (49152 + 4 * halfRow x.acc.toNat (accIndex s x x.a)) 128
          | _ => false)
/-- What an engine's first operation reads: the elements of its sources. -/
def engReads (s : State) (u : Upset) (e : Nat) : Bool :=
  let at_ (r : EngRun) (p : EPlace) (n : Nat) : Bool :=
    match p with
    | .dev va => (pieces (n / 128 + 2) va n).any fun q => atSlice s u (engCid r) q.1 q.2
    | .set k o => u.within 3 (8 * engCid r + k) o n
  let opened (k : EngKind) (n : Nat) : Option (EngRun × List Word) := do
    let q ← engStart s e k
    let x ← (engOpen q.1 n).1.toOption
    return x
  let copies : Bool := match opened .copy 64 with
    | none => false
    | some (r, h) =>
      let nd := (field (dCtl h) 56 4).toNat + 1
      match (engOpen r (64 + 32 * nd)).1 with
      | .ok (r, w) =>
        match copyElems r.op w ((List.range nd).map (dimOf w)) false with
        | .ok (es, _) => es.any fun x => x.src.any fun p => at_ r p (elemBytes (dCtl w))
        | .error _ => false
      | .error _ => false
  let compacts : Bool := match opened .compact 128 with
    | none => false
    | some (r, w) =>
      let test := (field (dWord w 9) 0 8).toNat
      match compactReads r.op w (field (dWord w 8) 0 32).toNat (field (dWord w 8) 32 32).toNat test (fmtWidth (field (dWord w 9) 8 8).toNat / 8) with
      | .ok l => (l.take (if test = 0 then 1 else (field (dWord w 8) 0 32).toNat)).any fun p => at_ r p.1 p.2
      | .error _ => false
  let reduces : Bool := match opened .reduce 64 with
    | none => false
    | some (r, w) =>
      match redPlaces r.op w false with
      | .ok (p, _) => at_ r p (redN w * redBytes (dCtl w))
      | .error _ => false
  copies || compacts || reduces
/-- What the oldest pass of a tile reads as it delivers: the elements of its accumulator that it adds to. -/
def passReads (s : State) (u : Upset) (t : Nat) : Bool :=
  match (getTile s t).running with
  | [] => false
  | p :: _ =>
    let k := (4 * u.word - 49152) / 4
    u.within 5 t 49152 32768 && k / 4096 = p.pass.acc && k % 4096 / 64 < p.rowsA && k % 64 < p.rowsB
/-- Whether a turn from `s` that has come to `r` has done what it was to do: an instruction, an operation, a delivery. -/
def turnReads (t : Turn) (s r : State) (u : Upset) : Bool :=
  let delivered : Bool := u.unit = 5 && (getTile r u.place).running.head? ≠ (getTile s u.place).running.head?
  match t with
  | .issue c =>
    match turnOf s c, (getCore s c).run, (getCore r c).run with
    | .go s' w, some a, some b => a.handle = b.handle && a.ctx ≠ b.ctx && instrReads s' u w
    | _, _, _ => false
  | .event (.postedAtomic n) =>
    r.posted.length < s.posted.length && (s.posted[n]?.any fun q => atSlice s u (cidOf q.core) q.addr (2 ^ q.sz))
  | .event (.copyOperation e) | .event (.compactOperation e) | .event (.reduceOperation e) =>
    (engQueue r (e / 2) (e % 2)).length < (engQueue s (e / 2) (e % 2)).length && engReads s u e
  | .event (.passDeliver n) => u.place = n && delivered && passReads s u u.place
  | .tick _ => delivered && passReads s u u.place
  | _ => false
/-- The task that issued the pass of a tile which uses a word: the oldest running one an accumulator's, the waiting one the rest. -/
def passConsumers (s : State) (u : Upset) : List Consumer :=
  let y := getTile s u.place
  let acc : Bool := 49152 ≤ 4 * u.word && 4 * u.word < 81920
  let p := if acc then y.running.head?.map (·.pass) else y.waiting
  if u.unit ≠ 5 then []
  else
    match p with
    | some p => (p.slot.map fun k : Nat =>
        ({ slot := k, id := p.id, core := coreNo (u.place / 4) (4 + u.place % 4), handle := p.owner, party := 0, addr := 0 } : Consumer)).toList
    | none => []
/-- The accesses of a turn, as the consumers of an error it finds (R91, R405). -/
def turnConsumers (s : State) (t : Turn) (u : Upset) : List Consumer :=
  let head (e : Nat) : List Consumer := ((engQueue s (e / 2) (e % 2)).head?.map fun o => opConsumer o (e % 2) 0).getD []
  match t with
  | .issue c => consumerOf s c 0
  | .event (.copyOperation e) | .event (.compactOperation e) | .event (.fillOperation e) | .event (.reduceOperation e) => head e
  | .event (.postedAtomic n) => (s.posted[n]?.map postedConsumer).getD []
  | .event (.coalesceReply cl ln) => ((getSl s cl).windows.find? fun w => w.line = ln).map (·.who) |>.getD []
  | .event (.passStart _) | .event (.passDeliver _) | .tick _ => passConsumers s u
  | _ => []
/-- What a turn has to do with a flipped word: nothing, and it stands at `word` or has been written over; or it has found it, and only moved
it where that is all that comes of it. -/
inductive Met where
  | stands (word : Nat)
  | gone
  | found (moved : Bool)
/-- What a turn that has come to `r` has to do with a flipped word. -/
def meeting (t : Turn) (s r : State) (u : Upset) : Met :=
  match unlessStuck s (runTurn t (otherWord s u)) with
  | .next r' =>
    let r := withoutOld { r with upsets := [] }
    let r' := withoutOld { r' with upsets := [] }
    if r = r' then .gone
    else
      match (movedTo u).find? fun w => r' = wordFlip r u.unit u.place w (wholeWord u.unit) with
      | some w => .stands w
      | none => .found (decide (withoutWord r u = withoutWord r' u))
  | _ => .found false
/-- A flipped word that has been found: corrected and counted, or reported for those that consumed it; one that cannot be corrected stays,
where `keeps`. -/
def wordFound (s acc : State) (u : Upset) (who : List Consumer) (keeps : Bool) : State :=
  let cid := unitCluster u.unit u.place
  let w := unitWords s u.unit u.place (codeBytes u.unit * u.word)
  if bitsIn u.mask ≤ 1 then corrected acc (dieOf cid) u.unit cid w.2.1
  else
    let acc := if keeps then { acc with upsets := acc.upsets ++ [u] } else acc
    memUE acc who (dieOf cid) cid { code := cMEM_UE, cause := u.unit, addr := w.1, aux0 := w.2.1, aux1 := w.2.2 }
/-- One flipped word after a turn from `s` that has come to `r`: found, it is corrected, or reported, and stands until it is written over.
`acc` is what has become of `r` so far. -/
def meetsUpset (t : Turn) (s r acc : State) (u : Upset) : State :=
  let keep (acc : State) (w : Nat) : State := { acc with upsets := acc.upsets ++ [{ u with word := w }] }
  let read := turnReads t s r u
  match meeting t s r u with
  | .gone => if read then wordFound s acc u (turnConsumers s t u) false else acc
  | .stands w => if read then wordFound s acc u (turnConsumers s t u) true else keep acc w
  | .found moved =>
    let queue : Bool := u.unit = 5 && 21504 ≤ u.word
    wordFound s acc u (if moved && !read then [] else turnConsumers s t u) (!queue && wordBytes r u = wordBytes s u)
/-- A turn, with the flipped words that it finds. -/
def turnStep (t : Turn) (s : State) : Host.Outcome State Fault Refusal :=
  match unlessStuck s (runTurn t s) with
  | .next r =>
    if s.upsets.isEmpty then .next r
    else
      let new := r.upsets.filter fun u => !(s.upsets.contains u)
      .next ((s.upsets.filter fun u => r.upsets.contains u).foldl (meetsUpset t s r) { r with upsets := new })
  | r => r

end Sys2Proof.Machine
end

