-- ==== Sys2Proof/Machine/Step.lean ====
section
/-! DEFINITION. One step of the machine: the next turn of the schedule. -/
namespace Sys2Proof.Machine

/-- The next turn, taken. -/
def step (s : State) : Host.Outcome State Fault Refusal := turnStep (nextTurn s).1 (nextTurn s).2

/-- The state with a word of code placed where the next step fetches it (entry 6). -/
def State.withFetchWord (s : State) (nbits w : Nat) : State := placeWord s (BitVec.ofNat 64 (w % 2 ^ nbits))

end Sys2Proof.Machine
end

