-- ==== Sys2Proof/Safety.lean ====
section
/-! DEFINITION. The words the statements use: a sound machine, an instruction that issues in this step, and what a step leaves as
it was. -/
namespace Sys2Proof.Machine

/-- Device memory keeps its canonical form and reaches no address from 2^40 (R389). -/
def MemSound (s : State) : Prop := Memory.wf s.mem = true

/-- The instruction of an opcode and fields issues in this step: a task runs on the core whose turn it is, checks 1 to 7 of R220
pass, nothing it reads or writes is in flight in a way that holds it or breaks R79, and it is no re-issue after a park. -/
def readyOp (op : Nat) (f : Fields) (s : State) : Bool :=
  match (getCore s s.cur).run with
  | none => false
  | some t =>
    (decodeCheck t (classOf (idxOf s.cur)) op f).isNone && !(mustWait s op (effFields t.ctx f)) && !(stallShort s op (effFields t.ctx f))
      && !t.resumed
/-- The instruction issues in this step; `rep` has a condition of its own beside it. -/
def ready (i : Instr) (s : State) : Bool :=
  match view i with
  | some (op, f) => readyOp op f s
  | none => false

/-- The newest value of a scalar register in program order; zero for a field that names none (R62, R208). -/
def scalarOf (s : State) (r : BitVec 6) : Word :=
  if r.toNat < 32 then (frameReg (getCore s s.cur) (taskOf s).wp ⟨false, r.toNat⟩).setWidth 64 else 0
/-- The newest value of a vector register in program order. -/
def vectorOf (s : State) (r : BitVec 6) : Line :=
  if r.toNat < 16 then frameReg (getCore s s.cur) (taskOf s).wp ⟨true, r.toNat⟩ else 0

/-- A core kept but for its store, its task and its pipeline (the fields of R77 to R79 and R234). -/
def CoreKept (k k' : Core) : Prop :=
  k' = { k with
    store := k'.store
    run := k'.run
    ready := k'.ready
    wr := k'.wr
    vecFree := k'.vecFree
    vecFin := k'.vecFin
    flagFin := k'.flagFin
    wait := k'.wait }
/-- A step that changes nothing outside the core whose turn it is, and there nothing but its store, its task and its pipeline; the
core waits for nothing. -/
def OnlyCore (s t : State) : Prop :=
  t = setCore s s.cur (getCore t s.cur) ∧ CoreKept (getCore s s.cur) (getCore t s.cur) ∧ (getCore t s.cur).wait = none
/-- Words of the running core's store outside the ones named are as they were. -/
def StoreKept (s t : State) (named : Nat → Bool) : Prop :=
  ∀ w, named w = false → look 0 (getCore t s.cur).store w = look 0 (getCore s s.cur).store w
/-- The store words of a scalar register: none for a field that names no register. -/
def scalarWords (s : State) (r : BitVec 6) (w : Nat) : Bool := r.toNat < 32 && w == regWord (taskOf s).wp ⟨false, r.toNat⟩
/-- The store words of a vector register. -/
def vectorWords (s : State) (r : BitVec 6) (w : Nat) : Bool :=
  r.toNat < 16 && regWord (taskOf s).wp ⟨true, r.toNat⟩ ≤ w && w < regWord (taskOf s).wp ⟨true, r.toNat⟩ + 16
/-- A value in a scalar register and a new context: the register holds it (63 and the other fields that name no register discard
it), the context is the one given, and all else is as it was. -/
def WroteWith (s t : State) (d : BitVec 6) (v : Word) (c : Ctx) : Prop :=
  OnlyCore s t ∧ StoreKept s t (scalarWords s d) ∧ scalarOf t d = (if d.toNat < 32 then v else 0) ∧ taskOf t = { taskOf s with ctx := c }
/-- An instruction whose one effect is a value in a scalar register; control goes to the next instruction in the manner of R80 to R83. -/
def WroteScalar (s t : State) (d : BitVec 6) (v : Word) : Prop := WroteWith s t d v (advance (ctxOf s) .seq)
/-- An instruction with no effect but to go on: the context is the one given, and all else is as it was. -/
def WentOn (s t : State) (c : Ctx) : Prop :=
  OnlyCore s t ∧ StoreKept s t (fun _ => false) ∧ taskOf t = { taskOf s with ctx := c }
/-- The state that an instruction leaves whose effect on `s` is `s'` and which goes on: what it holds up is noted, its prefix is used,
its stall count applies, and control goes to the next instruction (R77, R80 to R85). -/
def goesOn (i : Instr) (s s' : State) : State :=
  match view i with
  | some (op, f) => finish (holdUnits s' op (effFields (ctxOf s) f)) op (stallOf f) .seq
  | none => s'
/-- Every byte of device memory reads as it read. -/
def MemKept (s t : State) : Prop := ∀ a, memByte t a = memByte s a

end Sys2Proof.Machine
end

