-- ==== Sys2Proof/Certificates/Slice0/Obligations.lean ====
section
/-! DEFINITION. The statements about the machine, for the provers. -/
open Sys2Proof Sys2Proof.Machine

/-! ## The words of the statements -/
namespace Sys2Proof.Say

/-- Lane `i` of `w` bits of a word (R75). -/
def lane (w i : Nat) (x : Word) : Nat := x.toNat / 2 ^ (w * i) % 2 ^ w
/-- A lane read as two's complement. -/
def signed (w x : Nat) : Int := if x < 2 ^ (w - 1) then (x : Int) else (x : Int) - (2 ^ w : Nat)
/-- The lane width an LW field gives (R75). -/
def widthOf (lw : Nat) : Nat := 64 / 2 ^ lw
/-- The bits of an integer, low `w`. -/
def low (w : Nat) (x : Int) : Nat := (x % (2 ^ w : Nat)).toNat
/-- The signed quotient and remainder of R239: truncated toward zero; all ones, and the dividend, for a divisor of zero. -/
def quot (w a b : Nat) : Nat := if b = 0 then 2 ^ w - 1 else low w (Int.tdiv (signed w a) (signed w b))
def rest (w a b : Nat) : Nat := if b = 0 then a else low w (Int.tmod (signed w a) (signed w b))
/-- A condition of R217 between two lanes. -/
def cond (c w a b : Nat) : Bool :=
  match c with
  | 0 => a == b
  | 1 => a != b
  | 2 => decide (signed w a < signed w b)
  | 3 => decide (signed w b ≤ signed w a)
  | 4 => decide (a < b)
  | 5 => decide (b ≤ a)
  | 6 => a == 0
  | _ => a != 0
/-- One row of R238: the mnemonic's register form, its immediate form, and its result lane from the condition, the lane width and
the lanes of a, b and c. -/
structure AluRow where
  reg : FmtS → Instr
  imm : FmtI → Instr
  res : Nat → Nat → Nat → Nat → Nat → Nat
/-- The rows of R238 whose two forms take the lanes of a, b and c alike. -/
def aluRows : List AluRow :=
  [ ⟨.add, .addImm, fun _ _ a b _ => a + b⟩,
    ⟨.sub, .subImm, fun _ w a b _ => low w ((a : Int) - b)⟩,
    ⟨.mul, .mulImm, fun _ _ a b _ => a * b⟩,
    ⟨.mulh, .mulhImm, fun _ w a b _ => low w (signed w a * signed w b / (2 ^ w : Nat))⟩,
    ⟨.mulhu, .mulhuImm, fun _ w a b _ => a * b / 2 ^ w⟩,
    ⟨.divOp, .divImm, fun _ w a b _ => quot w a b⟩,
    ⟨.divu, .divuImm, fun _ w a b _ => if b = 0 then 2 ^ w - 1 else a / b⟩,
    ⟨.remOp, .remImm, fun _ w a b _ => rest w a b⟩,
    ⟨.remu, .remuImm, fun _ _ a b _ => if b = 0 then a else a % b⟩,
    ⟨.andOp, .andImm, fun _ _ a b _ => a &&& b⟩,
    ⟨.orOp, .orImm, fun _ _ a b _ => a ||| b⟩,
    ⟨.xorOp, .xorImm, fun _ _ a b _ => a ^^^ b⟩,
    ⟨.andn, .andnImm, fun _ w a b _ => a &&& (2 ^ w - 1 - b)⟩,
    ⟨.shl, .shlImm, fun _ w a b _ => a * 2 ^ (b % w)⟩,
    ⟨.shr, .shrImm, fun _ w a b _ => a / 2 ^ (b % w)⟩,
    ⟨.sar, .sarImm, fun _ w a b _ => low w (signed w a / (2 ^ (b % w) : Nat))⟩,
    ⟨.rot, .rotImm, fun _ w a b _ => (a * 2 ^ (b % w)) % 2 ^ w ||| a / 2 ^ (w - b % w)⟩,
    ⟨.minOp, .minImm, fun _ w a b _ => if signed w a ≤ signed w b then a else b⟩,
    ⟨.maxOp, .maxImm, fun _ w a b _ => if signed w a ≤ signed w b then b else a⟩,
    ⟨.minu, .minuImm, fun _ _ a b _ => min a b⟩,
    ⟨.maxu, .maxuImm, fun _ _ a b _ => max a b⟩,
    ⟨.setOp, .setImm, fun c w a b _ => if cond c w a b then 1 else 0⟩,
    ⟨.sel, .selImm, fun _ _ a b c => if a = 0 then c else b⟩ ]
/-- The bit counts of R238, from one lane: leading zeros, trailing zeros, ones. -/
def clzSpec (w a : Nat) : Nat := (List.range w).findIdx fun i => Nat.testBit a (w - 1 - i)
def ctzSpec (w a : Nat) : Nat := (List.range w).findIdx fun i => Nat.testBit a i
def popSpec (w a : Nat) : Nat := (List.range w).countP fun i => Nat.testBit a i
def countRows : List ((FmtS → Instr) × (FmtI → Instr) × (Nat → Nat → Nat)) :=
  [(.clz, .clzImm, clzSpec), (.ctz, .ctzImm, ctzSpec), (.popc, .popcImm, popSpec)]
/-- What bfx and bfi make of their operands, bit by bit (R240). -/
def bfxBit (a b : Word) (i : Nat) : Bool :=
  let pos := (b.extractLsb' 0 6).toNat
  let l := min (b.extractLsb' 8 7).toNat (64 - pos)
  if l = 0 then false else if i < l then a.getLsbD (pos + i) else b.getLsbD 15 && a.getLsbD (pos + l - 1)
def bfiBit (a b c : Word) (i : Nat) : Bool :=
  let pos := (b.extractLsb' 0 6).toNat
  let l := min (b.extractLsb' 8 7).toNat (64 - pos)
  if pos ≤ i && i < pos + l then a.getLsbD (i - pos) else c.getLsbD i
/-- A word whose lanes are given. -/
def Lanes (w : Nat) (v : Word) (r : Nat → Nat) : Prop := ∀ i, i < 64 / w → lane w i v = r i % 2 ^ w
/-- A word whose bits are given. -/
def Bits (v : Word) (r : Nat → Bool) : Prop := ∀ i, i < 64 → v.getLsbD i = r i
/-- The lane of the immediate (R241). -/
def immOf (w : Nat) (imm : BitVec 32) (i : Nat) : Nat := if w = 64 then lane 64 i (imm.signExtend 64) else imm.toNat % 2 ^ w
/-- Byte `i` of a core's store (R61). -/
def storeByte (k : Core) (i : Nat) : Byte := byteAt (look 0 k.store (i / 8)) (i % 8)
/-- A task runs, and the instruction is no re-issue after a park. -/
def Plain (s : State) : Prop := (getCore s s.cur).run = some (taskOf s) ∧ (taskOf s).resumed = false

end Sys2Proof.Say
open Sys2Proof.Say

/-! ## Decoding, the step, reset -/

/-- A turn of a core that may issue, with nothing due at the boundary, runs the instruction that the bytes at its program counter
decode to: `codeWord` reads the eight bytes at the pc through the code path, and the turn is `exec` of that instruction in the
state the fetch leaves, with that core as the one that runs. A carried-code task fetches its payload word (R77, R87, R156). Around it
the step asks two things: a turn that has met a slice or a stack of a die that a trip has stopped does not come about (R414,
`unlessStuck`); and where a word of an on-chip store is flipped, what the turn finds of it comes after (R405): here none is.
Log entries 1 and 99 are the model's own readings in it. -/
def Obligations.StepRunsTheDecodedInstruction : Prop :=
  ∀ (s s1 s2 : State) (c : Nat) (w : Word) (i : Instr),
    nextTurn s = (.issue c, s1) → mayIssue s1 c = true → s1.upsets = [] →
    ((taskOf { s1 with cur := c }).kind = .system ∨ (taskOf { s1 with cur := c }).ctx.budget ≠ 0#32) →
    (taskOf { s1 with cur := c }).mmxNext = none →
    ((taskOf { s1 with cur := c }).kind ≠ .carried →
      codeWord { s1 with cur := c } (taskOf { s1 with cur := c }).ctx.pc = .ok (s2, w)) →
    ((taskOf { s1 with cur := c }).kind = .carried →
      s2 = { s1 with cur := c } ∧ ((taskOf s2).code.take 8)[(taskOf s2).ctx.pc.toNat / 8]? = some w) →
    decodeWord w = .ok i →
    runTurn (.issue c) s1 = exec i s2 ∧ step s = unlessStuck s1 (exec i s2)
    ∧ ∀ t, exec i s2 = .next t → step s = .next (if t.stuck then s1 else t)

/-- Words written out from the encodings of the spec decode to the instructions they stand for: one word of R220, two of R254 (the
second the form of R233), three of R284, three of R310, the four of R333 and the one of R360; a word of the hint region (R219) and
one of an unassigned opcode are read as such. -/
def Obligations.SpecWordsDecode : Prop :=
  decodeWord 0x200102FC05046000#64 =
      .ok (.add { stall := 0, d := 4, a := 2, b := 63, c := 0, amod := 0x504, lw := 3, sub := 0 })
  ∧ decodeWord 0x1000040000000000#64 =
      .ok (.wpset { stall := 0, d := 0, a := 4, b := 0, c := 0, amod := 0, lw := 0, sub := 0 })
  ∧ decodeWord 0x1281051800000000#64 =
      .ok (.unfsave { stall := 0, d := 4, a := 5, b := 6, c := 0, amod := 0, lw := 0, sub := 0 })
  ∧ decodeWord 0x1380000000000000#64 =
      .ok (.halt { stall := 0, d := 0, a := 0, b := 0, c := 0, amod := 0, lw := 0, sub := 0 })
  ∧ decodeWord 0x1080040000000000#64 =
      .ok (.eret { stall := 0, d := 0, a := 4, b := 0, c := 0, amod := 0, lw := 0, sub := 0 })
  ∧ decodeWord 0x01800000FFFFFFFD#64 = .ok (.jmp { stall := 0, cond := 0, a := 0, b := 0, offs := 0xFFFFFFFD })
  ∧ decodeWord 0x048000000066A680#64 = .ok (.fmt { stall := 0, d := 0, a := 0, sub := 0, imm := 0x0066A680 })
  ∧ decodeWord 0x8001010006000020#64 =
      .ok (.ld { stall := 0, d := 4, a := 1, b := 0, sp := 0, ord := 0, sco := 0, sz := 3, sx := 0, hf := 0, hnd := 0, disp := 32 })
  ∧ decodeWord 0x81818B0096000000#64 =
      .ok (.sts { stall := 0, d := 6, a := 11, b := 0, sp := 0, ord := 2, sco := 1, sz := 3, sx := 0, hf := 0, hnd := 0, disp := 0 })
  ∧ decodeWord 0xB180080020000008#64 =
      .ok (.ctrwait { stall := 0, d := 0, a := 8, b := 0, c := 2, tag := 0, core := 0, sub := 0, hnd := 0, ic := 1 })
  ∧ decodeWord 0xF100000400000000#64 =
      .ok (.mma { stall := 0, d := 0, a := 0, ta := 0, tb := 1, acc := 0, imm8 := 0, sub := 0 })
  ∧ decodeWord 0xD19050441000A000#64 =
      .ok (.vfma { stall := 1, d := 1, a := 16, b := 17, c := 1, amod := 0, fmt := 0xA, fmt2 := 0, sub := 0, sat := 0 })
  ∧ decodeWord 0xF200C0020A000000#64 =
      .ok (.accrd { stall := 0, d := 3, a := 0, ta := 0, tb := 0, acc := 1, imm8 := 5, sub := 0 })
  ∧ decodeWord 0x8B014418E6000000#64 =
      .ok (.axchg { stall := 0, d := 5, a := 4, b := 6, sp := 0, ord := 3, sco := 2, sz := 3, sx := 0, hf := 0, hnd := 0, disp := 0 })
  ∧ decodeWord 0xF980000000000000#64 = .ok (.hint { stall := 0, op := 3 })
  ∧ decodeWord 0x0000000000000005#64 = .ok (.unassignedOpcode { stall := 0, op := 0 })

/-- Decoding undoes encoding, for every instruction with every operand at every value the encoding admits. -/
def Obligations.DecodeOfEncode : Prop :=
  ∀ (i : Instr) (w : Word), i.wellFormed = true → encode i = some w → decodeWord w = .ok i

/-- Every word names one instruction, and no bit that is not reserved is lost: encoding what a word names gives a word that names
the same instruction, under the same opcode. -/
def Obligations.EncodeOfDecode : Prop :=
  ∀ w : Word, ∃ w', encode (decodeRaw w) = some w' ∧ decodeRaw w' = decodeRaw w ∧ opcodeOf w' = opcodeOf w ∧ (view (decodeRaw w)).isSome

/-- The machine right after a cold reset is released: the time base reads zero (R18), the boot is at step 1 (R399), no task runs,
every sequence number of handles is zero (R63), no island's cycle has been counted and none of the mesh, and nothing is in flight: no
parcel, posted atomic, reduction, report, held launch parcel or host transaction. Memory lists nothing: what it then reads as is the
model's choice (log entry 2). -/
def Obligations.ResetState : Prop :=
  State.reset.clk.ns = 0 ∧ State.reset.host.boot.stage = 1 ∧ (∀ c, (getCore State.reset c).run = none ∧ (getCore State.reset c).seqno = 0)
  ∧ State.reset.clk.cyc = [] ∧ (∀ i, look 0 State.reset.clk.cyc i = 0) ∧ State.reset.clk.mesh = 0
  ∧ State.reset.mem = [] ∧ State.reset.net = [] ∧ State.reset.launches = []
  ∧ State.reset.posted = [] ∧ State.reset.reds = [] ∧ State.reset.reports = [] ∧ State.reset.disp.held = [] ∧ State.reset.host.tx = []
  ∧ (∀ t k, look 0x00406001#32 (getTile State.reset t).shapes k = 0x00406001#32)

/-- Memory is in its canonical form at reset. -/
def Obligations.ResetMemorySound : Prop := MemSound State.reset

/-- Every step keeps device memory in its canonical form, with no byte from 2^40 on (R389). -/
def Obligations.StepKeepsMemorySound : Prop :=
  ∀ s t : State, MemSound s → step s = .next t → MemSound t

/-! ## Checks, scalar arithmetic, constants -/

/-- A word that fails a check of R220 raises the trap of the first check it fails, in the order of the table: POOL_ENTRY for a pool
header, ILLEGAL_OP for an unassigned opcode or a privileged one at user level, and so on; the instruction has no effect of its own.
So a word of an unassigned opcode and a pool header always take their trap, which is all they do. Log entry 92 is the model's own reading
in it. -/
def Obligations.DecodeChecksTrap : Prop :=
  (∀ (i : Instr) (op : Nat) (f : Fields) (s : State) (code : Nat),
    view i = some (op, f) → (getCore s s.cur).run = some (taskOf s) →
    decodeCheck (taskOf s) (classOf (idxOf s.cur)) op f = some code → exec i s = .next (trapAt s { code := code }))
  ∧ (∀ (f : FmtRaw) (s : State), (getCore s s.cur).run = some (taskOf s) → (Instr.unassignedOpcode f).wellFormed = true →
      exec (.unassignedOpcode f) s = .next (trapAt s { code := 0x0001 }))
  ∧ (∀ (f : FmtPool) (s : State), (getCore s s.cur).run = some (taskOf s) →
      exec (.poolHeaderWord f) s = .next (trapAt s { code := 0x0007 }))
  ∧ (∀ (t : Task) (cl : CoreClass) (f : Fields), decodeCheck t cl 0x03F f = some 0x0007)
  ∧ (∀ (t : Task) (cl : CoreClass) (op : Nat) (f : Fields), op ≠ 0x03F →
      (assigned op = false ∨ (0x020 ≤ op ∧ op ≤ 0x027 ∧ stPriv t.ctx.status = false)) → decodeCheck t cl op f = some 0x0001)

/-- The register forms of R238 (add to sel): each lane of the destination is the row's result of the lanes of a, as AMOD rearranges
them, of b and of c; nothing else changes but where control is. The immediate forms of R238 (add to sel): source b is the
immediate, source c what the destination held (R241). -/
def Obligations.ScalarForms : Prop :=
  (∀ row ∈ aluRows, ∀ (f : FmtS) (s : State), ready (row.reg f) s = true →
    ∃ t v, exec (row.reg f) s = .next t ∧ WroteScalar s t f.d v ∧ MemKept s t
      ∧ Lanes (widthOf f.lw.toNat) v fun i =>
          row.res f.sub.toNat (widthOf f.lw.toNat) (lane (widthOf f.lw.toNat) (modLane f.amod (64 / widthOf f.lw.toNat) i) (readS s f.a))
            (lane (widthOf f.lw.toNat) i (readS s f.b)) (lane (widthOf f.lw.toNat) i (readS s f.c)))
  ∧ (∀ row ∈ aluRows, ∀ (f : FmtI) (s : State), ready (row.imm f) s = true →
    ∃ t v, exec (row.imm f) s = .next t ∧ WroteScalar s t f.d v ∧ MemKept s t
      ∧ Lanes (widthOf (f.sub.extractLsb' 0 3).toNat) v fun i =>
          row.res (f.sub.extractLsb' 3 3).toNat (widthOf (f.sub.extractLsb' 0 3).toNat)
            (lane (widthOf (f.sub.extractLsb' 0 3).toNat) i (readS s f.a)) (immOf (widthOf (f.sub.extractLsb' 0 3).toNat) f.imm i)
            (lane (widthOf (f.sub.extractLsb' 0 3).toNat) i (readS s f.d)))

/-- clz, ctz and popc count the bits of each lane of a, or of the immediate; bfx and bfi take and place the field that b, or the
immediate, describes (R238, R240, R241). movi, movhi and lit (R242): the sign-extended immediate; the immediate over the high
half; the word of code at pc + 8 × SignExt(IMM, 32), read as the fetch reads it, or a payload word of a carried-code task.
Log entry 10 is the model's own reading in it. -/
def Obligations.CountsFieldsAndConstants : Prop :=
  ((∀ row ∈ countRows, ∀ (f : FmtS) (s : State), ready (row.1 f) s = true →
    ∃ t v, exec (row.1 f) s = .next t ∧ WroteScalar s t f.d v
      ∧ Lanes (widthOf f.lw.toNat) v fun i =>
          row.2.2 (widthOf f.lw.toNat) (lane (widthOf f.lw.toNat) (modLane f.amod (64 / widthOf f.lw.toNat) i) (readS s f.a)))
  ∧ (∀ row ∈ countRows, ∀ (f : FmtI) (s : State), ready (row.2.1 f) s = true →
    ∃ t v, exec (row.2.1 f) s = .next t ∧ WroteScalar s t f.d v
      ∧ Lanes (widthOf (f.sub.extractLsb' 0 3).toNat) v fun i =>
          row.2.2 (widthOf (f.sub.extractLsb' 0 3).toNat) (immOf (widthOf (f.sub.extractLsb' 0 3).toNat) f.imm i))
  ∧ (∀ (f : FmtS) (s : State), ready (.bfx f) s = true →
    ∃ t v, exec (.bfx f) s = .next t ∧ WroteScalar s t f.d v ∧ Bits v (bfxBit (readS s f.a) (readS s f.b)))
  ∧ (∀ (f : FmtS) (s : State), ready (.bfi f) s = true →
    ∃ t v, exec (.bfi f) s = .next t ∧ WroteScalar s t f.d v ∧ Bits v (bfiBit (readS s f.a) (readS s f.b) (readS s f.c)))
  ∧ (∀ (f : FmtI) (s : State), ready (.bfxImm f) s = true →
    ∃ t v, exec (.bfxImm f) s = .next t ∧ WroteScalar s t f.d v ∧ Bits v (bfxBit (readS s f.a) (f.imm.signExtend 64)))
  ∧ (∀ (f : FmtI) (s : State), ready (.bfiImm f) s = true →
    ∃ t v, exec (.bfiImm f) s = .next t ∧ WroteScalar s t f.d v ∧ Bits v (bfiBit (readS s f.a) (f.imm.signExtend 64) (readS s f.d))))
  ∧ ((∀ (f : FmtI) (s : State), ready (.movi f) s = true →
    ∃ t, exec (.movi f) s = .next t ∧ WroteScalar s t f.d (f.imm.signExtend 64) ∧ MemKept s t)
  ∧ (∀ (f : FmtI) (s : State), ready (.movhi f) s = true →
    ∃ t, exec (.movhi f) s = .next t ∧ WroteScalar s t f.d (f.imm ++ (readS s f.d).extractLsb' 0 32) ∧ MemKept s t)
  ∧ (∀ (f : FmtI) (s s' : State) (w : Word), ready (.lit f) s = true → (taskOf s).kind ≠ .carried →
    codeWord s ((ctxOf s).pc + 8 * f.imm.signExtend 64) = .ok (s', w) →
    ∃ t, exec (.lit f) s = .next t ∧ WroteScalar s' t f.d w)
  ∧ (∀ (f : FmtI) (s : State) (n : Nat) (w : Word), ready (.lit f) s = true → (taskOf s).kind = .carried →
    (n : Int) = ((ctxOf s).pc.toNat / 8 : Nat) + f.imm.toInt → (taskOf s).code[n]? = some w →
    ∃ t, exec (.lit f) s = .next t ∧ WroteScalar s t f.d w ∧ MemKept s t))

/-- nop has no effect beyond its stall count: every field but OP and STALL is ignored, and it may stand anywhere, in a delay slot and
at LE too. A word of the hint region behaves the same way. Neither takes a format, so as the target of fmt each raises PREFIX_MISMATCH. -/
def Obligations.NopAndHint : Prop :=
  (∀ (f : FmtS) (s : State), Plain s → (taskOf s).kind ≠ .carried →
    (stPP (ctxOf s).status = false →
      ∃ t, exec (.nop f) s = .next t ∧ WentOn s t (advance (ctxOf s) .seq) ∧ MemKept s t
        ∧ (getCore t s.cur).ready = cycOf s s.cur + 1 + f.stall.toNat)
    ∧ (stPP (ctxOf s).status = true → exec (.nop f) s = .next (trapAt s { code := 0x0006 })))
  ∧ (∀ (f : FmtHint) (s : State), Plain s → (taskOf s).kind ≠ .carried →
    (stPP (ctxOf s).status = false →
      ∃ t, exec (.hint f) s = .next t ∧ WentOn s t (advance (ctxOf s) .seq) ∧ MemKept s t
        ∧ (getCore t s.cur).ready = cycOf s s.cur + 1 + f.stall.toNat)
    ∧ (stPP (ctxOf s).status = true → exec (.hint f) s = .next (trapAt s { code := 0x0006 })))

/-! ## Control flow -/
namespace Sys2Proof.Say

/-- The context a branch leaves (R80, R83, R227): the target, or the third instruction after the branch, in BTGT; the first delay slot
next; a taken branch out of the loop body ends the loop. -/
def branched (c : Ctx) (tgt : Word) (taken : Bool) : Ctx :=
  { c with
    pc := c.pc + 8
    btgt := if taken then tgt else c.pc + 24
    lc := if taken ∧ c.lc ≠ 0#64 ∧ (tgt < c.ls ∨ c.le < tgt) then 0 else c.lc
    status := setDS c.status 1 taken }
/-- The target of a relative branch (R227). -/
def relative (c : Ctx) (offs : BitVec 32) : Word := c.pc + 8 * offs.signExtend 64

end Sys2Proof.Say

/-- br, jmp, jmpr, call and ret set the target and go to the first delay slot; call writes pc + 24 to its register; nothing else changes. -/
def Obligations.Branches : Prop :=
  (∀ (f : FmtB) (s : State), ready (.br f) s = true →
    ∃ t, exec (.br f) s = .next t ∧ MemKept s t
      ∧ WentOn s t (branched (ctxOf s) (relative (ctxOf s) f.offs)
          (cond f.cond.toNat 64 (readS s f.a).toNat (readS s f.b).toNat)))
  ∧ (∀ (f : FmtB) (s : State), ready (.jmp f) s = true →
    ∃ t, exec (.jmp f) s = .next t ∧ MemKept s t ∧ WentOn s t (branched (ctxOf s) (relative (ctxOf s) f.offs) true))
  ∧ (∀ (f : FmtB) (s : State), ready (.jmpr f) s = true →
    ∃ t, exec (.jmpr f) s = .next t ∧ MemKept s t ∧ WentOn s t (branched (ctxOf s) (readS s f.a &&& ~~~7#64) true))
  ∧ (∀ (f : FmtB) (s : State), ready (.ret f) s = true →
    ∃ t, exec (.ret f) s = .next t ∧ MemKept s t ∧ WentOn s t (branched (ctxOf s) (readS s f.a &&& ~~~7#64) true))
  ∧ (∀ (f : FmtB) (s : State), ready (.call f) s = true →
    ∃ t, exec (.call f) s = .next t ∧ MemKept s t
      ∧ WroteWith s t f.b ((ctxOf s).pc + 24) (branched (ctxOf s) (relative (ctxOf s) f.offs) true))

/-- Where control goes after an instruction that is no branch: on, through the delay slots to BTGT, or round the loop (R80, R82,
R228). At the end of every instruction whose address is LE, LC counts down when it is not zero, and the body is entered again
while it is not. rep opens a loop over the next n instructions: LS, LE and LC are set, and with a count of zero control goes to LE
+ 8. The words it checks at LE and LE − 8 are no branches (R82, R84, R229); where one is, it raises ILLEGAL_LOOP_END. -/
def Obligations.DelaySlotsAndLoops : Prop :=
  (∀ c : Ctx,
    (stDS c.status = 0 → (c.pc ≠ c.le ∨ c.lc = 0#64) → advance c .seq = { c with pc := c.pc + 8 })
    ∧ (stDS c.status = 0 → c.pc = c.le → c.lc = 1#64 → advance c .seq = { c with pc := c.pc + 8, lc := 0 })
    ∧ (stDS c.status = 0 → c.pc = c.le → 1#64 < c.lc → advance c .seq = { c with pc := c.ls, lc := c.lc - 1 })
    ∧ (stDS c.status = 1 → (c.pc ≠ c.le ∨ c.lc = 0#64) →
        advance c .seq = { c with pc := c.pc + 8, status := setDS c.status 2 (stTKN c.status) })
    ∧ (stDS c.status = 2 → stTKN c.status = true → (advance c .seq).pc = c.btgt)
    ∧ (stDS c.status = 2 → stTKN c.status = false → (c.pc ≠ c.le ∨ c.lc = 0#64) → (advance c .seq).pc = c.btgt)
    ∧ (stDS c.status = 2 → stTKN c.status = false → c.pc = c.le → 1#64 < c.lc → (advance c .seq).pc = c.ls)
    ∧ (stDS c.status = 2 → stTKN c.status = false → c.pc = c.le → c.lc = 1#64 → (advance c .seq).pc = c.le + 8)
    ∧ (stDS c.status = 2 → (advance c .seq).status = setDS c.status 0 false
        ∧ (advance c .seq).lc = if c.pc = c.le ∧ c.lc ≠ 0#64 then c.lc - 1 else c.lc))
  ∧ ((∀ (f : FmtI) (s s' : State), readyOp 0x007 (.i f) s = true → repCheck s f = .ok (s', false) →
    ∃ t, exec (.rep f) s = .next t ∧ WentOn s' t
      (let ls := (ctxOf s).pc + 8
       let le := ls + 8 * (f.imm.extractLsb' 0 12).setWidth 64
       let n : Word := if f.sub.getLsbD 0 then (f.imm.extractLsb' 12 20).setWidth 64 else readS s f.a
       { ctxOf s with ls := ls, le := le, lc := n, pc := if n = 0#64 then le + 8 else ls }))
  ∧ (∀ (f : FmtI) (s s' : State), readyOp 0x007 (.i f) s = true → repCheck s f = .ok (s', true) →
    exec (.rep f) s = .next (trapAt s' { code := 0x0004 })))

/-- fmt loads PFX, its reserved bits aside, and sets PP (R8, R68, R85, R233; that the reserved bits of PFX are kept zero is log entry
78's reading); csrr reads the registers of R66 by their numbers; time reads the time base (R235). csrw
(R66, R67, R234): of STATUS it clears the sticky flags whose bits in a are one, writes RM unless the value is 101b to 111b, and
writes CHK unless the launch has DET one, and keeps every other bit; of SEED it sets the generator state; of SYSENT the entry of
system tasks. Nothing else changes but the pipeline of the core. -/
def Obligations.PrefixAndControlRegisters : Prop :=
  ((∀ (f : FmtI) (s : State), ready (.fmt f) s = true →
    ∃ t, exec (.fmt f) s = .next t ∧ MemKept s t
      ∧ WentOn s t (advance { ctxOf s with pfx := f.imm &&& 0x00FFFFC0#32, status := setPP (ctxOf s).status true } .seq))
  ∧ (∀ (f : FmtI) (s : State) (n : Nat), ready (.csrr f) s = true → n = (f.imm.extractLsb' 0 12).toNat →
    ∃ t v, exec (.csrr f) s = .next t ∧ MemKept s t ∧ WroteScalar s t f.d v
      ∧ (n = 0x000 → v = (ctxOf s).status) ∧ (n = 0x001 → v = (ctxOf s).pfx.setWidth 64) ∧ (n = 0x002 → v = BitVec.ofNat 64 (taskOf s).wp)
      ∧ (n = 0x003 → v = (ctxOf s).lc) ∧ (n = 0x004 → v = (ctxOf s).ls) ∧ (n = 0x005 → v = (ctxOf s).le)
      ∧ (n = 0x006 → v = (ctxOf s).btgt)
      ∧ (n = 0x007 → v = BitVec.ofNat 64 (s.cur / 16 / 24 * 1024 + s.cur / 16 % 24 * 32 + s.cur % 16))
      ∧ (n = 0x008 → v = (taskOf s).handle.setWidth 64) ∧ (n = 0x009 → v = (ctxOf s).seed)
      ∧ (n = 0x00A → v = (ctxOf s).budget.setWidth 64) ∧ (n = 0x100 → v = (getCore s s.cur).sysent)
      ∧ (n = 0x101 → v = BitVec.ofNat 64 (myPart s + if myPart s = mgmtPart s then 256 else 0))
      ∧ (n = 0x102 → v = steerOf s s.cur) ∧ (classOf (idxOf s.cur) ≠ .x → steerOf s s.cur = 0)
      ∧ (0x200 ≤ n → v = tagRead (getCore s s.cur) (n - 0x200)))
  ∧ (∀ (f : FmtS) (s : State), ready (.timeOp f) s = true →
    ∃ t, exec (.timeOp f) s = .next t ∧ MemKept s t ∧ WroteScalar s t f.d (BitVec.ofNat 64 s.clk.ns)))
  ∧ ((∀ (f : FmtI) (s : State), ready (.csrw f) s = true → f.imm.extractLsb' 0 12 = 0#12 →
    ∃ t x, exec (.csrw f) s = .next t ∧ MemKept s t ∧ WentOn s t (advance { ctxOf s with status := x } .seq)
      ∧ ∀ i, i < 64 → x.getLsbD i =
          if i < 3 then (if (readS s f.a).extractLsb' 0 3 ≤ 4#3 then (readS s f.a).getLsbD i else (ctxOf s).status.getLsbD i)
          else if 4 ≤ i ∧ i ≤ 9 then (ctxOf s).status.getLsbD i && !(readS s f.a).getLsbD i
          else if i = 54 then
            (if (myLaunch s).any (fun l => ldet l.2) then (ctxOf s).status.getLsbD i else (readS s f.a).getLsbD i)
          else (ctxOf s).status.getLsbD i)
  ∧ (∀ (f : FmtI) (s : State), ready (.csrw f) s = true → f.imm.extractLsb' 0 12 = 9#12 →
    ∃ t, exec (.csrw f) s = .next t ∧ MemKept s t ∧ WentOn s t (advance { ctxOf s with seed := readS s f.a } .seq))
  ∧ (∀ (f : FmtI) (s : State), ready (.csrw f) s = true → f.imm.extractLsb' 0 12 = 0x100#12 →
    ∃ t, exec (.csrw f) s = .next t ∧ MemKept s t ∧ (getCore t s.cur).sysent = readS s f.a ∧ t = setCore s s.cur (getCore t s.cur)
      ∧ CoreKept { getCore s s.cur with sysent := readS s f.a } (getCore t s.cur) ∧ (getCore t s.cur).wait = none
      ∧ StoreKept s t (fun _ => false) ∧ taskOf t = { taskOf s with ctx := advance (ctxOf s) .seq }))


/-! ## Traps, ends, returns -/

/-- trap and brk have completed when they park the task (R232): control has gone on, the code is TRAP or BREAKPOINT, and trap's number
stands in AUX0. -/
def Obligations.TrapAndBreak : Prop :=
  (∀ (f : FmtI) (s : State), ready (.trapOp f) s = true →
    ∃ s1, WentOn s s1 (advance (ctxOf s) .seq) ∧ MemKept s s1
      ∧ exec (.trapOp f) s = .next (takeTrap s1 { code := 0x0009, aux0 := (f.imm.extractLsb' 0 16).setWidth 64 } (ctxOf s).pc))
  ∧ (∀ (f : FmtS) (s : State), ready (.brk f) s = true →
    ∃ s1, WentOn s s1 (advance (ctxOf s) .seq) ∧ MemKept s s1
      ∧ exec (.brk f) s = .next (takeTrap s1 { code := 0x000A } (ctxOf s).pc))

/-- The write-back before a park changes nothing of the core's tasks, its store or its queues, but what the detector and the digest
keep of the running task and the bytes held back for it (R71, R416). Taking a trap or fault (R71, R90, R91): the task parks with
its context, its frame and its registers; its record gives the code, the cause, the handle, the pc of the instruction and what the
trap carries; and a fault task is queued ahead of every other, at CODE + FAULTH, with the parked task's handle in s2 and the
record's words in s16 to s23. `wbPark` is the write-back that comes first. Where the launch no longer runs (it drains, or is being
saved), the task parks and its fault task waits for the restore (R340); where the launch has no handler it is aborted, with the code
and the handle (R372); a breakpoint under the debug ring goes to that ring alone (R370). A trap in a launch that is completing or being
replayed ends the task as abandon does (R200). A trap in a carried-code task ends it, and its record goes to the core that sent it, or to the
partition's ring where the sender is no core (R156); one in a fault task aborts the launch with NESTED_FAULT (R371, R372); one in
a system task ends it, halts its core, reports it to the management partition's ring and freezes the recorders (R329, R377, R412). Log entry
14 is the model's own reading in it. -/
def Obligations.TrapParksTheTask : Prop :=
  (∀ s : State, (getCore s s.cur).run = some (taskOf s) →
    (wbPark s).cur = s.cur ∧ (getCore (wbPark s) s.cur).parked = (getCore s s.cur).parked
    ∧ (getCore (wbPark s) s.cur).store = (getCore s s.cur).store ∧ (getCore (wbPark s) s.cur).runq = (getCore s s.cur).runq
    ∧ (taskOf (wbPark s)).ctx = (taskOf s).ctx ∧ (taskOf (wbPark s)).handle = (taskOf s).handle
    ∧ (taskOf (wbPark s)).wp = (taskOf s).wp ∧ (taskOf (wbPark s)).slot = (taskOf s).slot ∧ (taskOf (wbPark s)).kind = (taskOf s).kind
    ∧ (taskOf (wbPark s)).box = (taskOf s).box)
  ∧ (∀ (s : State) (i : TrapInfo) (pc : Word) (k : Nat) (l0 l : Launch),
    (getCore s s.cur).run = some (taskOf s) → (taskOf s).slot = some k → (taskOf s).kind ≠ .carried → (taskOf s).kind ≠ .fault →
    launchAt s k = some l0 → l0.state = .running →
    (wbPark s).cur = s.cur → (taskOf (wbPark s)).slot = some k → launchAt (wbPark s) k = some l → l.state = .running →
    faulth l ≠ 0xFFFFFFFF#32 → (i.code ≠ 0x000A ∨ debugOn (wbPark s) (partOf (wbPark s) (cidOf s.cur)) = false) → i.code < 2 ^ 16 →
    i.cause < 2 ^ 8 →
    ∃ p q, (getCore (takeTrap s i pc) s.cur).run = none
      ∧ (getCore (takeTrap s i pc) s.cur).parked = (getCore (wbPark s) s.cur).parked ++ [p]
      ∧ p.ctx = (taskOf (wbPark s)).ctx ∧ p.handle = (taskOf (wbPark s)).handle ∧ p.wp = (taskOf (wbPark s)).wp ∧ p.resumed = false
      ∧ recCode p.frec = i.code ∧ (p.frec.fctl.extractLsb' 40 8).toNat = i.cause ∧ recHandle p.frec = p.handle ∧ p.frec.pc = pc ∧ p.frec.addr = i.addr ∧ p.frec.aux0 = i.aux0
      ∧ p.frec.aux1 = i.aux1 ∧ p.frec.other = i.other
      ∧ (getCore (takeTrap s i pc) s.cur).faultq = (getCore (wbPark s) s.cur).faultq ++ [q]
      ∧ q.kind = .fault ∧ q.pc = codeBase l + (faulth l).setWidth 64 ∧ q.cls = p.cls ∧ look 0 q.regs 2 = p.handle.setWidth 64
      ∧ (∀ j, j < 8 → look 0 q.regs (16 + j) = (recWords p.frec).getD j 0)
      ∧ (∀ w, w ≠ (p.wp + 376) / 8 →
          look 0 (getCore (takeTrap s i pc) s.cur).store w = look 0 (getCore (wbPark s) s.cur).store w)
      ∧ (∃ l', launchAt (takeTrap s i pc) k = some l' ∧ l'.faults = l.faults + 1))
  ∧ (∀ (s : State) (i : TrapInfo) (pc : Word) (k : Nat) (l0 l : Launch) (dbg : Bool),
    (getCore s s.cur).run = some (taskOf s) → (taskOf s).slot = some k → (taskOf s).kind ≠ .carried → (taskOf s).kind ≠ .fault →
    launchAt s k = some l0 → l0.state ≠ .closing → l0.state ≠ .replaying → launchAt (wbPark s) k = some l →
    dbg = (i.code = 0x000A && debugOn (wbPark s) (partOf (wbPark s) (cidOf s.cur))) →
    ∃ s1 p, (getCore s1 s.cur).run = none ∧ (getCore s1 s.cur).parked = (getCore (wbPark s) s.cur).parked ++ [p]
      ∧ (getCore s1 s.cur).faultq = (getCore (wbPark s) s.cur).faultq ∧ p.handle = (taskOf (wbPark s)).handle
      ∧ p.ctx = (taskOf (wbPark s)).ctx ∧ p.debug = dbg ∧ p.due = (decide (l.state ≠ .running) && !dbg)
      ∧ (dbg = true → takeTrap s i pc = toRing s1 (partOf s1 (cidOf s.cur)) true p.frec)
      ∧ (dbg = false → l.state ≠ .running → takeTrap s i pc = s1)
      ∧ (dbg = false → l.state = .running → faulth l = 0xFFFFFFFF#32 → takeTrap s i pc = abortLaunch s1 k i.code p.handle true))
  ∧ (∀ (s : State) (i : TrapInfo) (pc : Word) (k : Nat) (l0 : Launch),
    (getCore s s.cur).run = some (taskOf s) → (taskOf s).slot = some k →
    launchAt s k = some l0 → (l0.state = .closing ∨ l0.state = .replaying) →
    ∃ s1, takeTrap s i pc = settle s1 k ∧ (getCore s1 s.cur).run = none)
  ∧ (∀ (s : State) (i : TrapInfo) (pc : Word) (k : Nat) (l0 : Launch), i.code < 2 ^ 16 → i.cause < 2 ^ 8 →
    (getCore s s.cur).run = some (taskOf s) → (taskOf s).slot = some k → (taskOf s).kind = .fault →
    launchAt s k = some l0 → l0.state ≠ .closing → l0.state ≠ .replaying →
    ∃ s1 l1, takeTrap s i pc = abortLaunch s1 k 0x0043 (taskOf s).handle true ∧ s1.cores = s.cores
      ∧ launchAt s1 k = some l1 ∧ l1.faults = l0.faults + 1 ∧ l1.state = l0.state)
  ∧ (∀ (s : State) (i : TrapInfo) (pc : Word) (k : Nat) (l0 : Launch), i.code < 2 ^ 16 → i.cause < 2 ^ 8 →
    (getCore s s.cur).run = some (taskOf s) → (taskOf s).slot = some k → (taskOf s).kind = .carried →
    launchAt s k = some l0 → l0.state ≠ .closing → l0.state ≠ .replaying →
    ∃ s1 r, (getCore s1 s.cur).run = none ∧ recCode r = i.code ∧ recHandle r = (taskOf s).handle ∧ r.pc = 0 ∧ r.fctl.getLsbD 35 = true
      ∧ r.addr = i.addr ∧ r.aux0 = i.aux0 ∧ r.aux1 = i.aux1
      ∧ takeTrap s i pc =
          if 9 ≤ ((taskOf s).parent.extractLsb' 18 4).toNat then
            toFaultRing (countFault s1 k i.code (taskOf s).handle s.cur) (partOf s1 (cidOf s.cur)) (cidOf s.cur) r
          else
            sendFaultFor s1 k (taskOf s).det.id ((taskOf s).sender.getD (taskOf s).det.id) (coreOfHandle (taskOf s).parent) r)
  ∧ (∀ (s : State) (i : TrapInfo) (pc : Word), i.code < 2 ^ 16 → i.cause < 2 ^ 8 →
    (getCore s s.cur).run = some (taskOf s) → (taskOf s).slot = none →
    ∃ s1 r, (getCore s1 s.cur).run = none ∧ (getCore s1 s.cur).halted = true ∧ (∀ c, c ≠ s.cur → getCore s1 c = getCore (wbPark s) c)
      ∧ recCode r = i.code ∧ recHandle r = BitVec.ofNat 32 (coreIdOf s.cur) ∧ r.pc = pc ∧ r.addr = i.addr ∧ r.aux0 = i.aux0 ∧ r.aux1 = i.aux1
      ∧ takeTrap s i pc = freezeRings (toFaultRing s1 (mgmtPart s1) (cidOf s.cur) r) 3)

/-- end waits while a pass that the task issued lacks scales (R142), so that a pass whose scales never come runs its budget out; else
it ends a task that is no rule task once its dev-scope release is made (`endRelease`, R125): the core runs nothing, every set that
the task held is released, its bank-map entries no longer valid and the set attached there no more, and the other parked tasks stay;
in a rule task it raises BAD_VERDICT (R104, R231). Log entry 71 is the model's own reading in it. -/
def Obligations.EndEndsTheTask : Prop :=
  (∀ (f : FmtS) (s : State), ready (.endTask f) s = true → (taskOf s).kind ≠ .rule → awaitsScales s s.cur = true →
    exec (.endTask f) s = .next s)
  ∧ (∀ s : State, (getCore s s.cur).run = some (taskOf s) →
    (awaitsScales s s.cur = true ↔ classOf (idxOf s.cur) = .x ∧ ∃ p, (getTile s (tileOfCore s.cur)).waiting = some p
      ∧ p.owner = (taskOf s).handle ∧ scalesMissing (getTile s (tileOfCore s.cur)) p = true))
  ∧ (∀ (f : FmtS) (s s1 : State), ready (.endTask f) s = true → (taskOf s).kind ≠ .rule → awaitsScales s s.cur = false →
    endRelease s = .ok s1 →
    exec (.endTask f) s = .next (match (taskOf s).slot with
      | some k => settle (endRunning s1) k
      | none => endRunning s1)
    ∧ (getCore (endRunning s1) s1.cur).run = none
    ∧ (getCore (endRunning s1) s1.cur).parked.map (·.handle) = (getCore s1 s1.cur).parked.map (·.handle)
    ∧ ((taskOf s1).kind ≠ .fault → (getCore (endRunning s1) s1.cur).parked = (getCore s1 s1.cur).parked)
    ∧ ∀ h, find (getCore s1 s1.cur).holders h = some (.task (taskOf s1).handle) →
        bmV (bmapOf (getCore (endRunning s1) s1.cur) h) = false
        ∧ (bmV (bmapOf (getCore s1 s1.cur) h) = true →
            bmapOf (getCore (endRunning s1) s1.cur) h = 0#32
            ∧ ((getSet (getCl (endRunning s1) (cidOf s1.cur)) (bmSet (bmapOf (getCore s1 s1.cur) h))).use = .draining
               ∨ (getSet (getCl (endRunning s1) (cidOf s1.cur)) (bmSet (bmapOf (getCore s1 s1.cur) h))).use
                  = .clearing (cycOfCl s1 (cidOf s1.cur) + 1024))))
  ∧ (∀ (f : FmtS) (s : State), ready (.endTask f) s = true → (taskOf s).kind = .rule →
    exec (.endTask f) s = .next (trapAt s { code := 0x000B }))

/-- resume marks the parked task that a names resumed, so that it starts again under R69, and withdraws its fault task; abandon ends it
(`abandonTask`): it is parked no more and the other parked tasks stay, the bytes held back for it are written nowhere (R416), every set it
held is released (R104), and a rule task's box ends as a prune ends one (R32; its outcome code is log entry 109's choice).
Where a names no parked task of this core and launch, both raise BAD_HANDLE (R236). A system task may name any task of its core (R329).
Neither names a task that a breakpoint of the debug ring parked: eret alone releases it (R370). Log entries 66 and 94 are the model's
own readings in it. -/
def Obligations.ResumeAndAbandon : Prop :=
  (∀ (f : FmtS) (s : State) (p : Task), ready (.resume f) s = true → parkedNamed s s.cur ((readS s f.a).extractLsb' 0 32) = some p →
    ((taskOf s).kind = .system ∨ p.slot = (taskOf s).slot) → p.debug = false →
    ∃ t, exec (.resume f) s = .next t ∧ MemKept s t ∧ taskOf t = { taskOf s with ctx := advance (ctxOf s) .seq }
      ∧ (getCore t s.cur).parked = (((getCore s s.cur).parked.filter fun x => x.handle ≠ p.handle)
          ++ ((getCore s s.cur).parked.filter fun x => x.handle = p.handle).map fun x => { x with resumed := true, due := false, debug := false })
      ∧ (∀ q ∈ (getCore t s.cur).faultq, q.flink ≠ p.handle) ∧ (∀ c, c ≠ s.cur → getCore t c = getCore s c))
  ∧ (∀ (f : FmtS) (s : State) (p : Task), ready (.abandon f) s = true → parkedNamed s s.cur ((readS s f.a).extractLsb' 0 32) = some p →
    ((taskOf s).kind = .system ∨ p.slot = (taskOf s).slot) → p.debug = false →
    exec (.abandon f) s = .next (goesOn (.abandon f) s (abandonTask s s.cur p)))
  ∧ (∀ (s : State) (c : Nat) (p : Task),
    (getCore (abandonTask s c p) c).parked.map (·.handle)
      = ((getCore s c).parked.filter (fun x => decide (x.handle ≠ p.handle))).map (·.handle)
    ∧ (p.kind ≠ .fault → (getCore (abandonTask s c p) c).parked = (getCore s c).parked.filter (fun x => decide (x.handle ≠ p.handle)))
    ∧ (getCore (abandonTask s c p) c).run = (getCore s c).run ∧ (abandonTask s c p).mem = s.mem ∧ (abandonTask s c p).parts = s.parts
    ∧ (∀ h, find (getCore s c).holders h = some (.task p.handle) → bmV (bmapOf (getCore s c) h) = true →
        bmapOf (getCore (abandonTask s c p) c) h = 0#32
        ∧ ((getSet (getCl (abandonTask s c p) (cidOf c)) (bmSet (bmapOf (getCore s c) h))).use = .draining
           ∨ (getSet (getCl (abandonTask s c p) (cidOf c)) (bmSet (bmapOf (getCore s c) h))).use
              = .clearing (cycOfCl s (cidOf c) + 1024)))
    ∧ (∀ (k : Nat) (b : Box) (l : Launch) (r : BoxRec), p.kind = .rule → p.slot = some k → p.box = some b → launchAt s k = some l →
        getBox l b.name = some r → r.box.name = b.name →
        ∃ l' r', launchAt (abandonTask s c p) k = some l' ∧ getBox l' b.name = some r' ∧ r'.phase = .ending ∧ r'.outcome = 1 ∧ r'.box = r.box))
  ∧ (∀ (f : FmtS) (s : State), (parkedNamed s s.cur ((readS s f.a).extractLsb' 0 32)).all
      (fun p => decide (p.debug = true ∨ ((taskOf s).kind ≠ .system ∧ p.slot ≠ (taskOf s).slot))) = true →
    (ready (.resume f) s = true → exec (.resume f) s = .next (trapAt s { code := 0x000C }))
    ∧ (ready (.abandon f) s = true → exec (.abandon f) s = .next (trapAt s { code := 0x000C })))

namespace Sys2Proof.Say

/-- Rows of R78: instructions with their latency, none for an interlocked one. -/
def scalarLatencies : List ((FmtS → Instr) × Option Nat) :=
  ([Instr.add, .sub, .andOp, .orOp, .xorOp, .andn, .shl, .shr, .sar, .rot, .minOp, .maxOp, .minu, .maxu, .setOp, .sel, .clz, .ctz, .popc,
    .bfx, .bfi, .timeOp].map fun g => (g, some 1))
  ++ ([Instr.mul, .mulh, .mulhu].map fun g => (g, some 3)) ++ [Instr.divOp, .divu, .remOp, .remu].map fun g => (g, none)
def immediateLatencies : List ((FmtI → Instr) × Option Nat) :=
  ([Instr.addImm, .movi, .movhi, .csrr, .csrw].map fun g => (g, some 1)) ++ [(.lit, some 2)]
/-- With the formats of a row: integer, half, single and double. -/
def vectorLatencies : List ((FmtV → Instr) × List Nat × Option Nat) :=
  ([Instr.vand, .vor, .vxor, .vshl, .vshr, .vsar, .vcmp, .vsel, .vmov, .vbcast, .vins, .vext, .vidx].map fun g => (g, List.range 16, some 2))
  ++ ([Instr.vmin, .vmax, .vabs, .vneg].map fun g => (g, List.range 16, some 2)) ++ ([Instr.vadd, .vsub].map fun g => (g, [1, 2, 3, 4], some 2))
  ++ [(.vcvt, List.range 16, some 3)]
  ++ ([Instr.vadd, .vsub, .vmul, .vfma, .vfms].map fun g => (g, [8, 9, 10], some 4))
  ++ ([Instr.vadd, .vsub, .vmul, .vfma, .vfms].map fun g => (g, [11], some 6))
  ++ ([Instr.vrcp, .vrsq, .vexp2, .vlog2, .vred, .vscan].map fun g => (g, List.range 16, some 6))
  ++ ([Instr.vdiv, .vsqrt, .vtopk].map fun g => (g, List.range 16, none)) ++ [(.vmul, [1, 2, 3, 4], none)]

end Sys2Proof.Say

/-- When an instruction issues, and what going on from a completed effect is. An instruction waits, and nothing changes, while a
register it reads or writes is one that an earlier interlocked instruction has yet to write; an interlocked instruction waits for every
earlier write of such a register; a V-format instruction waits while the vector unit is taken (R77, R290). With CHK one, a fixed-latency
instruction that reads a register whose fixed-latency producer has not delivered, or whose own write would complete no later than an
earlier one of the same register, raises STALL_SHORT (R79, check 9 of R220). The latencies are those of R78. A register written with a latency of L reads, until L cycles have
passed, as it stood before; then it holds the value. When an instruction goes on, nothing changes but where control is, the pipeline of the core,
and, for an instruction that takes a format, the pending prefix (R77, R85). Log entry 95 is the model's own reading in it. -/
def Obligations.IssueAndGoingOn : Prop :=
  (∀ (i : Instr) (op : Nat) (f : Fields) (s s' : State), view i = some (op, f) →
    MemKept s' (goesOn i s s')
    ∧ WentOn s' (goesOn i s s')
        (advance (if takesFormat op then { ctxOf s' with status := setPP (ctxOf s').status false } else ctxOf s') .seq)
    ∧ (getCore (goesOn i s s') s'.cur).ready = cycOf s' s'.cur + 1 + stallOf f)
  ∧ (∀ (i : Instr) (op : Nat) (f : Fields) (s : State), view i = some (op, f) → op ≠ 0x007 → (getCore s s.cur).run = some (taskOf s) →
    decodeCheck (taskOf s) (classOf (idxOf s.cur)) op f = none →
    (mustWait s op (effFields (ctxOf s) f) = true → exec i s = .next s)
    ∧ (mustWait s op (effFields (ctxOf s) f) = false → stallShort s op (effFields (ctxOf s) f) = true →
        exec i s = .next (trapAt s { code := 0x0008 })))
  ∧ (∀ (s : State) (op : Nat) (f : Fields), op ≠ 0x00C → op ≠ 0x00D →
    (mustWait s op f = true ↔
      (∃ p ∈ (getCore s s.cur).wr, cycOf s s.cur < p.fin ∧ (p.ilk = true ∨ latencyOf op (fmtOf f) = none)
        ∧ ∃ r ∈ readsOf op f ++ writesOf op f, p.vec = r.vec ∧ p.n = r.n)
      ∨ (0x1A0 ≤ op ∧ op ≤ 0x1BF ∧ cycOf s s.cur < (getCore s s.cur).vecFree)))
  ∧ (∀ (s : State) (op : Nat) (f : Fields),
    (stallShort s op f = true ↔ ∃ lat, latencyOf op (fmtOf f) = some lat ∧ stChk (ctxOf s).status = true
      ∧ ∃ p ∈ (getCore s s.cur).wr, cycOf s s.cur < p.fin ∧ p.ilk = false
        ∧ ((∃ r ∈ readsOf op f, p.vec = r.vec ∧ p.n = r.n)
          ∨ ((∃ r ∈ writesOf op f, p.vec = r.vec ∧ p.n = r.n) ∧ cycOf s s.cur + lat ≤ p.fin))))
  ∧ (∀ row ∈ scalarLatencies, ∀ f : FmtS, ∃ op, view (row.1 f) = some (op, .s f) ∧ latencyOf op (fmtOf (.s f)) = row.2)
  ∧ (∀ row ∈ immediateLatencies, ∀ f : FmtI, ∃ op, view (row.1 f) = some (op, .i f) ∧ latencyOf op (fmtOf (.i f)) = row.2)
  ∧ (∀ row ∈ vectorLatencies, ∀ f : FmtV, f.fmt.toNat ∈ row.2.1 → ∃ op, view (row.1 f) = some (op, .v f) ∧ latencyOf op (fmtOf (.v f)) = row.2.2)
  ∧ (∀ (s t : State) (d : BitVec 6) (v : Word) (lat : Nat) (ilk : Bool), d.toNat < 32 → t.cur = s.cur → 2 ≤ lat →
    getCore t s.cur = getCore (writeSLat s d v lat ilk) s.cur →
    (∀ p ∈ (getCore s s.cur).wr, p.vec = false → p.n ≠ d.toNat) →
    (cycOf t t.cur < cycOf s s.cur + lat → readS t d = scalarOf s d) ∧ (cycOf s s.cur + lat ≤ cycOf t t.cur → readS t d = v))

/-! ## Privileged instructions -/

/-- wpset gives WP a frame base of the core, and RANGE for any other value (R331). A csrw of a tag-table entry writes every field as
given, and an entry written with EN zero starts nothing (R153, R330); LSTEER takes its six low bits on an X-core, and ignores the
write elsewhere (R406); with EN one the entry is as given but for PEND, which is used up. eret marks the named parked task of this core resumed, whatever its launch, and the system task ends as
end does; halt ends it too, and the core starts nothing until a system parcel arrives; an eret that names no parked task raises
BAD_HANDLE (R331). Log entry 17 is the model's own reading in it. -/
def Obligations.PrivilegedRegistersAndReturn : Prop :=
  ((∀ (f : FmtS) (s : State) (i : Nat), ready (.wpset f) s = true → i < 8 → (readS s f.a).toNat = frameBase s.cur i →
    ∃ t, exec (.wpset f) s = .next t ∧ MemKept s t ∧ OnlyCore s t ∧ StoreKept s t (fun _ => false)
      ∧ taskOf t = { taskOf s with wp := frameBase s.cur i, ctx := advance (ctxOf s) .seq })
  ∧ (∀ (f : FmtS) (s : State), ready (.wpset f) s = true → (∀ i, i < 8 → (readS s f.a).toNat ≠ frameBase s.cur i) →
    exec (.wpset f) s = .next (trapAt s { code := 0x0011 }))
  ∧ (∀ (f : FmtI) (s : State) (n : Nat), ready (.csrw f) s = true → n < 256 → (f.imm.extractLsb' 0 12).toNat = 0x200 + n →
    ∃ t, exec (.csrw f) s = .next t
      ∧ (∀ m, m ≠ n → tagOf (getCore t s.cur) m = tagOf (getCore s s.cur) m)
      ∧ ((readS s f.a).getLsbD 63 = false → tagOf (getCore t s.cur) n = readS s f.a &&& 0xFFC1FFFFFFFFFFF8#64
          ∧ (getCore t s.cur).runq = (getCore s s.cur).runq ∧ (getCore t s.cur).inbox = (getCore s s.cur).inbox)
      ∧ ((readS s f.a).getLsbD 63 = true → tagOf (getCore t s.cur) n = readS s f.a &&& 0xBFC1FFFFFFFFFFF8#64))
  ∧ (∀ (f : FmtI) (s : State), ready (.csrw f) s = true → f.imm.extractLsb' 0 12 = 0x102#12 →
    ∃ t, exec (.csrw f) s = .next t
      ∧ (classOf (idxOf s.cur) = .x → (getCore t s.cur).steer = some (readS s f.a &&& 0x3F#64))
      ∧ (classOf (idxOf s.cur) ≠ .x → (getCore t s.cur).steer = (getCore s s.cur).steer)))
  ∧ ((∀ (f : FmtS) (s s1 : State), ready (.eret f) s = true → (taskOf s).slot = none → (readS s f.a).extractLsb' 0 32 = 0xFFFFFFFF#32 →
    endRelease s = .ok s1 → exec (.eret f) s = .next (endRunning s1) ∧ (getCore (endRunning s1) s1.cur).run = none)
  ∧ (∀ (f : FmtS) (s s1 : State) (p : Task), ready (.eret f) s = true → (taskOf s).slot = none →
    (readS s f.a).extractLsb' 0 32 ≠ 0xFFFFFFFF#32 → parkedNamed s s.cur ((readS s f.a).extractLsb' 0 32) = some p →
    endRelease (resumeParked s s.cur p.handle) = .ok s1 →
    exec (.eret f) s = .next (endRunning s1) ∧ (getCore (endRunning s1) s1.cur).run = none
      ∧ (∃ x ∈ (getCore (resumeParked s s.cur p.handle) s.cur).parked, x.handle = p.handle ∧ x.resumed = true))
  ∧ (∀ (f : FmtS) (s : State), ready (.eret f) s = true → (readS s f.a).extractLsb' 0 32 ≠ 0xFFFFFFFF#32 →
    parkedNamed s s.cur ((readS s f.a).extractLsb' 0 32) = none → exec (.eret f) s = .next (trapAt s { code := 0x000C }))
  ∧ (∀ (f : FmtS) (s s1 : State), ready (.halt f) s = true → (taskOf s).slot = none → endRelease s = .ok s1 →
    ∃ t, exec (.halt f) s = .next t ∧ (getCore t s1.cur).run = none ∧ (getCore t s1.cur).halted = true))

/-- bmapw (R332) attaches a free set to a handle of a core of the cluster, with the entry given (RD, WR and RES as given, SRC 11b, the
reserved bits zero), or releases what the handle held; a set attached elsewhere moves, with its holder, once no operation that names it
is open, and till then the instruction waits; a set that is reserved, clearing or still draining, and a handle that holds a set, raise
SET_BUSY; a core index of 4 to 7 or above 8 raises RANGE. Log entries 17 and 96 are the model's own readings in it. -/
def Obligations.BankMapWrite : Prop :=
  (∀ (f : FmtS) (s : State), ready (.bmapw f) s = true →
    (3 < ((readS s f.a).extractLsb' 4 4).toNat ∧ (readS s f.a).extractLsb' 4 4 ≠ 8#4) → exec (.bmapw f) s = .next (trapAt s { code := 0x0011 }))
  ∧ (∀ (f : FmtS) (s : State) (h n c : Nat), ready (.bmapw f) s = true →
    (((readS s f.a).extractLsb' 4 4).toNat ≤ 3 ∨ (readS s f.a).extractLsb' 4 4 = 8#4) →
    h = ((readS s f.a).extractLsb' 0 4).toNat → c = 16 * (s.cur / 16) + ((readS s f.a).extractLsb' 4 4).toNat →
    (readS s f.b).getLsbD 31 = true → n = bmSet ((readS s f.b).extractLsb' 0 32) →
    bmV (bmapOf (getCore s c) h) = false → (getSet (getCl s (s.cur / 16)) n).use = .free →
    ∃ t, exec (.bmapw f) s = .next t ∧ (getSet (getCl t (s.cur / 16)) n).use = .attached c h
      ∧ bmapOf (getCore t c) h = ((readS s f.b).extractLsb' 0 32 &&& 0xF0000007#32) ||| 0x0C000000#32
      ∧ bmV (bmapOf (getCore t c) h) = true ∧ bmSet (bmapOf (getCore t c) h) = n)
  ∧ (∀ (f : FmtS) (s : State) (h n c c' h' : Nat), ready (.bmapw f) s = true →
    (((readS s f.a).extractLsb' 4 4).toNat ≤ 3 ∨ (readS s f.a).extractLsb' 4 4 = 8#4) →
    h = ((readS s f.a).extractLsb' 0 4).toNat → c = 16 * (s.cur / 16) + ((readS s f.a).extractLsb' 4 4).toNat →
    (readS s f.b).getLsbD 31 = true → n = bmSet ((readS s f.b).extractLsb' 0 32) →
    bmV (bmapOf (getCore s c) h) = false → (getSet (getCl s (s.cur / 16)) n).use = .attached c' h' → (c' ≠ c ∨ h' ≠ h) →
    (setBusy s (s.cur / 16) n = true → exec (.bmapw f) s = .next s)
    ∧ (setBusy s (s.cur / 16) n = false →
      ∃ t, exec (.bmapw f) s = .next t ∧ (getSet (getCl t (s.cur / 16)) n).use = .attached c h
        ∧ bmapOf (getCore t c) h = ((readS s f.b).extractLsb' 0 32 &&& 0xF0000007#32) ||| 0x0C000000#32
        ∧ bmapOf (getCore t c') h' = 0#32
        ∧ find (getCore t c).holders h = some ((find (getCore s c').holders h').getD (.task 0xFFFFFFFF#32))))
  ∧ (∀ (f : FmtS) (s : State) (n : Nat), ready (.bmapw f) s = true →
    (((readS s f.a).extractLsb' 4 4).toNat ≤ 3 ∨ (readS s f.a).extractLsb' 4 4 = 8#4) →
    (readS s f.b).getLsbD 31 = true → n = bmSet ((readS s f.b).extractLsb' 0 32) →
    ((∃ k b, (getSet (getCl s (s.cur / 16)) n).use = .reserved k b) ∨ (∃ e, (getSet (getCl s (s.cur / 16)) n).use = .clearing e)
      ∨ (getSet (getCl s (s.cur / 16)) n).use = .draining) →
    exec (.bmapw f) s = .next (trapAt s { code := 0x0050 }))
  ∧ (∀ (f : FmtS) (s : State) (h c : Nat), ready (.bmapw f) s = true →
    (((readS s f.a).extractLsb' 4 4).toNat ≤ 3 ∨ (readS s f.a).extractLsb' 4 4 = 8#4) →
    h = ((readS s f.a).extractLsb' 0 4).toNat → c = 16 * (s.cur / 16) + ((readS s f.a).extractLsb' 4 4).toNat →
    (readS s f.b).getLsbD 31 = false → bmV (bmapOf (getCore s c) h) = true →
    ∃ t, exec (.bmapw f) s = .next t ∧ bmV (bmapOf (getCore t c) h) = false)
  ∧ (∀ (f : FmtS) (s : State) (h c : Nat), ready (.bmapw f) s = true →
    (((readS s f.a).extractLsb' 4 4).toNat ≤ 3 ∨ (readS s f.a).extractLsb' 4 4 = 8#4) →
    h = ((readS s f.a).extractLsb' 0 4).toNat → c = 16 * (s.cur / 16) + ((readS s f.a).extractLsb' 4 4).toNat →
    (readS s f.b).getLsbD 31 = true → bmV (bmapOf (getCore s c) h) = true →
    exec (.bmapw f) s = .next (trapAt s { code := 0x0050 }))

/-- The record instructions (R331, R344). ctxsave writes the task record of a parked task of the cluster, removes the task and gives its
length; ctxload reads a record, makes the task parked again on the core and in the frame it names, and gives its handle; unfsave writes
the box records that a stopped spur engine holds, the join entry of a split box whose join task is parked among them (R352), has it forget them, and gives their count; unfload reads box records back.
`takeTask`: the task is parked on its core no more, its fault task waits there no more, and every other task, core and cluster and memory
stay. `placeTask`: the task of the record is parked on the core, in the frame its handle names, with the record's registers, and the frame
holds the record's image, the reserved bits of its header zero (R8, R63). `forgetBoxes`: the launch has no box of the names, the others stay, and the sets they reserved are free.
`loadBoxes`: the launch has each box of the records, where it was before, and the others stay. Log entries 17, 19, 78 and 97 are the
model's own readings in it. -/
def Obligations.ContextRecords : Prop :=
  (∀ (f : FmtS) (s s1 : State) (c : Nat) (p : Task), ready (.ctxsave f) s = true →
    parkedIn s (cidOf s.cur) ((readS s f.a).extractLsb' 0 32) = some (c, p) →
    recPut s (readS s f.b) (taskBytes s c p) = .ok s1 →
    exec (.ctxsave f) s = .next (goesOn (.ctxsave f) s (writeS (takeTask s1 c p) f.d (BitVec.ofNat 64 (taskLen c p)))))
  ∧ (∀ (f : FmtS) (s s1 s2 : State) (b b2 : List Byte), ready (.ctxload f) s = true → recGet s (readS s f.a) 256 = .ok (s1, b) →
    le b 72 1 ≤ 8 → frameBusy s1 (recCore (cidOf s.cur) b) (frameOfHandle (BitVec.ofNat 32 (le b 64 4))) = false →
    recGet s1 (readS s f.a) (256 + frameSize (recCore (cidOf s.cur) b) + 160 * le b 73 1) = .ok (s2, b2) →
    exec (.ctxload f) s = .next (goesOn (.ctxload f) s
      (writeS (placeTask s2 (getCl s2 (cidOf s.cur)).holder (recCore (cidOf s.cur) b) b2) f.d ((BitVec.ofNat 32 (le b 64 4)).setWidth 64))))
  ∧ (∀ (f : FmtS) (s s1 : State) (k : Nat) (l : Launch), ready (.unfsave f) s = true →
    k = ((readS s f.a).extractLsb' 0 10).toNat → spurStopped s k = true → launchAt s k = some l →
    recPut s (readS s f.b) ((heldBoxes l (cidOf s.cur)).flatMap fun b => wordsBytes (boxWords b ((stateCode b.phase).getD 0))) = .ok s1 →
    exec (.unfsave f) s = .next (goesOn (.unfsave f) s
      (writeS (forgetBoxes s1 k (cidOf s.cur) (heldBoxes l (cidOf s.cur))) f.d (BitVec.ofNat 64 (heldBoxes l (cidOf s.cur)).length))))
  ∧ (∀ (f : FmtS) (s s1 : State) (k n : Nat) (b : List Byte), ready (.unfload f) s = true →
    k = ((readS s f.a).extractLsb' 0 10).toNat → n = (readS s f.c).toNat → spurStopped s k = true → n ≤ 2 ^ 49 / 384 →
    recGet s (readS s f.b) (384 * n) = .ok (s1, b) →
    exec (.unfload f) s = .next (goesOn (.unfload f) s
      (loadBoxes s1 k (cidOf s.cur) ((List.range n).map fun i => ((bytesWords (48 * n) b).drop (48 * i)).take 48))))
  ∧ (∀ (l : Launch) (cid n : Nat) (b : BoxRec), b ∈ l.boxes.map (·.2) → b.cid = cid →
    (b.phase = .pending ∨ b.phase = .leafWait ∨ b.phase = .leafReserved ∨ b.phase = .split n ∨ b.phase = .joinPending ∨ b.phase = .joining) →
    b ∈ heldBoxes l cid)
  ∧ (∀ (f : FmtS) (s : State), spurStopped s ((readS s f.a).extractLsb' 0 10).toNat = false →
    (ready (.unfsave f) s = true → exec (.unfsave f) s = .next (trapAt s { code := 0x0052 }))
    ∧ (ready (.unfload f) s = true → exec (.unfload f) s = .next (trapAt s { code := 0x0052 })))
  ∧ (∀ (s : State) (c : Nat) (p : Task),
    (getCore (takeTask s c p) c).parked = (getCore s c).parked.filter (fun x => decide (x.handle ≠ p.handle))
    ∧ (∀ x ∈ (getCore (takeTask s c p) c).parked, x.handle ≠ p.handle)
    ∧ (getCore (takeTask s c p) c).faultq = (getCore s c).faultq.filter (fun q => decide (q.flink ≠ p.handle))
    ∧ (getCore (takeTask s c p) c).run = (getCore s c).run ∧ (getCore (takeTask s c p) c).store = (getCore s c).store
    ∧ (getCore (takeTask s c p) c).holders = (getCore s c).holders ∧ (∀ d, d ≠ c → getCore (takeTask s c p) d = getCore s d)
    ∧ (takeTask s c p).clusters = s.clusters ∧ (takeTask s c p).mem = s.mem)
  ∧ (∀ (s : State) (slot : Option Nat) (c : Nat) (b : List Byte), 256 + frameSize c ≤ b.length →
    ∃ p, (getCore (placeTask s slot c b) c).parked = (getCore s c).parked ++ [p] ∧ p.slot = slot
      ∧ p.handle = BitVec.ofNat 32 (le b 64 4) ∧ p.frame = frameOfHandle p.handle ∧ p.wp = frameBase c p.frame
      ∧ p.ctx.pc = recWord b 0 ∧ p.ctx.lc = recWord b 16 ∧ p.ctx.ls = recWord b 24 ∧ p.ctx.le = recWord b 32 ∧ p.ctx.btgt = recWord b 40
      ∧ p.ctx.seed = recWord b 48 ∧ p.ctx.budget = BitVec.ofNat 32 (le b 60 4) ∧ p.ctx.pfx = BitVec.ofNat 32 (le b 56 4) &&& 0x00FFFFC0#32
      ∧ stPP p.ctx.status = decide (2 ^ 31 ≤ le b 56 4) ∧ p.held.length ≥ le b 73 1
      ∧ (∀ i, i < frameSize c → (i < 336 ∨ 384 ≤ i) → storeByte (getCore (placeTask s slot c b) c) (p.wp + i) = b.getD (256 + i) 0)
      ∧ (∀ q ∈ [(336, 0xFFFFFFFF#64), (344, 0xFFFFFFFF#64), (352, 0xFFFFFFFF00000000#64), (360, BitVec.allOnes 64), (368, BitVec.allOnes 64),
          (376, 0x80FFFFFFFFFFFFFF#64)],
          look 0 (getCore (placeTask s slot c b) c).store ((p.wp + q.1) / 8) = recWord b (256 + q.1) &&& q.2)
      ∧ (∀ i, (i < p.wp ∨ p.wp + frameSize c ≤ i) → storeByte (getCore (placeTask s slot c b) c) i = storeByte (getCore s c) i)
      ∧ (getCore (placeTask s slot c b) c).run = (getCore s c).run ∧ (∀ d, d ≠ c → getCore (placeTask s slot c b) d = getCore s d)
      ∧ (placeTask s slot c b).clusters = s.clusters ∧ (placeTask s slot c b).mem = s.mem)
  ∧ (∀ (s : State) (k cid : Nat) (bs : List BoxRec) (l : Launch), launchAt s k = some l → (getCl s cid).spillArea = none →
    ∃ l', launchAt (forgetBoxes s k cid bs) k = some l' ∧ (∀ b ∈ bs, getBox l' b.box.name = none)
      ∧ (∀ name, (∀ b ∈ bs, b.box.name ≠ name) → getBox l' name = getBox l name)
      ∧ (∀ b ∈ bs, b.phase = .leafReserved → ∀ n ∈ b.sets, (getSet (getCl (forgetBoxes s k cid bs) b.cid) n).use = .free)
      ∧ (forgetBoxes s k cid bs).cores = s.cores ∧ (forgetBoxes s k cid bs).mem = s.mem)
  ∧ (∀ (s : State) (k cid : Nat) (ws : List (List Word)) (l : Launch), launchAt s k = some l →
    ((ws.map (boxOfWords l cid)).map fun b => b.box.name).Nodup →
    ∃ l', launchAt (loadBoxes s k cid ws) k = some l'
      ∧ (∀ w ∈ ws, ∃ r, getBox l' (boxOfWords l cid w).box.name = some r ∧ r.box = (boxOfWords l cid w).box
          ∧ r.phase = (boxOfWords l cid w).phase ∧ r.join = (boxOfWords l cid w).join
          ∧ (r.phase ≠ .heldRight → r.cid = cid ∧ r.seqno = (boxOfWords l cid w).seqno))
      ∧ (∀ name, (∀ w ∈ ws, (boxOfWords l cid w).box.name ≠ name) → getBox l' name = getBox l name)
      ∧ (loadBoxes s k cid ws).cores = s.cores ∧ (loadBoxes s k cid ws).mem = s.mem)
  ∧ (∀ (l : Launch) (cid : Nat) (w : List Word),
    (boxOfWords l cid w).box.name = w.getD 8 0
    ∧ (boxOfWords l cid w).box.modes = w.getD 11 0 ++ w.getD 10 0
    ∧ (∀ a, a < 8 → (axisOf (boxOfWords l cid w).box a).org = (w.getD a 0).extractLsb' 0 32
        ∧ (axisOf (boxOfWords l cid w).box a).ext = (w.getD a 0).extractLsb' 32 32)
    ∧ (boxOfWords l cid w).box.rule = ((w.getD 9 0).extractLsb' 60 4).toNat
    ∧ (((w.getD 9 0).extractLsb' 56 4 = 0#4 → (boxOfWords l cid w).phase = .pending)
      ∧ ((w.getD 9 0).extractLsb' 56 4 = 1#4 → (boxOfWords l cid w).phase = .leafWait)
      ∧ ((w.getD 9 0).extractLsb' 56 4 = 3#4 → (boxOfWords l cid w).phase = .heldRight)))

/-! ## Boxes and verdicts -/

/-- The reads of the box and the launch (R243 to R247; log entry 93 is the model's own reading of a task that has no box): the origin or extent of an axis, the box's name or mode bits, the sets a leaf
needs with the counts of the cluster, a rule-table entry; each writes its register and changes nothing else. An index that is not
below the launch's count raises BAD_VERDICT. boxn (R248) in a rule task: an extent above the box's raises BAD_VERDICT, an equal
one changes nothing, and a smaller one becomes the box's, in the spur engine's record too, with NARROWED set; the origin and every
other axis stay. -/
def Obligations.BoxReadsAndNarrowing : Prop :=
  ((∀ (f : FmtK) (s : State) (k : Nat) (l : Launch), ready (.boxr f) s = true → myLaunch s = some (k, l) →
    (f.axis.toNat < naxes l → ∃ t, exec (.boxr f) s = .next t ∧ MemKept s t ∧ WroteScalar s t f.d
      (if f.sub = 0#2 then (axisOf (myBox s) f.axis.toNat).org.setWidth 64 else (axisOf (myBox s) f.axis.toNat).ext.setWidth 64))
    ∧ (naxes l ≤ f.axis.toNat → exec (.boxr f) s = .next (trapAt s { code := 0x000B })))
  ∧ (∀ (f : FmtK) (s : State), ready (.pathOp f) s = true →
    ∃ t, exec (.pathOp f) s = .next t ∧ MemKept s t ∧ WroteScalar s t f.d
      (if f.sub = 0#2 then (myBox s).name else if f.sub = 1#2 then (myBox s).modes.extractLsb' 0 64 else (myBox s).modes.extractLsb' 64 64))
  ∧ (∀ (f : FmtK) (s : State) (k : Nat) (l : Launch), ready (.fitq f) s = true → myLaunch s = some (k, l) →
    (f.leaf.toNat < nleaves l → ∃ t v, exec (.fitq f) s = .next t ∧ MemKept s t ∧ WroteScalar s t f.d v
      ∧ (v.extractLsb' 32 32).toNat = min (setsNeeded l f.leaf.toNat (myBox s)) 0xFFFFFFFF ∧ v.extractLsb' 16 16 = 0#16
      ∧ (v.extractLsb' 8 8).toNat = min (((boxesAt l (cidOf s.cur)).filter fun b => b.phase = .leafWait).length) 255
      ∧ (v.extractLsb' 0 8).toNat = (freeSets (getCl s (cidOf s.cur))).length)
    ∧ (nleaves l ≤ f.leaf.toNat → exec (.fitq f) s = .next (trapAt s { code := 0x000B })))
  ∧ (∀ (f : FmtK) (s : State) (k : Nat) (l : Launch), ready (.ruleq f) s = true → myLaunch s = some (k, l) →
    ((readS s f.a).toNat < nrules l → ∃ t, exec (.ruleq f) s = .next t ∧ MemKept s t
      ∧ WroteScalar s t f.d ((ruleEntry l (readS s f.a).toNat).setWidth 64))
    ∧ (nrules l ≤ (readS s f.a).toNat → exec (.ruleq f) s = .next (trapAt s { code := 0x000B }))))
  ∧ ((∀ (f : FmtK) (s : State), ready (.boxn f) s = true → (taskOf s).kind ≠ .rule → exec (.boxn f) s = .next (trapAt s { code := 0x000B }))
  ∧ (∀ (f : FmtK) (s : State) (k : Nat) (l : Launch), ready (.boxn f) s = true → (taskOf s).kind = .rule → myLaunch s = some (k, l) →
    (naxes l ≤ f.axis.toNat ∨ (axisOf (myBox s) f.axis.toNat).ext.toNat < (readS s f.a).toNat) →
    exec (.boxn f) s = .next (trapAt s { code := 0x000B }))
  ∧ (∀ (f : FmtK) (s : State) (k : Nat) (l : Launch), ready (.boxn f) s = true → (taskOf s).kind = .rule → myLaunch s = some (k, l) →
    f.axis.toNat < naxes l → (readS s f.a).toNat = (axisOf (myBox s) f.axis.toNat).ext.toNat →
    ∃ t, exec (.boxn f) s = .next t ∧ MemKept s t ∧ WentOn s t (advance (ctxOf s) .seq))
  ∧ (∀ (f : FmtK) (s : State) (k : Nat) (l : Launch) (b : Box), ready (.boxn f) s = true → (taskOf s).kind = .rule →
    myLaunch s = some (k, l) → f.axis.toNat < naxes l → (taskOf s).box = some b → f.axis.toNat < b.axes.length →
    (readS s f.a).toNat < (axisOf b f.axis.toNat).ext.toNat →
    ∃ t, exec (.boxn f) s = .next t ∧ MemKept s t ∧ (axisOf (myBox t) f.axis.toNat).ext = (readS s f.a).setWidth 32
      ∧ (axisOf (myBox t) f.axis.toNat).org = (axisOf b f.axis.toNat).org ∧ (myBox t).narrowed = true
      ∧ (∀ a, a ≠ f.axis.toNat → axisOf (myBox t) a = axisOf b a)
      ∧ (∀ r l', getBox l b.name = some r → r.box.name = b.name → launchAt t k = some l' →
          ∃ r', getBox l' b.name = some r' ∧ r'.box.narrowed = true ∧ r'.phase = r.phase)))

/-- The verdicts (R249 to R253), in a rule task that has nothing in flight, on a box that is not empty, once the dev-scope release is made
(`sendRelease`): split cuts the box on its axis, or refuses it at grain or at depth 58; splitf makes it a leaf where its sets are free,
else cuts the widest axis of the mask, or is refused where that has no more than its grain or the depth is 58; a refusal makes the
default leaf of the box's rule, or raises BAD_VERDICT where there is none or it never fits; prune and leaf do as they say; and the task
ends. An empty box is pruned, whatever the verdict (R35, R39). -/
def Obligations.Verdicts : Prop :=
  ∀ (f : FmtK) (s s1 : State) (k : Nat) (l : Launch), (taskOf s).kind = .rule → (taskOf s).slot = some k → launchAt s k = some l →
    busyIds s k l [(taskOf s).det.id] = false → sendRelease s = .ok s1 →
    (ready (.prune f) s = true →
      exec (.prune f) s = .next (settle (endRunning (pruneBox s1 k (myBox s).name (if boxEmpty (myBox s) then 4 else 1))) k))
    ∧ (ready (.leafOp f) s = true → f.leaf.toNat < nleaves l → setsNeeded l f.leaf.toNat (myBox s) ≤ 8 → boxEmpty (myBox s) = false →
      exec (.leafOp f) s = .next (settle (endRunning
        (leafBox s1 k (myBox s).name f.leaf.toNat false false (taskOf s1).handle (taskOf s1).det.acq)) k))
    ∧ (ready (.splitOp f) s = true → f.axis.toNat < naxes l → f.lr.toNat < nrules l → f.rr.toNat < nrules l →
      (f.join = 31#5 ∨ f.join.toNat < nrules l) → f.mode.toNat = modeOfRole (roleOf l f.axis.toNat) → boxEmpty (myBox s) = false →
      grainOf l f.axis.toNat < (axisOf (myBox s) f.axis.toNat).ext.toNat → depthOf (myBox s).name ≠ 58 →
      exec (.splitOp f) s = .next (settle (endRunning
        (cutBox s1 k (myBox s).name f.axis.toNat f.mode.toNat f.lr.toNat f.rr.toNat f.join.toNat (taskOf s1).handle (taskOf s1).det.acq)) k))
    ∧ (ready (.splitOp f) s = true → f.axis.toNat < naxes l → f.lr.toNat < nrules l → f.rr.toNat < nrules l →
      (f.join = 31#5 ∨ f.join.toNat < nrules l) → f.mode.toNat = modeOfRole (roleOf l f.axis.toNat) → boxEmpty (myBox s) = false →
      ((axisOf (myBox s) f.axis.toNat).ext.toNat ≤ grainOf l f.axis.toNat ∨ depthOf (myBox s).name = 58) →
      nleaves l ≠ 0 → setsNeeded l (ruleDleaf l (myBox s).rule) (myBox s) ≤ 8 →
      exec (.splitOp f) s = .next (settle (endRunning
        (leafBox s1 k (myBox s).name (ruleDleaf l (myBox s).rule) true false (taskOf s1).handle (taskOf s1).det.acq)) k))
    ∧ (ready (.splitOp f) s = true → f.axis.toNat < naxes l → f.lr.toNat < nrules l → f.rr.toNat < nrules l →
      (f.join = 31#5 ∨ f.join.toNat < nrules l) → f.mode.toNat = modeOfRole (roleOf l f.axis.toNat) → boxEmpty (myBox s) = false →
      ((axisOf (myBox s) f.axis.toNat).ext.toNat ≤ grainOf l f.axis.toNat ∨ depthOf (myBox s).name = 58) →
      (nleaves l = 0 ∨ 8 < setsNeeded l (ruleDleaf l (myBox s).rule) (myBox s)) →
      exec (.splitOp f) s = .next (trapAt s { code := 0x000B }))
    ∧ (boxEmpty (myBox s) = true →
      (ready (.splitOp f) s = true → f.axis.toNat < naxes l → f.lr.toNat < nrules l → f.rr.toNat < nrules l →
        (f.join = 31#5 ∨ f.join.toNat < nrules l) → f.mode.toNat = modeOfRole (roleOf l f.axis.toNat) →
        exec (.splitOp f) s = .next (settle (endRunning (pruneBox s1 k (myBox s).name 4)) k))
      ∧ (ready (.splitf f) s = true → f.mask ≠ 0#8 → f.mask.toNat &&& (255 - ruleFmask l (myBox s).rule) = 0 →
        f.leaf.toNat < nleaves l → (f.join = 31#5 ∨ f.join.toNat < nrules l) →
        exec (.splitf f) s = .next (settle (endRunning (pruneBox s1 k (myBox s).name 4)) k))
      ∧ (ready (.leafOp f) s = true → f.leaf.toNat < nleaves l → setsNeeded l f.leaf.toNat (myBox s) ≤ 8 →
        exec (.leafOp f) s = .next (settle (endRunning (pruneBox s1 k (myBox s).name 4)) k)))
    ∧ (ready (.splitf f) s = true → f.mask ≠ 0#8 → f.mask.toNat &&& (255 - ruleFmask l (myBox s).rule) = 0 → f.leaf.toNat < nleaves l →
      (f.join = 31#5 ∨ f.join.toNat < nrules l) → boxEmpty (myBox s) = false →
      (setsNeeded l f.leaf.toNat (myBox s) ≤ 8 ∧ setsNeeded l f.leaf.toNat (myBox s) ≤ (freeSets (getCl s (cidOf s.cur))).length →
        exec (.splitf f) s = .next (settle (endRunning
          (leafBox s1 k (myBox s).name f.leaf.toNat false true (taskOf s1).handle (taskOf s1).det.acq)) k))
      ∧ (∀ a, (freeSets (getCl s (cidOf s.cur))).length < setsNeeded l f.leaf.toNat (myBox s) → widest l (myBox s) f.mask = some a →
          depthOf (myBox s).name ≠ 58 →
          exec (.splitf f) s = .next (settle (endRunning
            (cutBox s1 k (myBox s).name a (modeOfRole (roleOf l a)) (myBox s).rule (myBox s).rule
              (if modeOfRole (roleOf l a) = 0 then 31 else f.join.toNat) (taskOf s1).handle (taskOf s1).det.acq)) k))
      ∧ ((8 < setsNeeded l f.leaf.toNat (myBox s)
            ∨ (freeSets (getCl s (cidOf s.cur))).length < setsNeeded l f.leaf.toNat (myBox s)) →
          (widest l (myBox s) f.mask = none ∨ depthOf (myBox s).name = 58) →
          (setsNeeded l (ruleDleaf l (myBox s).rule) (myBox s) ≤ 8 →
            exec (.splitf f) s = .next (settle (endRunning
              (leafBox s1 k (myBox s).name (ruleDleaf l (myBox s).rule) true false (taskOf s1).handle (taskOf s1).det.acq)) k))
          ∧ (8 < setsNeeded l (ruleDleaf l (myBox s).rule) (myBox s) → exec (.splitf f) s = .next (trapAt s { code := 0x000B }))))

namespace Sys2Proof.Say

/-- The pending boxes of a launch at a spur engine, and its join entries there: there is room for 512 and for 256 (R53; entry 67). -/
def pendingCount (l : Launch) (cid : Nat) : Nat := (pendingAt l cid).length
def joinCount (l : Launch) (cid : Nat) : Nat := ((boxesAt l cid).filter isJoinEntry).length
/-- The boxes of a launch stand under their names, each once. -/
def BoxesNamed (l : Launch) : Prop := (∀ e ∈ l.boxes, e.1 = e.2.box.name.toNat) ∧ (l.boxes.map (·.1)).Nodup

end Sys2Proof.Say

/-- A verdict in a task that is no rule task raises BAD_VERDICT (R249), whatever the verdict. What the verdicts make of the box's
record (R34, R37, R38): a prune has it end with outcome 1, or 4 for an empty box; a leaf enters the wait list or is reserved, its sets
the lowest free ones, with its leaf index and the refused mark; a widest axis has more than its grain, no axis of the mask has more
grains, and of those that have as many it is the lowest (R36). A cut makes two children: the left one has ceil(e / 2g) × g of the axis from its origin, the right one the rest (R34); their names
take one more path bit, 0 and 1 (R27), and their mode bits the mode of the split at its depth (R31); each has the rule given for it, the
rule task as its parent, and the box's other axes; the box waits as a join entry for both (R33). Log entry 67 is the model's own reading in
it. -/
def Obligations.VerdictOutcomes : Prop :=
  (∀ (f : FmtK) (s : State), (taskOf s).kind ≠ .rule →
    ∀ i ∈ [Instr.splitOp f, Instr.splitf f, Instr.prune f, Instr.leafOp f], ready i s = true → exec i s = .next (trapAt s { code := 0x000B }))
  ∧ ((∀ (s : State) (k o : Nat) (name : Word) (l : Launch) (r : BoxRec), launchAt s k = some l → getBox l name = some r → r.box.name = name →
    ∃ l' r', launchAt (pruneBox s k name o) k = some l' ∧ getBox l' name = some r' ∧ r'.phase = .ending ∧ r'.outcome = o ∧ r'.box = r.box)
  ∧ (∀ (l : Launch) (b : Box) (mask : BitVec 8) (a : Nat), widest l b mask = some a →
    a < 8 ∧ mask.getLsbD a = true ∧ grainOf l a < (axisOf b a).ext.toNat
    ∧ ∀ a', a' < 8 → mask.getLsbD a' = true → grainOf l a' < (axisOf b a').ext.toNat →
        ceilDiv (axisOf b a').ext.toNat (max 1 (grainOf l a')) ≤ ceilDiv (axisOf b a).ext.toNat (max 1 (grainOf l a))
        ∧ (a' < a → ceilDiv (axisOf b a').ext.toNat (max 1 (grainOf l a')) < ceilDiv (axisOf b a).ext.toNat (max 1 (grainOf l a))))
  ∧ (∀ (s : State) (k : Nat) (name : Word) (j : Nat) (refused fits : Bool) (h : BitVec 32) (tbl : List Acq) (l : Launch) (r : BoxRec),
    launchAt s k = some l → getBox l name = some r → r.box.name = name → pendingCount l r.cid ≤ 511 → joinCount l r.cid ≤ 256 →
    (freeSets (getCl s r.cid)).length < setsNeeded l j { r.box with leaf := j, refused := refused, tile := if l.replay then 0 else r.box.tile } →
    ∃ l' r', launchAt (leafBox s k name j refused fits h tbl) k = some l' ∧ getBox l' name = some r' ∧ r'.phase = .leafWait
      ∧ r'.box.leaf = j ∧ r'.box.refused = refused ∧ r'.outcome = (if refused then 3 else 0) ∧ r'.verdictBy = h))
  ∧ (∀ (s : State) (k n : Nat) (name : Word) (j : Nat) (refused fits : Bool) (h : BitVec 32) (tbl : List Acq) (l : Launch) (r : BoxRec),
    launchAt s k = some l → getBox l name = some r → r.box.name = name → BoxesNamed l → engineOpen s k r.cid = true →
    (fits = true ∨ ∀ b ∈ boxesAt l r.cid, b.phase ≠ .leafWait) →
    n = setsNeeded l j { r.box with leaf := j, refused := refused, tile := if l.replay then 0 else r.box.tile } →
    n ≤ (freeSets (getCl s r.cid)).length →
    ∃ l' r', launchAt (leafBox s k name j refused fits h tbl) k = some l' ∧ getBox l' name = some r' ∧ r'.phase = .leafReserved
      ∧ r'.sets = (freeSets (getCl s r.cid)).take n ∧ r'.box.leaf = j ∧ r'.box.refused = refused
      ∧ r'.outcome = (if refused then 3 else 0) ∧ r'.verdictBy = h
      ∧ ∀ m ∈ (freeSets (getCl s r.cid)).take n,
          (getSet (getCl (leafBox s k name j refused fits h tbl) r.cid) m).use = .reserved k name.toNat)
  ∧ (∀ (l : Launch) (b : Box) (axis mode rule tile d e g : Nat) (right : Bool), axis < b.axes.length → d = depthOf b.name → d < 58 →
    pathOf b.name % 2 ^ (58 - d) = 0 → mode < 4 → g = grainOf l axis → e = (axisOf b axis).ext.toNat → 0 < g → g < e →
    depthOf (childBox l b axis mode rule tile right).name = d + 1
    ∧ pathOf (childBox l b axis mode rule tile right).name = pathOf b.name + (if right then 2 ^ (57 - d) else 0)
    ∧ (childBox l b axis mode rule tile right).rule = rule ∧ (childBox l b axis mode rule tile right).tile = tile
    ∧ (axisOf (childBox l b axis mode rule tile false) axis).org = (axisOf b axis).org
    ∧ (axisOf (childBox l b axis mode rule tile false) axis).ext.toNat = (e + 2 * g - 1) / (2 * g) * g
    ∧ (axisOf (childBox l b axis mode rule tile true) axis).org
        = (axisOf b axis).org + BitVec.ofNat 32 ((e + 2 * g - 1) / (2 * g) * g)
    ∧ (axisOf (childBox l b axis mode rule tile true) axis).ext.toNat = e - (e + 2 * g - 1) / (2 * g) * g
    ∧ (∀ a, a ≠ axis → axisOf (childBox l b axis mode rule tile right) a = axisOf b a)
    ∧ modeAt (childBox l b axis mode rule tile right).modes d = mode
    ∧ (∀ d', d' < 64 → d' ≠ d → modeAt (childBox l b axis mode rule tile right).modes d' = modeAt b.modes d'))
  ∧ (∀ (s : State) (k : Nat) (name : Word) (axis mode lr rr join : Nat) (h : BitVec 32) (tbl : List Acq) (l : Launch) (r : BoxRec),
    launchAt s k = some l → getBox l name = some r → r.box.name = name → BoxesNamed l → pendingCount l r.cid ≤ 510 → joinCount l r.cid ≤ 255 →
    (∀ right, getBox l (childName name right) = none ∧ ∀ e ∈ l.boxes, parentName e.2.box.name ≠ childName name right) →
    depthOf name < 58 → pathOf name % 2 ^ (58 - depthOf name) = 0 →
    ∃ l' p c1 c2, launchAt (cutBox s k name axis mode lr rr join h tbl) k = some l'
      ∧ getBox l' name = some p ∧ p.phase = .split 2 ∧ p.join = join ∧ p.verdictBy = h ∧ p.box.smode = mode ∧ p.box.saxis = axis
      ∧ getBox l' (childName name false) = some c1 ∧ c1.parent = h
      ∧ c1.box = childBox l r.box axis mode lr (placeBox s l r.cid r.box.tile (childName name false)).2 false
      ∧ c1.cid = (placeBox s l r.cid r.box.tile (childName name false)).1
      ∧ getBox l' (childName name true) = some c2 ∧ c2.parent = h
      ∧ c2.box = childBox l r.box axis mode rr (placeBox s l r.cid r.box.tile (childName name true)).2 true
      ∧ c2.cid = (placeBox s l r.cid r.box.tile (childName name true)).1
      ∧ (mode = 2 → c2.phase = .heldRight))


/-! ## Loads, stores, cache control -/
namespace Sys2Proof.Say

/-- Byte `i` of a bank set (R95). -/
def setByte (x : BankSet) (i : Nat) : Byte := byteAt (look 0 x.data (i / 16)) (i % 16)
/-- The bytes a load gives, extended as SX says (R258). -/
def extended (sx : BitVec 1) (n : Nat) (b : List Byte) : Word :=
  if sx = 1#1 then (BitVec.ofNat (8 * n) (natOfBytes b)).signExtend 64 else BitVec.ofNat 64 (natOfBytes b)
/-- The atomics with a fetching and a posted form, with their number (R264). -/
def atomics : List ((FmtM → Instr) × Nat) :=
  [(.aadd, 0), (.amin, 1), (.amax, 2), (.aand, 3), (.aor, 4), (.axor, 5), (.axchg, 6), (.acas, 7)]
/-- The line an L1 holds for an address. -/
def l1Line (s : State) (a : Nat) : Option L1Line := (getCore s s.cur).l1.find? fun l => l.line = a / 128

end Sys2Proof.Say

/-- A ld completes with the bytes of its space at its effective address, extended as SX says: from the core store where `coreCheck`
passes, from the attached set where the checks of R100 pass, and from device memory as a weak read gives them (R255 to R258). The
two local forms change nothing but the register. A weak read that hits in the L1 gives the line's bytes, under the dirty ones those that
the task itself has held back for the line (R184), and moves the line to the front of its order of use, and changes nothing else (R119,
R257). Log entries 11 and 61 are the model's own readings in it. -/
def Obligations.Loads : Prop :=
  ((∀ (f : FmtM) (s : State) (o : Nat), ready (.ld f) s = true → (effAddr s f).2 = .core →
    coreCheck s (effAddr s f).1 (2 ^ f.sz.toNat) (2 ^ f.sz.toNat) = .ok o →
    ∃ t, exec (.ld f) s = .next t ∧ MemKept s t
      ∧ WroteScalar s t f.d (extended f.sx (2 ^ f.sz.toNat) ((List.range (2 ^ f.sz.toNat)).map fun i => storeByte (getCore s s.cur) (o + i))))
  ∧ (∀ (f : FmtM) (s : State) (cl n o : Nat), ready (.ld f) s = true → (effAddr s f).2 = .sp →
    spCheck s (effAddr s f).1 (2 ^ f.sz.toNat) (2 ^ f.sz.toNat) false = .ok (.set cl n o) →
    ∃ t, exec (.ld f) s = .next t ∧ MemKept s t
      ∧ WroteScalar s t f.d (extended f.sx (2 ^ f.sz.toNat) ((List.range (2 ^ f.sz.toNat)).map fun i => setByte (getSet (getCl s cl) n) (o + i))))
  ∧ (∀ (f : FmtM) (s s1 : State) (b : List Byte), ready (.ld f) s = true → (effAddr s f).2 = .dev → (effAddr s f).1.toNat < 2 ^ 49 →
    (effAddr s f).1.toNat % 2 ^ f.sz.toNat = 0 → devRead s (effAddr s f).1.toNat (2 ^ f.sz.toNat) = .ok (s1, b) →
    exec (.ld f) s = .next (goesOn (.ld f) s (writeS s1 f.d (loaded f (2 ^ f.sz.toNat) b)))))
  ∧ (∀ (s : State) (base a n lg : Nat) (x : Word) (l : L1Line), l1Line s a = some l → l.rd = true →
    weakRead s base a n lg x = .ok (modCore s s.cur fun k => { k with l1 := l :: k.l1.filter fun e => e.line ≠ a / 128 },
      (List.range n).map fun i => byteAt (heldOver s l) (a % 128 + i))
    ∧ ((∀ h ∈ (taskOf s).held, h.line ≠ l.line) → heldOver s l = l.data)
    ∧ ∀ i, i < 128 →
        ((l.dirty.getLsbD i = true ∨ ∀ h ∈ (taskOf s).held, h.line = l.line → h.mask.getLsbD i = false) →
          byteAt (heldOver s l) i = byteAt l.data i)
        ∧ ∀ h, (taskOf s).held = [h] → h.line = l.line → h.mask.getLsbD i = true → l.dirty.getLsbD i = false →
            byteAt (heldOver s l) i = byteAt h.data i)

/-- A st completes when its checks pass. In the core store and in an attached set it stores the low bytes of its register at its
effective address, little-endian, and every other byte of the store and of the set is as it was, all of device memory too; the
bytes of the task header, 336 to 383 of the task's frame, and TASKCTL of every frame keep what they hold (R8, R63, R64, R256, R258). A weak write that hits a writable
line of the L1 stays in the L1: the bytes written are dirty there, every other byte of the line and every other line of the L1 is
as it was, and nothing else changes, all of device memory among it, but that bytes held back for the task at the same places are
forgotten (R119, R184, R257). -/
def Obligations.Stores : Prop :=
  ((∀ (f : FmtM) (s : State) (o : Nat), ready (.st f) s = true → (effAddr s f).2 = .core →
    coreCheck s (effAddr s f).1 (2 ^ f.sz.toNat) (2 ^ f.sz.toNat) = .ok o →
    ∃ t, exec (.st f) s = .next t ∧ MemKept s t ∧ OnlyCore s t
      ∧ (∀ i, i < 2 ^ f.sz.toNat → readOnlyByte s.cur (some (taskOf s).wp) (o + i) = false →
          storeByte (getCore t s.cur) (o + i) = byteAt (readS s f.d) i)
      ∧ (∀ a, (a < o ∨ o + 2 ^ f.sz.toNat ≤ a ∨ readOnlyByte s.cur (some (taskOf s).wp) a = true) →
          storeByte (getCore t s.cur) a = storeByte (getCore s s.cur) a))
  ∧ (∀ (c a : Nat) (wp : Option Nat), a < storeSize c → (readOnlyByte c wp a = true ↔
      (∃ i, i < 8 ∧ frameBase c i + 352 ≤ a ∧ a < frameBase c i + 360) ∨ ∃ w, wp = some w ∧ w + 336 ≤ a ∧ a < w + 384))
  ∧ (∀ (f : FmtM) (s : State) (cl n o : Nat), ready (.st f) s = true → (effAddr s f).2 = .sp →
    spCheck s (effAddr s f).1 (2 ^ f.sz.toNat) (2 ^ f.sz.toNat) true = .ok (.set cl n o) →
    ∃ t, exec (.st f) s = .next t ∧ MemKept s t
      ∧ (∀ i, i < 2 ^ f.sz.toNat → setByte (getSet (getCl t cl) n) (o + i) = byteAt (readS s f.d) i)
      ∧ (∀ a, (a < o ∨ o + 2 ^ f.sz.toNat ≤ a) → setByte (getSet (getCl t cl) n) a = setByte (getSet (getCl s cl) n) a)
      ∧ (∀ m, m ≠ n → getSet (getCl t cl) m = getSet (getCl s cl) m) ∧ (∀ c, c ≠ cl → getCl t c = getCl s c)
      ∧ (getCore t s.cur).store = (getCore s s.cur).store)
  ∧ (∀ (f : FmtM) (s s1 : State), ready (.st f) s = true → (effAddr s f).2 = .dev → (effAddr s f).1.toNat < 2 ^ 49 →
    (effAddr s f).1.toNat % 2 ^ f.sz.toNat = 0 →
    devWrite s (effAddr s f).1.toNat (bytesOf (2 ^ f.sz.toNat) (readS s f.d)) = .ok s1 →
    exec (.st f) s = .next (goesOn (.st f) s s1)))
  ∧ (∀ (s : State) (a lg : Nat) (x : Word) (bs : List Byte) (l : L1Line), (getCore s s.cur).run = some (taskOf s) →
    l1Line s a = some l → l.wr = true → a % 128 + bs.length ≤ 128 →
    ∃ t l', weakWrite s a bs lg x = .ok t ∧ l1Line t a = some l' ∧ MemKept s t
      ∧ (∀ i, i < bs.length → byteAt l'.data (a % 128 + i) = bs.getD i 0 ∧ l'.dirty.getLsbD (a % 128 + i) = true)
      ∧ (∀ i, i < 128 → (i < a % 128 ∨ a % 128 + bs.length ≤ i) →
          byteAt l'.data i = byteAt l.data i ∧ l'.dirty.getLsbD i = l.dirty.getLsbD i)
      ∧ (∀ b, b / 128 ≠ a / 128 → l1Line t b = l1Line s b)
      ∧ t = setCore s s.cur { getCore s s.cur with
          l1 := (getCore t s.cur).l1
          run := some { taskOf s with held := (taskOf t).held } }
      ∧ ((taskOf s).held = [] → (taskOf t).held = [])
      ∧ ∀ h ∈ (taskOf t).held, h.line = a / 128 → ∀ i, i < bs.length → h.mask.getLsbD (a % 128 + i) = false)

/-- The checks of a core-store access in the order of R256: an offset or a range outside the store, or one that touches another frame's
registers, the vector registers of an X-core's frames among them, is RANGE; then a misaligned one is ALIGN. The checks of a scratchpad
access in the order of R100: an address with a bit of [63:32] or [27:19] set is RANGE; a handle that holds no set, or one that is
resident for another launch or still pending, is DETACHED; then BANK_PROT without the permission, RANGE past the set, ALIGN; what passes
reaches the handle's set. ld and st raise what their checks raise. Device accesses: with a bit of [63:49] set PAGE, of cause 0, with the kind of
the access and the logarithm of its size in AUX0 (R93); else, misaligned, ALIGN. -/
def Obligations.AccessChecks : Prop :=
  (∀ (s : State) (o : Word) (n al : Nat), (2 ^ 16 ≤ o.toNat ∨ storeSize s.cur < o.toNat + n) → coreCheck s o n al = raiseAt s 0x0011 o)
  ∧ (∀ (s : State) (o : Word) (n al i : Nat), i < 8 → frameBase s.cur i ≠ (taskOf s).wp →
    (o.toNat < frameBase s.cur i + 256 ∧ frameBase s.cur i < o.toNat + n) → coreCheck s o n al = raiseAt s 0x0011 o)
  ∧ (∀ (s : State) (o : Word) (n al : Nat), o.toNat + n ≤ generalTop s.cur →
    coreCheck s o n al = if o.toNat % al ≠ 0 then raiseAt s 0x0012 o else .ok o.toNat)
  ∧ (∀ (s : State) (o : Word) (n al i : Nat), classOf (idxOf s.cur) = .x → i < 8 → frameBase s.cur i ≠ (taskOf s).wp →
    (o.toNat < frameBase s.cur i + 2432 ∧ frameBase s.cur i + 384 < o.toNat + n) → coreCheck s o n al = raiseAt s 0x0011 o)
  ∧ (∀ (s : State) (a : Word), (a.extractLsb' 32 32 ≠ 0#32 ∨ a.extractLsb' 19 9 ≠ 0#9) → spHandle s a = raiseAt s 0x0011 a)
  ∧ (∀ (s : State) (a : Word) (h : Nat), a.extractLsb' 32 32 = 0#32 → a.extractLsb' 19 9 = 0#9 → h = (a.extractLsb' 28 4).toNat →
    ((bmV (entrySeen s s.cur h).1 = false ∨ (∃ k, (entrySeen s s.cur h).2 = some (.pending k))
        ∨ (∃ k, (entrySeen s s.cur h).2 = some (.resident k) ∧ (taskOf s).kind ≠ .system ∧ (taskOf s).slot ≠ some k)) →
      spHandle s a = raiseAt s 0x0010 a)
    ∧ (bmV (entrySeen s s.cur h).1 = true → ((entrySeen s s.cur h).2 = none ∨ (∃ t, (entrySeen s s.cur h).2 = some (.task t))
        ∨ (∃ k, (entrySeen s s.cur h).2 = some (.resident k) ∧ ((taskOf s).kind = .system ∨ (taskOf s).slot = some k))) →
      spHandle s a = .ok (h, (entrySeen s s.cur h).1)))
  ∧ (∀ (s : State) (a : Word) (n al h : Nat) (e : BitVec 32) (write : Bool),
    ((∀ i u, spHandle s a = .error (.trap i u) → spCheck s a n al write = .error (.trap i u)))
    ∧ (spHandle s a = .ok (h, e) →
      (e.getLsbD (if write then 29 else 30) = false → spCheck s a n al write = raiseAt s 0x0013 a)
      ∧ (e.getLsbD (if write then 29 else 30) = true → 278528 < (a.extractLsb' 0 19).toNat + n → spCheck s a n al write = raiseAt s 0x0011 a)
      ∧ (e.getLsbD (if write then 29 else 30) = true → (a.extractLsb' 0 19).toNat + n ≤ 278528 → (a.extractLsb' 0 19).toNat % al ≠ 0 →
          spCheck s a n al write = raiseAt s 0x0012 a)
      ∧ (e.getLsbD (if write then 29 else 30) = true → (a.extractLsb' 0 19).toNat + n ≤ 278528 → (a.extractLsb' 0 19).toNat % al = 0 →
          spCheck s a n al write = .ok (.set (s.cur / 16) (bmSet e) (a.extractLsb' 0 19).toNat))))
  ∧ (∀ (s : State) (f : FmtM) (code : Nat) (n : Nat), n = 2 ^ f.sz.toNat →
    (ready (.ld f) s = true → (effAddr s f).2 = .core → coreCheck s (effAddr s f).1 n n = raiseAt s code (effAddr s f).1 →
      exec (.ld f) s = .next (trapAt s { code := code, addr := (effAddr s f).1 }))
    ∧ (ready (.st f) s = true → (effAddr s f).2 = .core → coreCheck s (effAddr s f).1 n n = raiseAt s code (effAddr s f).1 →
      exec (.st f) s = .next (trapAt s { code := code, addr := (effAddr s f).1 }))
    ∧ (ready (.ld f) s = true → (effAddr s f).2 = .sp → spCheck s (effAddr s f).1 n n false = raiseAt s code (effAddr s f).1 →
      exec (.ld f) s = .next (trapAt s { code := code, addr := (effAddr s f).1 }))
    ∧ (ready (.st f) s = true → (effAddr s f).2 = .sp → spCheck s (effAddr s f).1 n n true = raiseAt s code (effAddr s f).1 →
      exec (.st f) s = .next (trapAt s { code := code, addr := (effAddr s f).1 })))
  ∧ (∀ (s : State) (f : FmtM) (i : Instr), i ∈ [Instr.ld f, Instr.st f] → ready i s = true → (effAddr s f).2 = .dev →
    (effAddr s f).1.toNat < 2 ^ 49 → (effAddr s f).1.toNat % 2 ^ f.sz.toNat ≠ 0 →
    exec i s = .next (trapAt s { code := 0x0012, addr := (effAddr s f).1 }))
  ∧ (∀ (s : State) (f : FmtM) (i : Instr), i ∈ [Instr.lds f, Instr.sts f] → ready i s = true →
    (devAddr s f).toNat < 2 ^ 49 → (devAddr s f).toNat % 2 ^ f.sz.toNat ≠ 0 →
    exec i s = .next (trapAt s { code := 0x0012, addr := devAddr s f }))
  ∧ (∀ (s : State) (f : FmtM),
    (ready (.ld f) s = true → (effAddr s f).2 = .dev → 2 ^ 49 ≤ (effAddr s f).1.toNat →
      exec (.ld f) s = .next (trapAt s { code := 0x0020, addr := (effAddr s f).1, aux0 := BitVec.ofNat 64 (256 * f.sz.toNat) }))
    ∧ (ready (.st f) s = true → (effAddr s f).2 = .dev → 2 ^ 49 ≤ (effAddr s f).1.toNat →
      exec (.st f) s = .next (trapAt s { code := 0x0020, addr := (effAddr s f).1, aux0 := BitVec.ofNat 64 (1 + 256 * f.sz.toNat) }))
    ∧ (ready (.lds f) s = true → 2 ^ 49 ≤ (devAddr s f).toNat →
      exec (.lds f) s = .next (trapAt s { code := 0x0020, addr := devAddr s f, aux0 := BitVec.ofNat 64 (256 * f.sz.toNat) }))
    ∧ (ready (.sts f) s = true → 2 ^ 49 ≤ (devAddr s f).toNat →
      exec (.sts f) s = .next (trapAt s { code := 0x0020, addr := devAddr s f, aux0 := BitVec.ofNat 64 (1 + 256 * f.sz.toNat) })))

/-- ldq reserves the tail entry of a load queue that has room, counting the entries reserved before it, and goes on; the entry is filled at
once where its bytes are there, after the entries before it, and else when the windows deliver the lines it waits for (`fillsGet`), the
bytes that the core's own earlier stores put over them included. stq takes the head of a store queue that holds one and stores it
(R113, R122, R257, R261). A ldq at a full queue, and a stq at an empty one, wait. gather reads the elements that its index list names, in
order, into its block; scatter stores the block's elements where the list says, in order (R260): with the block and the list as
`gatherList` finds them, and every access passing its checks. -/
def Obligations.QueuesGatherAndScatter : Prop :=
  ((∀ (f : FmtM) (s s1 : State) (ps : List Part1) (n q : Nat), ready (.ldq f) s = true → n = tileOfCore s.cur → q = f.d.toNat - 16 →
    ldqParts s (effAddr s f).1 (effAddr s f).2 = .ok (s1, ps) →
    (8 ≤ lqHeld (getTile s n) q → exec (.ldq f) s = .next s)
    ∧ (lqHeld (getTile s n) q < 8 →
      exec (.ldq f) s = .next (goesOn (.ldq f) s (modTile s1 n fun x => drainFills { x with fills := x.fills ++ [{ q := q, parts := ps }] }))
      ∧ ∃ t, exec (.ldq f) s = .next t ∧ lqHeld (getTile t n) q = lqHeld (getTile s1 n) q + 1
        ∧ ((∀ p ∈ ps, p.got.isSome = true) → (∀ e ∈ (getTile s1 n).fills, e.q ≠ q) →
            look [] (getTile t n).lq q = look [] (getTile s1 n).lq q
              ++ [ofBytes 1024 (ps.flatMap fun p => lineBytes (overlay (p.got.getD 0) p.mine p.mask) p.off p.n)])
        ∧ ((∃ p ∈ ps, p.got = none) → (∀ e ∈ (getTile s1 n).fills, e.q ≠ q) →
            look [] (getTile t n).lq q = look [] (getTile s1 n).lq q)))
  ∧ (∀ (f : FmtM) (s s1 : State) (b : List Byte), ready (.ldq f) s = true → (effAddr s f).2 ≠ .dev →
    spaceRead s (effAddr s f).1 (effAddr s f).2 128 = .ok (s1, b) → lqHeld (getTile s (tileOfCore s.cur)) (f.d.toNat - 16) < 8 →
    (∀ e ∈ (getTile s1 (tileOfCore s.cur)).fills, e.q ≠ f.d.toNat - 16) →
    ∃ t, exec (.ldq f) s = .next t ∧ look [] (getTile t (tileOfCore s.cur)).lq (f.d.toNat - 16)
        = look [] (getTile s1 (tileOfCore s.cur)).lq (f.d.toNat - 16) ++ [ofBytes 1024 b])
  ∧ (∀ (x : Tile) (q ln w : Nat) (d : Line) (p : Part1), x.fills = [{ q := q, parts := [p] }] → p.got = none →
    ((p.line = ln ∧ p.win = w) → (fillsGet x ln w d).fills = [] ∧ look [] (fillsGet x ln w d).lq q
        = look [] x.lq q ++ [ofBytes 1024 (lineBytes (overlay d p.mine p.mask) p.off p.n)])
    ∧ ((p.line ≠ ln ∨ p.win ≠ w) → fillsGet x ln w d = x))
  ∧ (∀ (f : FmtM) (s s1 s2 : State) (d : Line) (q : List Line), ready (.stq f) s = true →
    stqCheck s (effAddr s f).1 (effAddr s f).2 = .ok s1 →
    look [] (getTile s1 (tileOfCore s.cur)).sq (f.d.toNat - 20) = d :: q →
    spaceWrite s1 (effAddr s f).1 (effAddr s f).2 (bytesOf 128 d) = .ok s2 →
    ∃ t, exec (.stq f) s = .next t ∧ look [] (getTile t (tileOfCore s.cur)).sq (f.d.toNat - 20) = q
      ∧ t = goesOn (.stq f) s (modTile s2 (tileOfCore s.cur) fun x => { x with sq := qPut x.sq (f.d.toNat - 20) q }))
  ∧ (∀ (f : FmtM) (s s1 : State), ready (.stq f) s = true → stqCheck s (effAddr s f).1 (effAddr s f).2 = .ok s1 →
    look [] (getTile s1 (tileOfCore s.cur)).sq (f.d.toNat - 20) = [] → exec (.stq f) s = .next s1))
  ∧ ((∀ (f : FmtM) (s s1 : State) (blk : Nat) (idx : List Nat) (bs : List Byte), ready (.gather f) s = true →
    gatherList s f (128 / 2 ^ f.sz.toNat) = .ok (blk, idx) →
    idx.zipIdx.foldl (fun r q => do
      let (u, acc) ← r
      let (u, b) ← atElem q.2 (spaceRead u ((effAddr s f).1 + BitVec.ofNat 64 (q.1 * 2 ^ f.sz.toNat)) (effAddr s f).2 (2 ^ f.sz.toNat))
      return (u, acc ++ b)) (Except.ok (s, [])) = .ok (s1, bs) →
    exec (.gather f) s = .next (goesOn (.gather f) s (taskWrite s1 (.store s1.cur blk) bs)))
  ∧ (∀ (f : FmtM) (s s1 : State) (blk : Nat) (idx : List Nat), ready (.scatter f) s = true →
    gatherList s f (128 / 2 ^ f.sz.toNat) = .ok (blk, idx) →
    idx.zipIdx.foldl (fun r q => do
      let u ← r
      atElem q.2 (spaceWrite u ((effAddr s f).1 + BitVec.ofNat 64 (q.1 * 2 ^ f.sz.toNat)) (effAddr s f).2
        (storeBytes (getCore u u.cur) (blk + q.2 * 2 ^ f.sz.toNat) (2 ^ f.sz.toNat)))) (Except.ok s) = .ok s1 →
    exec (.scatter f) s = .next (goesOn (.scatter f) s s1))
  ∧ (∀ (s : State) (f : FmtM) (m blk : Nat) (idx : List Nat), gatherList s f m = .ok (blk, idx) →
    idx.length = m ∧ blk = (readS s f.d).toNat ∧ blk % 16 = 0
    ∧ ∀ i, i < m → idx.getD i 0 = natOfBytes ((List.range 4).map fun j => storeByte (getCore s s.cur) ((readS s f.b).toNat + 4 * i + j))))

namespace Sys2Proof.Say

/-- A task with nothing of its own under way in memory: no posted atomic, no byte held back, none that a window's reply goes before
(R122), no dirty byte in its core's L1. -/
def Quiet (s : State) : Prop :=
  (getCore s s.cur).run = some (taskOf s) ∧ (∀ q ∈ s.posted, isOwn s q = false) ∧ (taskOf s).held = [] ∧ lateOut s = false
    ∧ ∀ l ∈ (getCore s s.cur).l1, l.dirty = 0#128 ∧ l.stamps = []
/-- The home slice of an address. -/
def homeAt (s : State) (a : Nat) : Nat := homeOf s (myPart s) (a / 128)
/-- What a slice keeps of an address's line. -/
def keptAt (s : State) (a : Nat) : Option SLine := find (getSl s (homeAt s a)).lines (a / 128)

end Sys2Proof.Say

/-- pref changes no register and raises nothing, whether it hits or misses. flush writes the line's dirty bytes to its home slice, where
they stand over what it keeps, dirty, and keeps the line, clean; inval does so and drops the line; a fence is an acquire, a release that
it arms, or both, by its kind, and fence.sc writes every dirty byte back before either (R262, R263). A strong load reads at the home slice, after the core's own dirty bytes of the line have gone
there, and acquires as it says; a strong store writes at the home slice, after the release that it makes, and leaves as the line's
release record the entries of the release it carries, its own or one a fence has armed (R123, R187 to R189, R194, R259). Log entries 61
and 76 are the model's own readings in it. -/
def Obligations.CacheControlAndStrongAccesses : Prop :=
  ((∀ (f : FmtM) (s : State), ready (.pref f) s = true → ∃ t s1, exec (.pref f) s = .next t ∧ t = goesOn (.pref f) s s1
      ∧ (2 ^ 49 ≤ (devAddr s f).toNat → s1 = s)
      ∧ (Quiet s → (getCore s1 s.cur).store = (getCore s s.cur).store ∧ taskOf s1 = taskOf s ∧ s1.cur = s.cur
          ∧ (getCore t s.cur).store = (getCore s s.cur).store)
      ∧ (∀ l, l1Line s (devAddr s f).toNat = some l → l.rd = true → (devAddr s f).toNat < 2 ^ 49 → Quiet s → s1.mem = s.mem))
  ∧ (∀ (f : FmtM) (s s1 : State), ready (.flush f) s = true → flushOne s (devAddr s f) = .ok s1 →
    exec (.flush f) s = .next (goesOn (.flush f) s s1))
  ∧ (∀ (s s2 : State) (a : Word) (l : L1Line) (e : Nat) (d : SLine), (getCore s s.cur).run = some (taskOf s) → a.toNat < 2 ^ 49 →
    (taskOf s).held = [] → l1Line s a.toNat = some l → l.dirty ≠ 0#128 → l.stamps = [(l.dirty, e)] →
    windowOpen s (myPart s) (a.toNat / 128) = false → detectMine s e (a.toNat / 128) l.dirty true false = .ok s2 →
    l.hc = false → l.pa / 128 ≠ (partWord s (myPart s) 6).toNat / 128 → keptAt s a.toNat = some d →
    ∃ t, flushOne s a = .ok t ∧ l1Line t a.toNat = some { l with dirty := 0, stamps := [] }
      ∧ keptAt t a.toNat = some { d with data := overlay d.data l.data l.dirty, dirty := d.dirty ||| l.dirty })
  ∧ (∀ (f : FmtM) (s s1 : State), ready (.inval f) s = true → flushOne s (devAddr s f) = .ok s1 →
    ∃ t, exec (.inval f) s = .next t ∧ t = goesOn (.inval f) s (l1Drop s1 ((devAddr s f).toNat / 128))
      ∧ (∀ l ∈ (getCore t s1.cur).l1, l.line ≠ (devAddr s f).toNat / 128))
  ∧ (∀ (f : FmtM) (s s1 s2 : State), ready (.fence f) s = true → f.sz = 0#3 →
    acqFits (ownAll s) (taskOf (ownAll s)).det.seen (some (scopeOf f.sco)) = .ok () → acquire (ownAll s) (scopeOf f.sco) = .ok s1 →
    acquireFrom s1 (takeRel (taskOf s1).det.seen (slotOr s1) s1.cur (scopeOf f.sco)) = .ok s2 →
    exec (.fence f) s = .next (goesOn (.fence f) s (modTask s2 fun t => { t with det := { t.det with seen := [] } })))
  ∧ (∀ (f : FmtM) (s s1 : State), ready (.fence f) s = true → f.sz = 1#3 →
    release (ownAll s) (fenceScope (ownAll s) (scopeOf f.sco)) = .ok s1 →
    exec (.fence f) s = .next (goesOn (.fence f) s (armFence (bumpEpoch s1) (fenceScope (ownAll s) (scopeOf f.sco)))))
  ∧ (∀ (f : FmtM) (s s1 s2 s3 s4 : State), ready (.fence f) s = true → (f.sz = 2#3 ∨ f.sz = 3#3) →
    (f.sz = 3#3 → ∀ q ∈ s.posted, isOwn s q = false) →
    acqFits (ownAll s) (taskOf (ownAll s)).det.seen (some (scopeOf f.sco)) = .ok () →
    (if f.sz = 3#3 then wbAll (ownAll s) else .ok (ownAll s)) = .ok s1 → release s1 (fenceScope s1 (scopeOf f.sco)) = .ok s2 →
    acquire (armFence (bumpEpoch s2) (fenceScope s1 (scopeOf f.sco))) (scopeOf f.sco) = .ok s3 →
    acquireFrom s3 (takeRel (taskOf s3).det.seen (slotOr s3) s3.cur (scopeOf f.sco)) = .ok s4 →
    exec (.fence f) s = .next (goesOn (.fence f) s (modTask s4 fun t => { t with det := { t.det with seen := [] } })))
  ∧ (∀ (f : FmtM) (s u : State) (i : TrapInfo), ready (.fence f) s = true → f.sz = 3#3 → (∀ q ∈ s.posted, isOwn s q = false) →
    acqFits (ownAll s) (taskOf (ownAll s)).det.seen (some (scopeOf f.sco)) = .ok () → wbAll (ownAll s) = .error (.trap i u) →
    exec (.fence f) s = .next (trapAt u i))
  ∧ (∀ (f : FmtM) (s : State), ready (.fence f) s = true → f.sz = 3#3 → (∃ q ∈ s.posted, isOwn s q = true) →
    exec (.fence f) s = .next s))
  ∧ ((∀ (f : FmtM) (s s1 s2 s3 s4 : State) (x : Xl) (b : List Byte), ready (.lds f) s = true → (devAddr s f).toNat < 2 ^ 49 →
    (devAddr s f).toNat % 2 ^ f.sz.toNat = 0 → ownLine (ownPosted s ((devAddr s f).toNat / 128)) ((devAddr s f).toNat / 128) = .ok s1 →
    acqReady s1 (ordAcq f) = .ok s2 →
    strongAt s2 (devAddr s f).toNat (2 ^ f.sz.toNat) .read (taskOf s2).det.epoch = .ok (s3, x, b) →
    acqFits s2 (relOf s3 (myPart s3) ((devAddr s f).toNat / 128)) (ordAcq f) = .ok () →
    observe s3 (relOf s3 (myPart s3) ((devAddr s f).toNat / 128)) (ordAcq f) = .ok s4 →
    exec (.lds f) s = .next (goesOn (.lds f) s (writeS s4 f.d (loaded f (2 ^ f.sz.toNat) b))))
  ∧ (∀ (f : FmtM) (s s1 s2 s3 s4 s5 : State) (x : Xl) (b : List Byte) (v : Line) (m : Mask), ready (.sts f) s = true →
    (devAddr s f).toNat < 2 ^ 49 → (devAddr s f).toNat % 2 ^ f.sz.toNat = 0 →
    ownLine (ownPosted s ((devAddr s f).toNat / 128)) ((devAddr s f).toNat / 128) = .ok s1 → ownRelease s1 (ordRel f) = .ok s2 →
    (taskOf s2).det.acq.length ≤ 31 →
    strongAt s2 (devAddr s f).toNat (2 ^ f.sz.toNat) .write (taskOf s2).det.epoch = .ok (s3, x, b) →
    v = lineAt ((devAddr s f).toNat % 128) (bytesOf (2 ^ f.sz.toNat) (readS s3 f.d)) →
    m = maskRange ((devAddr s f).toNat % 128) (2 ^ f.sz.toNat) →
    s4 = sliceMerge s3 (myPart s3) (homeAt s3 (devAddr s f).toNat) ((devAddr s f).toNat / 128) x v m →
    s5 = (match carried (taskOf s2).det (ordRel f) with
      | some c => setRel s4 (myPart s3) ((devAddr s f).toNat / 128)
          (relEntries (slotOr s3) { id := (taskOf s2).det.id, op := 0 } c.2 (taskOf s2).det.acq c.1 s3.cur)
      | none => s4) →
    exec (.sts f) s = .next (goesOn (.sts f) s (usedArm (digestMine s5 ((devAddr s f).toNat / 128) v m) (ordRel f).isSome))))

/-- What an atomic makes of the old value, operand and compare value of w bits (R264). An atomic with destination 63 and no acquire is
posted, its own line written back and its release made, and the core goes on: its home slice translates and checks it (R265, R371). Any
other, its translation granted, is made at the home slice at once by `atomicNow`: its place in the line takes what the operation makes of
the bytes there, the line's record the release it carries, and its register those bytes, extended as SX says (R264, R265). aaddn is always
posted, with a release at dev scope, or at sys scope where a fence has armed one (R189), and a notification to the core that D names
(R266). `performPosted` makes a posted one in the same way, for aaddn with the parcel where the new value is the one it waits for. A write
at a slice stands in the line it keeps, dirty; for a line that is never kept, in memory (R121). A posted atomic that no earlier one
of its task comes before (on its line, or where it is a release; two aaddn come in either order, R318) and whose line has no window open
is performed at its home slice, and leaves the list of those in flight (R122, R182, R187, R265). -/
def Obligations.Atomics : Prop :=
  (∀ w old b c : Nat, old < 2 ^ w → b < 2 ^ w →
    atomicNew 0 w old b c = (old + b) % 2 ^ w
    ∧ atomicNew 1 w old b c = (if signed w b < signed w old then b else old)
    ∧ atomicNew 2 w old b c = (if signed w old < signed w b then b else old)
    ∧ atomicNew 3 w old b c = old &&& b ∧ atomicNew 4 w old b c = old ||| b ∧ atomicNew 5 w old b c = old ^^^ b
    ∧ atomicNew 6 w old b c = b ∧ atomicNew 7 w old b c = (if old = c then b else old) ∧ atomicNew 8 w old b c = (old + b) % 2 ^ w)
  ∧ (∀ row ∈ atomics, ∀ (f : FmtM) (s : State), ready (row.1 f) s = true → (getCore s s.cur).wait = none →
    (devAddr s f).toNat < 2 ^ 49 → (devAddr s f).toNat % 2 ^ f.sz.toNat = 0 →
    (∀ s1 s2, f.d = 63#6 → ordAcq f = none →
      ownLine (ownPosted s ((devAddr s f).toNat / 128)) ((devAddr s f).toNat / 128) = .ok s1 → ownRelease s1 (ordRel f) = .ok s2 →
      ∃ t p, exec (row.1 f) s = .next t ∧ t.posted = s2.posted ++ [p] ∧ p.op = row.2 ∧ p.sz = f.sz.toNat ∧ p.addr = (devAddr s f).toNat
        ∧ p.b = zext64 (readS s2 f.b) (8 * 2 ^ f.sz.toNat) ∧ p.core = s2.cur ∧ p.slot = slotOr s2 ∧ t.mem = s2.mem)
    ∧ (∀ s1 s2 s3 s4 s5 x, (f.d ≠ 63#6 ∨ ordAcq f ≠ none) →
      xlate s (myPart s) (homeOf s (myPart s) ((devAddr s f).toNat / 128)) (devAddr s f).toNat .atomic f.sz.toNat = .ok (s1, x) →
      ownLine (ownPosted s1 ((devAddr s f).toNat / 128)) ((devAddr s f).toNat / 128) = .ok s2 → ownRelease s2 (ordRel f) = .ok s3 →
      acqReady s3 (ordAcq f) = .ok s4 → isInval s4 row.2 f x = false →
      atomicNow s4 row.2 f (devAddr s f).toNat (2 ^ f.sz.toNat) (taskOf s4).det (carried (taskOf s4).det (ordRel f)) = .ok s5 →
      exec (row.1 f) s = .next (goesOn (row.1 f) s s5)))
  ∧ (∀ (s s1 s2 s3 s4 s5 : State) (op a n new : Nat) (f : FmtM) (d : Det) (rel : Option (Scope × Nat)) (x : Xl) (bs : List Byte) (r : List Rel),
    strongAt s a n .atomic d.epoch = .ok (s1, x, bs) → acqFits s (relOf s1 (myPart s1) (a / 128)) (ordAcq f) = .ok () →
    relMerged s1 (relOf s1 (myPart s1) (a / 128)) d rel = some r →
    new = atomicNew op (8 * n) (natOfBytes bs) ((readS s f.b).toNat % 2 ^ (8 * n)) ((readS s f.d).toNat % 2 ^ (8 * n)) →
    s2 = sliceMerge s1 (myPart s1) (homeAt s1 a) (a / 128) x (lineAt (a % 128) (bytesOfNat n new)) (maskRange (a % 128) n) →
    s3 = digestAtomic (setRel s2 (myPart s1) (a / 128) r) (slotOr s2) d.id op f.sz.toNat a (zext64 (readS s f.b) (8 * n))
      (if op = 7 then zext64 (readS s f.d) (8 * n) else 0) →
    s4 = usedArm (reportTail s3 (myPart s1) (homeOf s3 (myPart s1) (a / 128)) (a / 128) x.pa n) (ordRel f).isSome →
    observe s4 (relOf s1 (myPart s1) (a / 128)) (ordAcq f) = .ok s5 →
    atomicNow s op f a n d rel = .ok (writeS s5 f.d (loaded f n bs))
    ∧ loaded f n bs = (if f.sx = 1#1 then sext64 (wordOfBytes bs) (8 * n) else wordOfBytes bs))
  ∧ (∀ (s s1 : State) (a n stamp : Nat) (k : Acc) (x : Xl) (bs : List Byte), strongAt s a n k stamp = .ok (s1, x, bs) → s.bad = [] →
    x.hc = false → x.pa / 128 ≠ (partWord s (myPart s) 6).toNat / 128 →
    (∃ e, keptAt s1 a = some e ∧ bs = lineBytes e.data (a % 128) n) ∧ ∀ e, keptAt s a = some e → bs = lineBytes e.data (a % 128) n)
  ∧ (∀ (s : State) (p h ln : Nat) (x : Xl) (d : Line) (m : Mask),
    (∀ e, uncached s p x = false → find (getSl s h).lines ln = some e →
      find (getSl (sliceMerge s p h ln x d m) h).lines ln = some { e with data := overlay e.data d m, dirty := e.dirty ||| m }
      ∧ (∀ l, l ≠ ln → find (getSl (sliceMerge s p h ln x d m) h).lines l = find (getSl s h).lines l)
      ∧ MemKept s (sliceMerge s p h ln x d m))
    ∧ (uncached s p x = true → s.bad = [] → x.pa < 2 ^ 40 → ∀ a, memByte (sliceMerge s p h ln x d m) a =
        if a / 128 = x.pa / 128 ∧ m.getLsbD (a % 128) = true then byteAt d (a % 128) else memByte s a))
  ∧ (∀ (s s1 s2 s3 s4 : State) (q : Posted) (p ln h n new : Nat) (x : Xl) (d : Line) (r : List Rel), p = partOf s (cidOf q.core) →
    ln = q.addr / 128 → h = homeOf s p ln → n = 2 ^ q.sz → translate s p h q.addr .atomic = (s1, .ok x) →
    detect s1 q.slot q.acq { id := q.id, op := 0 } q.stamp ln (maskRange (q.addr % 128) n) true true = .ok s2 →
    (match q.rel with
      | some sc => mergeRel (relOf s2 p ln) (relEntries q.slot { id := q.id, op := 0 } q.epoch q.acq sc q.core)
      | none => some (relOf s2 p ln)) = some r →
    sliceLine s2 p h ln x false (postedConsumer q) = (s3, d) →
    new = atomicNew q.op (8 * n) (natOfBytes (lineBytes d (q.addr % 128) n)) (q.b.toNat % 2 ^ (8 * n)) (q.cmp.toNat % 2 ^ (8 * n)) →
    s4 = sliceMerge s3 p h ln x (lineAt (q.addr % 128) (bytesOfNat n new)) (maskRange (q.addr % 128) n) →
    performPosted s q = notify (reportTail (digestAtomic (setRel (seenBy s4 q.slot q.id (relOf s2 p ln)) p ln r) q.slot q.id q.op q.sz q.addr q.b
      (if q.op = 7 then q.cmp else 0)) p h ln x.pa n) q (BitVec.ofNat 64 new) (takeRel r q.slot q.core .dev))
  ∧ (∀ (s : State) (p h ln : Nat) (x : Xl) (e : SLine) (w : List Consumer), uncached s p x = false → find (getSl s h).lines ln = some e →
    (sliceLine s p h ln x false w).2 = e.data ∧ MemKept s (sliceLine s p h ln x false w).1
    ∧ find (getSl (sliceLine s p h ln x false w).1 h).lines ln = some e)
  ∧ (∀ (s : State) (q : Posted) (new : Word) (rel : List Acq) (dest : BitVec 15) (tag : BitVec 12) (cls : Nat), q.notify = some (dest, tag, cls) →
    (new ≠ q.cmp → notify s q new rel = s)
    ∧ (new = q.cmp → ∃ p, notify s q new rel = { s with net := s.net ++ [p] }
        ∧ p.hdr = mkHdr 0 tag dest.toNat cls (((launchAt s q.slot).map (·.tenant)).getD 0) 2 none q.slot ∧ p.payload = [BitVec.ofNat 64 q.addr, new] ∧ p.acq = rel))
  ∧ ((∀ (f : FmtE) (s s1 s2 : State), ready (.aaddn f) s = true → (readS s f.a).toNat < 2 ^ 49 → (readS s f.a).toNat % 8 = 0 →
    ownLine s ((readS s f.a).toNat / 128) = .ok s1 →
    release s1 (if (taskOf s1).det.arm.any (fun x => decide (x.1 = .sys)) then .sys else .dev) = .ok s2 →
    ∃ t p, exec (.aaddn f) s = .next t ∧ t.posted = s2.posted ++ [p] ∧ p.op = 8 ∧ p.sz = 3 ∧ p.addr = (readS s f.a).toNat
      ∧ p.b = readS s2 f.b ∧ p.cmp = readC s2 f ∧ p.notify = some ((readS s2 f.d).extractLsb' 0 15, f.tag, (taskOf s2).cls))
  ∧ (∀ (n : Nat) (s : State) (q : Posted), s.posted[n]? = some q → windowOpen s (partOf s (cidOf q.core)) (q.addr / 128) = false →
    (∀ e ∈ s.posted.take n, e.slot = q.slot → e.core = q.core →
      (match launchAt s q.slot with
        | some l => actor l e.id = actor l q.id
        | none => e.id = q.id) →
      ¬ (e.addr / 128 = q.addr / 128 ∨ q.rel.isSome = true) ∨ (e.notify.isSome = true ∧ q.notify.isSome = true)) →
    exec (.postedAtomic n) s = .next (settle (performPosted { s with posted := s.posted.eraseIdx n } q) q.slot)))


/-! ## Bank sets, tiles, semaphores, counters -/
namespace Sys2Proof.Say

/-- A parcel that a task puts in flight: last in the mesh, with the header and payload of its kind, from the task's core (R149, R274). -/
def Sent (s t : State) (kind : Nat) (tag : BitVec 12) (dest : Nat) (payload : List Word) : Prop :=
  ∃ p, t.net = s.net ++ [p] ∧ p.hdr = mkHdr kind tag dest (myClass s) (tenantOf s) payload.length none (mySlot s) ∧ p.payload = payload
    ∧ p.src = coreIdOf s.cur ∧ p.from_ = s.cur
/-- Bytes per row of a tile register in use (R115, R117). -/
def rowBytes (x : Tile) (k : Nat) : Nat := ceilDiv (shCols (shapeOf x k) * fmtWidth (shFmt (shapeOf x k))) 8

end Sys2Proof.Say

/-- give (R108, R267) makes its dev-scope release and waits for the drain; when no operation that its core issued and that names the set is left
unjoined, and no give of a lower core and no starting leaf goes first (R103, R110), `detach` takes the set from its handle and attaches
it, pending, at the lowest free handle of the target core, with a handler parcel that carries that handle, and control goes on; the
parcel's arrival is tried in the same step (R108). With no such handle the set stays where it was and GIVE_INVALID is raised. give.res
keeps the set resident for the launch, give.rel releases it (R106), bmapr reads an entry (R107, R268). An entry that an attachment or a
release changes in a cycle is seen in that cycle as it stood before (R110, `entrySeen`); where it holds no set then, or no more, a give raises
DETACHED. Log entries 58 and 72 are the model's own readings in it. -/
def Obligations.PassingSets : Prop :=
  (∀ (f : FmtE) (s s1 : State) (h : Nat) (e : BitVec 32), ready (.give f) s = true → giveHandle s f = .ok (h, e) → sendRelease s = .ok s1 →
    exec (.give f) s = .next (modCore s1 s1.cur fun k =>
      { k with wait := some (.giving h e f.core.toNat f.tag (sentAcq s1) f.stall.toNat) }))
  ∧ (∀ (c h target stall b : Nat) (e : BitVec 32) (tag : BitVec 12) (acq : List Acq) (s : State),
    (getCore s c).wait = some (.giving h e target tag acq stall) → drainBusy s c (bmSet e) = false → giveTurn s c target = true →
    leafFirst s (coreNo (cidOf c) target) = false →
    (target < 4 ∨ target = 8) → freeHandle (getCore (detachCore s c h) (coreNo (cidOf c) target)) = some b →
    ∃ u t, exec (.detach c) s = .next t ∧ exec (.handlerParcel s.net.length) u = .next t ∧ u.cur = s.cur ∧ (getCore u c).wait = none
      ∧ (c ≠ coreNo (cidOf c) target → bmV (bmapOf (getCore u c) h) = false)
      ∧ bmapOf (getCore u (coreNo (cidOf c) target)) b = bmEntry false 1 (bmSet e)
      ∧ find (getCore u (coreNo (cidOf c) target)).holders b = some (.pending (slotOr { s with cur := c }))
      ∧ (getSet (getCl u (cidOf c)) (bmSet e)).use = .attached (coreNo (cidOf c) target) b
      ∧ Sent { s with cur := c } u 0 tag (coreIdOf (coreNo (cidOf c) target)) [BitVec.ofNat 64 b])
  ∧ (∀ (c h target stall : Nat) (e : BitVec 32) (tag : BitVec 12) (acq : List Acq) (s : State),
    (getCore s c).wait = some (.giving h e target tag acq stall) →
    (drainBusy s c (bmSet e) = true ∨ giveTurn s c target = false ∨ leafFirst s (coreNo (cidOf c) target) = true) →
    exec (.detach c) s = .next s)
  ∧ (∀ (s : State) (c target i h stall t : Nat) (e : BitVec 32) (tag : BitVec 12) (acq : List Acq), i < idxOf c →
    (getCore s (coreNo (cidOf c) i)).wait = some (.giving h e t tag acq stall) → t = target →
    drainBusy s (coreNo (cidOf c) i) (bmSet e) = false → giveTurn s c target = false)
  ∧ (∀ (c h target stall : Nat) (e : BitVec 32) (tag : BitVec 12) (acq : List Acq) (s : State),
    (getCore s c).wait = some (.giving h e target tag acq stall) → drainBusy s c (bmSet e) = false → giveTurn s c target = true →
    leafFirst s (coreNo (cidOf c) target) = false → ((target < 4 ∨ target = 8) → freeHandle (getCore (detachCore s c h) (coreNo (cidOf c) target)) = none) →
    ∃ u, exec (.detach c) s = .next { trapAt u { code := 0x0014 } with cur := s.cur } ∧ u.cur = c ∧ bmapOf (getCore u c) h = e
      ∧ u.net = s.net ∧ u.mem = s.mem)
  ∧ (∀ (f : FmtE) (s : State) (h : Nat) (e : BitVec 32), ready (.giveRes f) s = true → giveHandle s f = .ok (h, e) →
    ∃ t, exec (.giveRes f) s = .next t ∧ MemKept s t ∧ find (getCore t s.cur).holders h = some (.resident (slotOr s))
      ∧ bmV (bmapOf (getCore t s.cur) h) = true ∧ bmRes (bmapOf (getCore t s.cur) h) = true ∧ bmSet (bmapOf (getCore t s.cur) h) = bmSet e)
  ∧ (∀ (f : FmtE) (s : State) (h : Nat) (e : BitVec 32), ready (.giveRel f) s = true → giveHandle s f = .ok (h, e) →
    ∃ t, exec (.giveRel f) s = .next t ∧ MemKept s t ∧ bmV (bmapOf (getCore t s.cur) h) = false)
  ∧ (∀ (s : State) (c h : Nat),
    ((∀ w ∈ (getCore s c).was, ¬ (w.h = h ∧ w.cycle = cycOf s c)) →
      entrySeen s c h = (bmapOf (getCore s c) h, find (getCore s c).holders h))
    ∧ (∀ w, (getCore s c).was = [w] → w.h = h → w.cycle = cycOf s c → entrySeen s c h = (w.entry, w.holder))
    ∧ (∀ e who n, entrySeen (attachSet s c h n e who) c h = entrySeen s c h) ∧ entrySeen (releaseHandle s c h) c h = entrySeen s c h)
  ∧ (∀ (s : State) (c n : Nat), drainBusy s c n = true ↔ ∃ o ∈ openOps s (cidOf c), o.core = c ∧ ∃ q ∈ o.sets, q.2 = n)
  ∧ (∀ (f : FmtE) (s : State), (bmV (entrySeen s s.cur f.hnd.toNat).1 = false
      ∨ bmapOf (getCore s s.cur) f.hnd.toNat ≠ (entrySeen s s.cur f.hnd.toNat).1) →
    (∀ i ∈ [Instr.give f, Instr.giveRes f, Instr.giveRel f], ready i s = true → exec i s = .next (trapAt s { code := 0x0010 })))
  ∧ (∀ (f : FmtS) (s : State), ready (.bmapr f) s = true →
    ∃ t, exec (.bmapr f) s = .next t ∧ MemKept s t ∧ WroteScalar s t f.d ((bmapRead s ((readS s f.a).extractLsb' 0 4).toNat).setWidth 64))

/-- The tile's own registers. tload fills the rows in use from the scratchpad, row i from the address given plus 16 × STRD × i, bits
beyond the row cleared; tstore writes the rows there, and its column form the columns; tshape writes the shape, with SHAPE_INVALID for one
that is none; tzero clears the register's data; each waits while a leaf reset is due or runs. A reset that waited for the passes of earlier
leaves begins once none runs or waits, clears the tile and runs for 64 cycles, and `leafResetEnd` ends it with the scale parcels that
waited; a scale parcel that comes applies at the end of its cycle, in order of arrival, or after a reset that runs (R115 to R118, R141,
R142, R269, R302). -/
def Obligations.TileRegisters : Prop :=
  (∀ (f : FmtM) (s : State) (ls : List Loc) (x : Tile) (n b : Nat), ready (.tload f) s = true → x = getTile s (tileOfCore s.cur) →
    resetWait x = false → n = shRows (shapeOf x f.d.toNat) → b = rowBytes x f.d.toNat → tilePlaces s f n b false = .ok ls →
    ∃ t, exec (.tload f) s = .next t ∧ MemKept s t
      ∧ (∀ i, i < n → rowOf (getTile t (tileOfCore s.cur)) f.d.toNat i = ofBytes 768 (locRead s (ls.getD i (.store 0 0)) b))
      ∧ (∀ r, (r < 64 * f.d.toNat ∨ 64 * f.d.toNat + n ≤ r) → look 0 (getTile t (tileOfCore s.cur)).rows r = look 0 x.rows r))
  ∧ (∀ (f : FmtM) (s : State) (ls : List Loc) (x : Tile), ready (.tstore f) s = true → x = getTile s (tileOfCore s.cur) → resetWait x = false →
    tilePlaces s f (shRows (shapeOf x f.d.toNat)) (rowBytes x f.d.toNat) true = .ok ls →
    exec (.tstore f) s = .next (goesOn (.tstore f) s (ls.zipIdx.foldl (fun u q =>
      taskWrite u q.1 (bytesOf (rowBytes x f.d.toNat) (rowOf x f.d.toNat q.2))) s)))
  ∧ (∀ (f : FmtM) (s : State) (ls : List Loc) (x : Tile) (n b w : Nat), ready (.tstoreCol f) s = true → x = getTile s (tileOfCore s.cur) →
    resetWait x = false → n = shRows (shapeOf x f.d.toNat) → w = fmtWidth (shFmt (shapeOf x f.d.toNat)) → b = ceilDiv (n * w) 8 →
    tilePlaces s f (shCols (shapeOf x f.d.toNat)) b true = .ok ls →
    exec (.tstoreCol f) s = .next (goesOn (.tstoreCol f) s (ls.zipIdx.foldl (fun u q =>
      taskWrite u q.1 (bytesOfNat b (joinLanes w ((List.range n).map fun r => elemOf x f.d.toNat w r q.2)))) s)))
  ∧ (∀ (s : State) (f : FmtM) (n b : Nat) (write : Bool) (ls : List Loc), tilePlaces s f n b write = .ok ls →
    ls.length = n ∧ ∀ i, i < n →
      spCheck s ((effAddr s f).1 + BitVec.ofNat 64 (16 * (f.ord.toNat * 64 + f.sco.toNat * 16 + f.sz.toNat * 2 + f.sx.toNat) * i)) b 16 write
        = .ok (ls.getD i (.store 0 0)))
  ∧ (∀ (f : FmtX) (s : State) (v : BitVec 32), ready (.tshape f) s = true → resetWait (getTile s (tileOfCore s.cur)) = false →
    v = (readS s f.a).extractLsb' 0 32 →
    ((1 ≤ shRows v ∧ shRows v ≤ 64 ∧ 1 ≤ shCols v ∧ shFmt v ≤ 12 ∧ shCols v * fmtWidth (shFmt v) ≤ 768) →
      ∃ t, exec (.tshape f) s = .next t ∧ MemKept s t ∧ shapeOf (getTile t (tileOfCore s.cur)) f.ta.toNat = v &&& 0x00FFFF0F#32
        ∧ (∀ k, k ≠ f.ta.toNat → shapeOf (getTile t (tileOfCore s.cur)) k = shapeOf (getTile s (tileOfCore s.cur)) k)
        ∧ (getTile t (tileOfCore s.cur)).rows = (getTile s (tileOfCore s.cur)).rows)
    ∧ (¬ (1 ≤ shRows v ∧ shRows v ≤ 64 ∧ 1 ≤ shCols v ∧ shFmt v ≤ 12 ∧ shCols v * fmtWidth (shFmt v) ≤ 768) →
      exec (.tshape f) s = .next (trapAt s { code := 0x0015 })))
  ∧ (∀ (f : FmtX) (s : State), ready (.tzero f) s = true → resetWait (getTile s (tileOfCore s.cur)) = false →
    ∃ t, exec (.tzero f) s = .next t ∧ MemKept s t ∧ (∀ r, r < 64 → rowOf (getTile t (tileOfCore s.cur)) f.ta.toNat r = 0)
      ∧ (∀ k r, r < 64 → k ≠ f.ta.toNat → rowOf (getTile t (tileOfCore s.cur)) k r = rowOf (getTile s (tileOfCore s.cur)) k r)
      ∧ (getTile t (tileOfCore s.cur)).shapes = (getTile s (tileOfCore s.cur)).shapes)
  ∧ (∀ (n e : Nat) (s : State), (getTile s n).resetEnd = some e → e ≤ cycOfCl s (n / 4) →
    exec (.leafResetEnd n) s = .next (setTile s n
      ((getTile s n).scaleWait.foldl applyScale { getTile s n with resetEnd := none, scaleWait := [] })))
  ∧ (∀ (n : Nat) (s : State), (getTile s n).resetDue = true →
    ((getTile s n).running = [] → (getTile s n).waiting = none → resetBegins s n = setTile s n { getTile s n with
      rows := [], shapes := [], entries := [], sides := [], acc := [], sems := [], resetDue := false, resetEnd := some (cycOfCl s (n / 4) + 64) })
    ∧ (((getTile s n).running ≠ [] ∨ (getTile s n).waiting ≠ none) → resetBegins s n = s))
  ∧ (∀ (n : Nat) (s : State),
    ((getTile s n).resetEnd = none → (getTile s n).scaleWait ≠ [] →
      scalesApply s n = setTile s n ((getTile s n).scaleWait.foldl applyScale { getTile s n with scaleWait := [] }))
    ∧ (((getTile s n).resetEnd ≠ none ∨ (getTile s n).scaleWait = []) → scalesApply s n = s)
    ∧ tileCycle s n = passStart (passDeliver (resetEnds (resetBegins
        (scalesApply (modTile s n (fillPushes (cycOfCl s (n / 4)))) n) n) n) n) n)
  ∧ (∀ (f : FmtX) (s : State) (i : Instr), i ∈ [Instr.tshape f, .tzero f, .mma f, .acczero f, .accrd f, .accwr f, .accepi f, .sclwait f] →
    ready i s = true → resetWait (getTile s (tileOfCore s.cur)) = true → exec i s = .next s)
  ∧ (∀ (f : FmtM) (s : State) (i : Instr), i ∈ [Instr.tload f, .tstore f, .tstoreCol f] →
    ready i s = true → resetWait (getTile s (tileOfCore s.cur)) = true → exec i s = .next s)

/-- A semaphore of the tile rises by one with sems, and at 255 stays and sets SAT; it falls by one with semw, which waits at zero, and lets the
other core of the tile go first where that has a sems of a full semaphore or, for an X-core, a semw of the last count, to issue in the same
cycle (`semLater`); an X-core's sems waits for its passes to deliver (R270). qstat writes its selected counts, and nothing else changes (R271). ctrwait
completes when the counter's value is no less than its operand, with a dev-scope acquire of what the increments within that value
carried, and waits while it is less; ctrtrig arms a trigger, at once fired where the value is reached already, TAG_DENIED for a
tag of another tenant and, after that, TRIG_FULL beyond eight; arrive releases, then adds to the counter, where that is no read-only
word of the store (R8, R64), enters the increment in the hidden
list and fires the triggers that are reached (R164, R168, R190, R191, R272, R273). Log entries 30 and 112 are the model's own readings in it. -/
def Obligations.SemaphoresAndCounters : Prop :=
  ((∀ (f : FmtE) (s : State) (x : Tile) (n : BitVec 8), ready (.sems f) s = true → x = getTile s (tileOfCore s.cur) → n = look 0 x.sems f.hnd.toNat →
    (classOf (idxOf s.cur) = .x → x.waiting = none ∧ x.running = []) →
    (n ≠ 255#8 → ∃ t, exec (.sems f) s = .next t ∧ MemKept s t
      ∧ look 0 (getTile t (tileOfCore s.cur)).sems f.hnd.toNat = n + 1
      ∧ (∀ k, k ≠ f.hnd.toNat → look 0 (getTile t (tileOfCore s.cur)).sems k = look 0 x.sems k)
      ∧ taskOf t = { taskOf s with ctx := advance (ctxOf s) .seq })
    ∧ (n = 255#8 → ∃ t, exec (.sems f) s = .next t ∧ MemKept s t
      ∧ WentOn s t (advance { ctxOf s with status := (ctxOf s).status ||| 0x200#64 } .seq)))
  ∧ (∀ (f : FmtE) (s : State), ready (.sems f) s = true → classOf (idxOf s.cur) = .x →
    ((getTile s (tileOfCore s.cur)).waiting.isSome ∨ (getTile s (tileOfCore s.cur)).running ≠ []) → exec (.sems f) s = .next s)
  ∧ (∀ (f : FmtE) (s : State) (x : Tile) (n : BitVec 8), ready (.semw f) s = true → x = getTile s (tileOfCore s.cur) → n = look 0 x.sems f.hnd.toNat →
    (n ≠ 0#8 → semLater s n.toNat f.hnd = false → ∃ t, exec (.semw f) s = .next t ∧ MemKept s t
      ∧ look 0 (getTile t (tileOfCore s.cur)).sems f.hnd.toNat = n - 1
      ∧ (∀ k, k ≠ f.hnd.toNat → look 0 (getTile t (tileOfCore s.cur)).sems k = look 0 x.sems k)
      ∧ taskOf t = { taskOf s with ctx := advance (ctxOf s) .seq })
    ∧ ((n = 0#8 ∨ semLater s n.toNat f.hnd = true) → exec (.semw f) s = .next s)
    ∧ (n ≠ 255#8 → (n ≠ 1#8 ∨ classOf (idxOf s.cur) ≠ .x) → semLater s n.toNat f.hnd = false))
  ∧ (∀ (f : FmtE) (s : State), ready (.qstat f) s = true →
    ∃ t v, exec (.qstat f) s = .next t ∧ MemKept s t ∧ WroteScalar s t f.d v
      ∧ (f.sub = 0#4 → classOf (idxOf s.cur) ≠ .c → ∀ i, i < 4 →
          lane 8 i v = lqHeld (getTile s (tileOfCore s.cur)) i % 256
          ∧ lane 8 (4 + i) v = (look [] (getTile s (tileOfCore s.cur)).sq i).length % 256)
      ∧ (f.sub = 1#4 → classOf (idxOf s.cur) = .x → ∀ i, i < 8 →
          lane 8 i v = (look [] (getTile s (tileOfCore s.cur)).chans i).length % 256)
      ∧ (f.sub = 3#4 → classOf (idxOf s.cur) ≠ .c → ∀ i, i < 8 →
          lane 8 i v = (look 0#8 (getTile s (tileOfCore s.cur)).sems i).toNat)
      ∧ (f.sub = 2#4 → v.extractLsb' 0 16 = (getCore s s.cur).discards)
      ∧ (f.sub = 4#4 → (getCl s (cidOf s.cur)).overflow.length < 2 ^ 16 → (getCore s s.cur).recvs.length < 2 ^ 8 →
          lane 16 0 v = (getCl s (cidOf s.cur)).overflow.length ∧ lane 8 2 v = (getCore s s.cur).recvs.length
          ∧ lane 8 3 v = (getCore s s.cur).trigs.length % 256)))
  ∧ ((∀ (f : FmtE) (s s1 s2 : State) (l : Loc), ready (.ctrwait f) s = true → refCheck s (readS s f.a) 8 8 false = .ok l →
    (readC s f).toNat ≤ (ctrValue s l).toNat → acquire s .dev = .ok s1 → acquireFrom s1 (observed s1 l (ctrValue s l)) = .ok s2 →
    exec (.ctrwait f) s = .next (goesOn (.ctrwait f) s s2))
  ∧ (∀ (f : FmtE) (s : State) (l : Loc), ready (.ctrwait f) s = true → refCheck s (readS s f.a) 8 8 false = .ok l →
    (ctrValue s l).toNat < (readC s f).toNat → exec (.ctrwait f) s = .next s)
  ∧ (∀ (f : FmtE) (s : State) (i : Instr), i ∈ [Instr.ctrwait f, Instr.ctrtrig f, Instr.arrive f] → ready i s = true →
    ((readS s f.a).toNat / 2 ^ 32 % 2 ^ 31 ≠ 0) → exec i s = .next (trapAt s { code := 0x0011, addr := readS s f.a }))
  ∧ (∀ (f : FmtE) (s : State) (l : Loc), ready (.ctrtrig f) s = true → refCheck s (readS s f.a) 8 8 false = .ok l →
    (tagTenant (tagOf (getCore s s.cur) (f.tag.toNat % 256)) ≠ tenantOf s → exec (.ctrtrig f) s = .next (trapAt s { code := 0x0037 }))
    ∧ (tagTenant (tagOf (getCore s s.cur) (f.tag.toNat % 256)) = tenantOf s → 8 ≤ (getCore s s.cur).trigs.length →
        exec (.ctrtrig f) s = .next (trapAt s { code := 0x0036 }))
    ∧ (tagTenant (tagOf (getCore s s.cur) (f.tag.toNat % 256)) = tenantOf s → (getCore s s.cur).trigs.length < 8 →
        exec (.ctrtrig f) s = .next (goesOn (.ctrtrig f) s (fireTrigs (modCore s s.cur fun k => { k with trigs := k.trigs ++
          [{ slot := slotOr s, ctr := readS s f.a, val := readC s f, tag := f.tag, set := refSet s (readS s f.a),
             parent := (taskOf s).handle, acq := (taskOf s).det.acq }] }) s.cur))))
  ∧ (∀ (f : FmtE) (s s1 : State) (l : Loc), ready (.arrive f) s = true → refCheck s (readS s f.a) 8 8 true = .ok l → sendRelease s = .ok s1 →
    exec (.arrive f) s = .next (goesOn (.arrive f) s
      (bumpMine s1 l (readC s f) { id := (taskOf s1).det.id, op := 0 } (taskOf s1).det.epoch)))
  ∧ (∀ (s : State) (l : Loc) (v : Word) (who : Party) (n : Nat), bumpMine s l v who n = bumpCounterOf s (some (taskOf s).wp) l v who n
    ∧ bumpCounter s l v who n = bumpCounterOf s none l v who n)
  ∧ (∀ (s t : State) (wp : Option Nat) (c o n : Nat) (v : Word) (who : Party), (getCore s c).trigs = [] → o % 8 = 0 →
    t = bumpCounterOf s wp (.store c o) v who n →
    ((∀ i, i < 8 → readOnlyByte c wp (o + i) = false) → ctrValue t (.store c o) = ctrValue s (.store c o) + v)
    ∧ ((∀ i, i < 8 → readOnlyByte c wp (o + i) = true) → ctrValue t (.store c o) = ctrValue s (.store c o))
    ∧ incsOf t (.store c o) = ({ who := who, n := n, at_ := ctrValue s (.store c o) + v } :: incsOf s (.store c o)).take 4
    ∧ (∀ a, (a < o ∨ o + 8 ≤ a) → storeByte (getCore t c) a = storeByte (getCore s c) a))
  ∧ (∀ (s : State) (c : Nat) (g : Trig), (getCore s c).trigs = [g] → (ctrValue s (trigLoc c g)).toNat < g.val.toNat → fireTrigs s c = s)
  ∧ (∀ (s : State) (c : Nat) (g : Trig), (getCore s c).trigs = [g] → g.val.toNat ≤ (ctrValue s (trigLoc c g)).toNat →
    (getCore (fireTrigs s c) c).trigs = []
    ∧ (tagEN (tagOf (getCore s c) (g.tag.toNat % 256)) = true → (getCore s c).inbox = [] →
        ((getCore s c).runq.length < 32 →
          (getCore (fireTrigs s c) c).runq.length = (getCore s c).runq.length + 1 ∧ (getCore (fireTrigs s c) c).inbox = [])
        ∧ (32 ≤ (getCore s c).runq.length →
          (getCore (fireTrigs s c) c).runq = (getCore s c).runq ∧ (getCore (fireTrigs s c) c).inbox.length = 1))
    ∧ (tagEN (tagOf (getCore s c) (g.tag.toNat % 256)) = false → bit (tagOf (getCore (fireTrigs s c) c) (g.tag.toNat % 256)) 62 = true)))


/-! ## Parcels, tags, groups -/

/-- send, sendc, sendt and reply make a dev-scope release and put one parcel in flight: its kind, its tag, its destination (of D, or of the
task that sent the handler its parcel), and LEN payload words from s16 up. LEN above 15, and a reply of a task that no parcel started, raise
PARCEL_INVALID and send nothing. A system task's system parcel has kind 3 and 0xE in its tag. The fields of a header as it is built read
back as they were given (R149, R274, R329). -/
def Obligations.Sending : Prop :=
  (∀ (f : FmtE) (s s1 : State), (readC s f).toNat ≤ 15 → sendRelease s = .ok s1 →
    (ready (.send f) s = true → (bit f.sub 3 && (taskOf s1).kind = .system) = false →
      ∃ t, exec (.send f) s = .next t ∧ Sent s1 t 0 f.tag ((readS s1 f.d).extractLsb' 0 15).toNat
        ((List.range (readC s f).toNat).map fun i => readS s1 (BitVec.ofNat 6 (16 + i))) ∧ MemKept s1 t)
    ∧ (ready (.send f) s = true → bit f.sub 3 = true → (taskOf s1).kind = .system →
      ∃ t, exec (.send f) s = .next t ∧ Sent s1 t 3 (f.tag &&& 0xFF0#12 ||| 0x00E#12) ((readS s1 f.d).extractLsb' 0 15).toNat
        ((List.range (readC s f).toNat).map fun i => readS s1 (BitVec.ofNat 6 (16 + i))))
    ∧ (ready (.sendc f) s = true →
      ∃ t, exec (.sendc f) s = .next t ∧ Sent s1 t 1 0#12 ((readS s1 f.d).extractLsb' 0 15).toNat
        ((List.range (readC s f).toNat).map fun i => readS s1 (BitVec.ofNat 6 (16 + i))) ∧ MemKept s1 t)
    ∧ (ready (.sendt f) s = true →
      ∃ t, exec (.sendt f) s = .next t ∧ Sent s1 t 2 f.tag ((readS s1 f.d).extractLsb' 0 15).toNat
        ((List.range (readC s f).toNat).map fun i => readS s1 (BitVec.ofNat 6 (16 + i))) ∧ MemKept s1 t)
    ∧ (ready (.reply f) s = true → ((taskOf s).kind = .handler ∨ (taskOf s).kind = .carried) →
      ∃ t, exec (.reply f) s = .next t ∧ Sent s1 t 2 f.tag (destOfHandle (taskOf s1).parent)
        ((List.range (readC s f).toNat).map fun i => readS s1 (BitVec.ofNat 6 (16 + i))) ∧ MemKept s1 t))
  ∧ (∀ (f : FmtE) (s : State) (i : Instr), i ∈ [Instr.send f, .sendc f, .sendt f, .reply f] → ready i s = true → 15 < (readC s f).toNat →
    exec i s = .next (trapAt s { code := 0x0034 }))
  ∧ (∀ (f : FmtE) (s : State), ready (.reply f) s = true → (taskOf s).kind ≠ .handler → (taskOf s).kind ≠ .carried →
    exec (.reply f) s = .next (trapAt s { code := 0x0034 }))
  ∧ (∀ (kind dest cls tenant len slot : Nat) (tag : BitVec 12) (g : Option (Nat × Nat)),
    kind < 4 → dest < 2 ^ 15 → cls < 4 → tenant < 64 → len < 16 → (∀ x ∈ g, x.1 < 256 ∧ x.2 < 4) →
    hKind (mkHdr kind tag dest cls tenant len g slot) = kind ∧ hTag (mkHdr kind tag dest cls tenant len g slot) = tag
    ∧ hY (mkHdr kind tag dest cls tenant len g slot) = dest / 2 ^ 10 ∧ hX (mkHdr kind tag dest cls tenant len g slot) = dest / 2 ^ 5 % 2 ^ 5
    ∧ hCore (mkHdr kind tag dest cls tenant len g slot) = dest % 2 ^ 4 ∧ hClass (mkHdr kind tag dest cls tenant len g slot) = cls
    ∧ hTenant (mkHdr kind tag dest cls tenant len g slot) = tenant ∧ hLen (mkHdr kind tag dest cls tenant len g slot) = len
    ∧ hGrp (mkHdr kind tag dest cls tenant len g slot) = g.isSome ∧ hSlot (mkHdr kind tag dest cls tenant len g slot) = slot % 2 ^ 10
    ∧ (∀ x ∈ g, hGroup (mkHdr kind tag dest cls tenant len g slot) = x.1 ∧ hGen (mkHdr kind tag dest cls tenant len g slot) = x.2))

namespace Sys2Proof.Say

/-- Two places of given lengths have no byte in common. -/
def Apart (l : Loc) (n : Nat) (l' : Loc) (n' : Nat) : Prop :=
  match l, l' with
  | .store c o, .store c' o' => c ≠ c' ∨ o + n ≤ o' ∨ o' + n' ≤ o
  | .set k m o, .set k' m' o' => k ≠ k' ∨ m ≠ m' ∨ o + n ≤ o' ∨ o' + n' ≤ o
  | _, _ => True
/-- A place that holds no read-only byte: none of a TASKCTL, and none of the header of the frame at `wp` (R8, R63, R64). -/
def Takes (wp : Option Nat) (l : Loc) (n : Nat) : Prop :=
  match l with
  | .store c o => ∀ a, o ≤ a → a < o + n → readOnlyByte c wp a = false
  | .set _ _ _ => True

end Sys2Proof.Say

/-- recvp takes the oldest parcel of its core, tag and source from the overflow queue into its buffer, counting it, or posts a receive, of
which a core holds sixteen; recvx takes one from the queue into registers, with a dev-scope acquire, or waits (R157 to R159, R275, R276).
A parcel that a receive takes (`deliver`) stands in its buffer, the header and then the payload words, little-endian; its counter, where no
trigger waits on it and it lies apart from the buffer, and neither holds a read-only byte, rises by one, with the sender's increment in its hidden list; and every other place
is as it was. A payload word stands where D of recvx names its register too (log entry 91). -/
def Obligations.Receiving : Prop :=
  (∀ (f : FmtE) (s : State) (lb lc : Loc) (r : Recv), ready (.recvp f) s = true → refCheck s (readS s f.a) 128 16 true = .ok lb →
    refCheck s (readS s f.c) 8 8 true = .ok lc →
    r = { slot := slotOr s, tag := f.tag,
          src := if f.sub.getLsbD 0 then none else some ((readS s f.b).extractLsb' 0 15 &&& 0x7FEF#15),
          buf := readS s f.a, ctr := readS s f.c, set := refSet s (readS s f.a), ctrSet := refSet s (readS s f.c) } →
    (∀ i p, (getCl s (cidOf s.cur)).overflow[i]? = some p → addressed s.cur f.tag p = true → admits r p = true →
      (∀ q ∈ (getCl s (cidOf s.cur)).overflow.take i, (addressed s.cur f.tag q && admits r q) = false) →
      exec (.recvp f) s = .next (goesOn (.recvp f) s (deliver (takeOverflow s (cidOf s.cur) i) s.cur r p)))
    ∧ ((∀ q ∈ (getCl s (cidOf s.cur)).overflow, (addressed s.cur f.tag q && admits r q) = false) → (getCore s s.cur).recvs.length < 16 →
      ∃ t, exec (.recvp f) s = .next t ∧ MemKept s t ∧ (getCore t s.cur).recvs = (getCore s s.cur).recvs ++ [r]
        ∧ OnlyCore s (modCore t s.cur fun k => { k with recvs := (getCore s s.cur).recvs })
        ∧ taskOf t = { taskOf s with ctx := advance (ctxOf s) .seq })
    ∧ ((∀ q ∈ (getCl s (cidOf s.cur)).overflow, (addressed s.cur f.tag q && admits r q) = false) → 16 ≤ (getCore s s.cur).recvs.length →
      exec (.recvp f) s = .next (trapAt s { code := 0x0035 })))
  ∧ (∀ (f : FmtE) (s s1 s2 : State) (i : Nat) (p : Parcel), ready (.recvx f) s = true → (getCore s s.cur).wait = none →
    (getCl s (cidOf s.cur)).overflow[i]? = some p → addressed s.cur f.tag p = true →
    (∀ q ∈ (getCl s (cidOf s.cur)).overflow.take i, addressed s.cur f.tag q = false) →
    acquire (modCore s s.cur fun k => { k with wait := none }) .dev = .ok s1 → acquireFrom s1 p.acq = .ok s2 →
    exec (.recvx f) s = .next (goesOn (.recvx f) s (recvRegs (takeOverflow s2 (cidOf s.cur) i) f.d p)))
  ∧ (∀ (f : FmtE) (s : State), ready (.recvx f) s = true → (getCore s s.cur).wait = none →
    (∀ q ∈ (getCl s (cidOf s.cur)).overflow, addressed s.cur f.tag q = false) →
    exec (.recvx f) s = .next (modCore (modCore s s.cur fun k => { k with wait := none }) s.cur fun k => { k with wait := some (.recv f.tag none) }))
  ∧ (∀ (f : FmtE) (s s1 s2 : State) (p : Parcel), ready (.recvx f) s = true → (getCore s s.cur).wait = some (.recv f.tag (some p)) →
    addressed s.cur f.tag p = true →
    acquire (modCl (modCore s s.cur fun k => { k with wait := none }) (cidOf s.cur) fun k => { k with overflow := p :: k.overflow }) .dev = .ok s1 →
    acquireFrom s1 p.acq = .ok s2 →
    exec (.recvx f) s = .next (goesOn (.recvx f) s (recvRegs (takeOverflow s2 (cidOf s.cur) 0) f.d p)))
  ∧ (∀ (s : State) (d : BitVec 6) (p : Parcel), p.payload.length ≤ 15 →
    (∀ i, i < p.payload.length → scalarOf (recvRegs s d p) (BitVec.ofNat 6 (16 + i)) = p.payload.getD i 0)
    ∧ (d.toNat < 32 → (d.toNat < 16 ∨ 16 + p.payload.length ≤ d.toNat) → scalarOf (recvRegs s d p) d = p.hdr))
  ∧ (∀ (s t : State) (c n : Nat) (r : Recv) (p : Parcel) (lb lc : Loc), t = deliver s c r p → lb = recvLoc c r.set r.buf →
    lc = recvLoc c r.ctrSet r.ctr → n = 8 * (p.payload.length + 1) → (∀ d ∈ ctrCores lc, (getCore s d).trigs = []) → Apart lb n lc 8 →
    Takes none lb n → Takes none lc 8 → locRead t lb n = wordsBytes (p.hdr :: p.payload)
    ∧ ctrValue t lc = ctrValue s lc + 1
    ∧ incsOf t lc = ({ who := (senderOf p).1, n := (senderOf p).2, at_ := ctrValue s lc + 1 } :: incsOf s lc).take 4
    ∧ (∀ l m, Apart l m lb n → Apart l m lc 8 → locRead t l m = locRead s l m)
    ∧ MemKept s t)

/-- tagset writes EN and the software pend of an entry of its tenant and keeps every other field; set with pend, an enabled entry starts its
handler at once, after the parcels that the inbox holds for enabled tags, which go to the run queue in arrival order; another tenant's entry raises TAG_DENIED. tagr
reads the entry, zero for another tenant's (R153, R277). -/
def Obligations.TagTable : Prop :=
  (∀ (f : FmtE) (s : State) (n : Nat), n = f.tag.toNat % 256 → tagDenied s n = false →
    (ready (.tagset f) s = true → ∃ t, exec (.tagset f) s = .next t ∧ MemKept s t
      ∧ (∀ i, i < 62 → (tagOf (getCore t s.cur) n).getLsbD i = (tagOf (getCore s s.cur) n).getLsbD i)
      ∧ tagEN (tagOf (getCore t s.cur) n) = f.sub.getLsbD 0
      ∧ (tagOf (getCore t s.cur) n).getLsbD 62 = (f.sub.getLsbD 1 && !(f.sub.getLsbD 0))
      ∧ (∀ m, m ≠ n → tagOf (getCore t s.cur) m = tagOf (getCore s s.cur) m)
      ∧ (f.sub.getLsbD 0 = false → (getCore t s.cur).runq = (getCore s s.cur).runq ∧ (getCore t s.cur).inbox = (getCore s s.cur).inbox)
      ∧ (∀ k, f.sub.getLsbD 0 = true → k = { getCore s s.cur with tags := (getCore t s.cur).tags } →
          (getCore s s.cur).runq.length + ((getCore s s.cur).inbox.filter (startsNow k)).length + 1 ≤ 32 →
          (getCore t s.cur).runq = (getCore s s.cur).runq ++ ((getCore s s.cur).inbox.filter (startsNow k)).map (taskOfEntry t s.cur)
            ++ (if f.sub.getLsbD 1 then [pendTask t s.cur n (taskOf s).handle (look [] (getCore s s.cur).tagAcq n)] else [])
          ∧ (getCore t s.cur).inbox = (getCore s s.cur).inbox.filter fun p => !startsNow k p))
    ∧ (ready (.tagr f) s = true → ∃ t, exec (.tagr f) s = .next t ∧ MemKept s t
      ∧ WroteScalar s t f.d (tagRead (getCore s s.cur) n)))
  ∧ (∀ (f : FmtE) (s : State), tagDenied s (f.tag.toNat % 256) = true →
    (ready (.tagset f) s = true → exec (.tagset f) s = .next (trapAt s { code := 0x0037 }))
    ∧ (ready (.tagr f) s = true → ∃ t, exec (.tagr f) s = .next t ∧ MemKept s t ∧ WroteScalar s t f.d 0))
  ∧ (∀ (s : State) (n : Nat), tagDenied s n = true ↔
    ((taskOf s).kind ≠ .system ∧ ((tagOf (getCore s s.cur) n).extractLsb' 54 6).toNat ≠ tenantOf s))

namespace Sys2Proof.Say

/-- The state once a group instruction stalls no more (R172). -/
def stallOver (s : State) : State :=
  match (getCore s s.cur).wait with
  | some (.group _ _) => modCore s s.cur fun k => { k with wait := none }
  | _ => s
/-- A group descriptor as memory gives it (R172): the count in its first two bytes, and that many members, two bytes each, from byte 8. -/
def descriptorRead (s : State) (d : Word) : Res (State × Nat × List (BitVec 15)) := do
  let (u, b) ← devRead s d.toNat 2
  let (u, ms) ← (List.range (if natOfBytes b ≤ 256 then natOfBytes b else 0)).foldl (fun r i => do
    let (u, acc) ← r
    devChecks u (d + BitVec.ofNat 64 (8 + 2 * i)) 2 .read
    let (u, b) ← devRead u (d + BitVec.ofNat 64 (8 + 2 * i)).toNat 2
    return (u, acc ++ [memberOf b])) (.ok (u, []))
  return (u, natOfBytes b, ms)

end Sys2Proof.Say

/-- Groups (R172, R173, R278). grpset installs the members its descriptor lists with the next generation, and every member core
records it; grpfree frees the group and its members record that; both wait while a parcel or contribution sent to the group is
neither accepted nor discarded (`Waiting.group` notes since when), and `groupBusy` raises GROUP_BUSY after 65,536 cycles of that wait. A number above 255 and a
descriptor that is no valid list raise GROUP_INVALID. mcast sends a handler parcel to every member, in member order. A wrq of n
bytes (R169, R279) writes them from its source to device memory, line by line in ascending order, after its dev-scope release and
in the epoch of its issue; then the epoch rises, the counter it names rises by one, and a notification that carries the destination and n
goes to the core and tag that D and the instruction name. Log entries 88, 89 and 111 are the model's own readings in it. -/
def Obligations.GroupsAndEnqueue : Prop :=
  ((∀ (f : FmtE) (s : State) (g : Nat), ready (.grpfree f) s = true → g = (readS s f.a).toNat → g ≤ 255 → drainCount s (myPart s) g = 0 →
    ∃ t, exec (.grpfree f) s = .next t ∧ MemKept s t
      ∧ groupAt t (myPart s) g = { groupAt s (myPart s) g with installed := false }
      ∧ (∀ m ∈ (groupAt s (myPart s) g).members, find (getCore t (memberCore m)).groups g
          = some { gen := (groupAt s (myPart s) g).gen, freed := true })
      ∧ (∀ h, h ≠ g → groupAt t (myPart s) h = groupAt s (myPart s) h))
  ∧ (∀ (f : FmtE) (s s1 : State) (g n : Nat) (d : Word) (ms : List (BitVec 15)), ready (.grpset f) s = true → g = (readS s f.a).toNat → g ≤ 255 →
    d = readS s f.b → d.toNat < 2 ^ 49 → d.toNat % 8 = 0 → drainCount s (myPart s) g = 0 →
    descriptorRead (stallOver s) d = .ok (s1, n, ms) →
    1 ≤ n → n ≤ 256 → (∀ m ∈ ms, idOk m.toNat = true ∧ (getCl s1 (cidOf (memberCore m))).part = some (myPart s1)) → ms.eraseDups.length = ms.length →
    ∃ t, exec (.grpset f) s = .next t
      ∧ groupAt t (myPart s1) g = { members := ms, gen := ((groupAt s1 (myPart s1) g).gen + 1) % 4, installed := true }
      ∧ (∀ m ∈ ms, find (getCore t (memberCore m)).groups g = some { gen := ((groupAt s1 (myPart s1) g).gen + 1) % 4, freed := false }))
  ∧ (∀ (f : FmtE) (s s1 : State) (g n : Nat) (d : Word) (ms : List (BitVec 15)), ready (.grpset f) s = true → g = (readS s f.a).toNat → g ≤ 255 →
    d = readS s f.b → d.toNat < 2 ^ 49 → d.toNat % 8 = 0 → drainCount s (myPart s) g = 0 →
    descriptorRead (stallOver s) d = .ok (s1, n, ms) →
    (n = 0 ∨ 256 < n ∨ (∃ m ∈ ms, idOk m.toNat = false ∨ (getCl s1 (cidOf (memberCore m))).part ≠ some (myPart s1))
      ∨ ms.eraseDups.length ≠ ms.length) →
    exec (.grpset f) s = .next (trapAt s1 { code := 0x0032 }))
  ∧ (∀ (f : FmtE) (s : State) (i : Instr) (g : Nat), i ∈ [Instr.grpset f, .grpfree f] → ready i s = true → g = (readS s f.a).toNat → g ≤ 255 →
    (i = .grpset f → (readS s f.b).toNat < 2 ^ 49 ∧ (readS s f.b).toNat % 8 = 0) → drainCount s (myPart s) g ≠ 0 →
    ((∀ since g', (getCore s s.cur).wait ≠ some (.group since g')) →
      exec i s = .next (modCore s s.cur fun k => { k with wait := some (.group (cycOf s s.cur) g) }))
    ∧ ((∃ since g', (getCore s s.cur).wait = some (.group since g')) → exec i s = .next s))
  ∧ (∀ (f : FmtE) (s : State), ready (.grpset f) s = true → (readS s f.a).toNat ≤ 255 →
    (2 ^ 49 ≤ (readS s f.b).toNat → exec (.grpset f) s = .next (trapAt s { code := 0x0020, addr := readS s f.b, aux0 := 0x100#64 }))
    ∧ ((readS s f.b).toNat < 2 ^ 49 → (readS s f.b).toNat % 8 ≠ 0 →
      exec (.grpset f) s = .next (trapAt s { code := 0x0012, addr := readS s f.b })))
  ∧ (∀ (f : FmtE) (s : State) (i : Instr), i ∈ [Instr.grpset f, .grpfree f, .mcast f] → ready i s = true → 255 < (readS s f.a).toNat →
    exec i s = .next (trapAt s { code := 0x0032 }))
  ∧ (∀ (c since g : Nat) (s : State), (getCore s c).wait = some (.group since g) → since + 65536 ≤ cycOf s c →
    drainCount s (partOf s (cidOf c)) g ≠ 0 → (getCore s c).run.isSome →
    ∃ u, exec (.groupBusy c) s = .next { trapAt u { code := 0x0031 } with cur := s.cur } ∧ u.cur = c ∧ (getCore u c).wait = none
      ∧ (getCore u c).run = (getCore s c).run ∧ u.mem = s.mem)
  ∧ (∀ (f : FmtE) (s s1 : State) (g : Nat), ready (.mcast f) s = true → g = (readS s f.a).toNat → g ≤ 255 →
    (groupAt s (myPart s) g).installed = true → (readC s f).toNat ≤ 15 → sendRelease s = .ok s1 →
    ∃ t ps, exec (.mcast f) s = .next t ∧ t.net = s1.net ++ ps ∧ t.mem = s1.mem
      ∧ ps.map (·.hdr) = (groupAt s (myPart s) g).members.map (fun m =>
          mkHdr 0 f.tag m.toNat (myClass s1) (tenantOf s1) (readC s f).toNat (some (g, (groupAt s (myPart s) g).gen)) (mySlot s1))
      ∧ ∀ p ∈ ps, p.payload = (List.range (readC s f).toNat).map fun i => readS s1 (BitVec.ofNat 6 (16 + i))))
  ∧ ((∀ (f : FmtE) (s s1 s2 s3 : State) (x : Xl) (l src : Loc) (dst : Word) (n : Nat), ready (.wrq f) s = true → (taskOf s).committed = 0 →
    refCheck s (readS s f.a) 32 8 false = .ok l → dst = (bytesWords 4 (locRead s l 32)).getD 1 0 →
    n = ((bytesWords 4 (locRead s l 32)).getD 2 0).toNat → 1 ≤ n → n ≤ 4096 →
    refCheck s ((bytesWords 4 (locRead s l 32)).getD 0 0) n (wrqAlign ((bytesWords 4 (locRead s l 32)).getD 0 0) n) false = .ok src →
    xlate s (myPart s) (homeOf s (myPart s) (dst.toNat / 128)) dst.toNat .write (Nat.log2 (min n (128 - dst.toNat % 128))) 0 = .ok (s1, x) →
    release (ownAll s1) .dev = .ok s2 →
    (pieces 34 dst.toNat n).foldl (fun r q => do
      let u ← r
      wrqPiece u dst.toNat q.1 src q.2) (.ok s2) = .ok s3 →
    ((bytesWords 4 (locRead s l 32)).getD 3 0 = 0#64 →
      ∃ t, exec (.wrq f) s = .next t ∧ t.mem = s3.mem ∧ (taskOf t).det.epoch = (taskOf s3).det.epoch + 1 ∧ (taskOf t).committed = 0
        ∧ Sent s3 t 0 f.tag ((readS s3 f.d).extractLsb' 0 15).toNat [dst, BitVec.ofNat 64 n])
    ∧ (∀ lc u, (bytesWords 4 (locRead s l 32)).getD 3 0 ≠ 0#64 → refCheck s ((bytesWords 4 (locRead s l 32)).getD 3 0) 8 8 true = .ok lc →
      u = bumpMine (bumpEpoch (modTask s3 fun t => { t with committed := 0 })) lc 1 { id := (taskOf s3).det.id, op := 0 }
        ((taskOf s3).det.epoch + 1) → Takes (some (taskOf s3).wp) lc 8 →
      ∃ t, exec (.wrq f) s = .next t ∧ t.mem = s3.mem ∧ u.net = s3.net
        ∧ Sent u t 0 f.tag ((readS u f.d).extractLsb' 0 15).toNat [dst, BitVec.ofNat 64 n]
        ∧ ctrValue t lc = ctrValue s3 lc + 1
        ∧ incsOf t lc = ({ who := { id := (taskOf s3).det.id, op := 0 }, n := (taskOf s3).det.epoch + 1, at_ := ctrValue s3 lc + 1 }
            :: incsOf s3 lc).take 4))
  ∧ (∀ (f : FmtE) (s : State) (l : Loc), ready (.wrq f) s = true → refCheck s (readS s f.a) 32 8 false = .ok l →
    (((bytesWords 4 (locRead s l 32)).getD 2 0).toNat = 0 ∨ 4096 < ((bytesWords 4 (locRead s l 32)).getD 2 0).toNat) →
    exec (.wrq f) s = .next (trapAt s { code := 0x0034 })))


/-! ## Copy engines and reductions -/
namespace Sys2Proof.Say

/-- The issuing instructions of R280 with the kinds of their operations and the tags of their command parcels (R162). -/
def engines : List ((FmtE → Instr) × EngKind × Nat) :=
  [(.xcopy, .copy, 0), (.xcompact, .compact, 1), (.xfill, .fill, 2), (.xred, .reduce, 3)]
/-- What an operation names as it is issued: its own descriptor, where that stands in a set, then what the descriptor names (R280). -/
def namedBy (k : EngKind) (r : Word) (w : List Word) : List (Nat × Word) :=
  (if bit r 63 then [(0, (r.extractLsb' 0 32).setWidth 64)] else []) ++ namedAddrs k w
/-- A byte of a set as an engine's run finds it. -/
def engByte (r : EngRun) (n o : Nat) : Byte := setByte (getSet (getCl r.s (engCid r)) n) o

end Sys2Proof.Say

/-- Issuing an engine operation (R162, R280): the descriptor's head is read, the sets it names are recorded, in the order SRC, DST, CTR,
STAT, KEY, IDX, CNT, the first that fails its check raising its trap (RANGE for a counter or status reference in a set with a reserved bit),
a dev-scope release is made, and an engine-command parcel goes to the engine named, with the operation, which has the next issue number of
its task. The engine puts it last in its queue when the parcel is accepted. xstat reads how many operations of the core, and how many in
all, the engine has (R283). An engine runs the operation at the head of its queue, whole: it reads the descriptor, checks it, checks every
page, writes, and ends it with its status, its counter and its digest (`engEnd`); an operation that fails a check writes nothing but those,
with the code of the first check it fails, a place for xcompact's count that is out of range before any page (R164 to R167, R281). One that is to write a line of an open window, or to read one that its slice
lacks, is put off, with no effect but that it joins the windows of the lines it is to read, which deliver them to it (R122, R180). A copied
element carries its source's bytes to its destination, a filled one the pad value. Log entries 27, 60 and 80 are the model's own
readings in it. -/
def Obligations.Engines : Prop :=
  ((∀ row ∈ engines, ∀ (f : FmtE) (s s1 s2 : State) (w : List Word) (sets : List (Nat × Nat)), ready (row.1 f) s = true →
    descHead s row.2.1 (readS s f.a) = .ok (s1, w) → recordSets s1 (namedBy row.2.1 (readS s f.a) w) = .ok sets →
    sendRelease s1 = .ok s2 →
    ∃ t p o, exec (row.1 f) s = .next t ∧ t.net = s2.net ++ [p] ∧ t.mem = s2.mem
      ∧ p.hdr = mkHdr 3 (BitVec.ofNat 12 row.2.2) (coreIdOf (coreNo (cidOf s2.cur) f.core.toNat)) (myClass s2) (tenantOf s2) 1 none (mySlot s2)
      ∧ p.payload = [readS s f.a] ∧ p.from_ = s2.cur ∧ p.op = some o
      ∧ o.kind = row.2.1 ∧ o.ref = readS s f.a ∧ o.head = w ∧ o.core = s2.cur ∧ o.slot = slotOr s2 ∧ o.sets = sets
      ∧ o.no = (taskOf s2).det.issued + 1 ∧ (taskOf t).det.issued = (taskOf s2).det.issued + 1
      ∧ o.all = f.sub.getLsbD 0 ∧ o.peer = f.sub.getLsbD 1)
  ∧ (∀ row ∈ engines, ∀ (f : FmtE) (s s1 : State) (w : List Word) (as_ bs_ : List (Nat × Word)) (a : Nat × Word) (sets : List (Nat × Nat))
      (i : TrapInfo), ready (row.1 f) s = true →
    descHead s row.2.1 (readS s f.a) = .ok (s1, w) → namedBy row.2.1 (readS s f.a) w = as_ ++ a :: bs_ → recordSets s1 as_ = .ok sets →
    namedSet s1 a = .error (.trap i s1) → exec (row.1 f) s = .next (trapAt s1 i))
  ∧ (∀ (k : EngKind) (w : List Word), List.Sublist ((namedAddrs k w).map (·.1)) [1, 2, 4, 5, 10, 13, 14])
  ∧ (∀ (s : State) (j : Nat) (w : Word), (j = 4 ∨ j = 5) →
    (w.extractLsb' 32 31 ≠ 0#31 → namedSet s (j, w) = .error (.trap { code := 0x0011, addr := w } s))
    ∧ (w.extractLsb' 32 31 = 0#31 → namedSet s (j, w) = spHandle s ((w.extractLsb' 0 32).setWidth 64)))
  ∧ (∀ (s : State) (n : Nat) (p : Parcel) (o : EngOp), s.net[n]? = some p → p.op = some o → p.part = none → p.port = none →
    mayArrive s n p = true → dropCause s p = none → hGrp p.hdr = false → hCore p.hdr ≤ 1 → discardEnded (takeParcel s n) p = none →
    ∃ u, engineAccepts s n = joined u p ∧ u.net = s.net.eraseIdx n
      ∧ engQueue u (cidOf (hDestCore p.hdr)) (hCore p.hdr) = engQueue s (cidOf (hDestCore p.hdr)) (hCore p.hdr) ++ [o])
  ∧ (∀ (f : FmtE) (s : State), ready (.xstat f) s = true →
    ∃ t v, exec (.xstat f) s = .next t ∧ MemKept s t ∧ WroteScalar s t f.d v ∧ lane 16 2 v = 0 ∧ lane 16 3 v = 0
      ∧ lane 16 1 v = ((engQueue s (cidOf s.cur) f.core.toNat).length
          + ((openContribs s).filter fun c => cidOf c.op.core = cidOf s.cur && c.eng = f.core.toNat).length) % 2 ^ 16
      ∧ lane 16 0 v = (sentTo s s.cur f.core.toNat + ((engQueue s (cidOf s.cur) f.core.toNat).filter fun o => o.core = s.cur).length
          + ((openContribs s).filter fun c => c.op.core = s.cur && c.eng = f.core.toNat).length + engFaults s s.cur f.core.toNat) % 2 ^ 16))
  ∧ ((∀ (e : Nat) (s s1 s2 s3 : State) (fill : Bool) (k : EngKind) (i : Instr) (r r1 r2 r3 : EngRun) (j n m : Nat) (h w : List Word)
      (es : List Elem) (padded coll : Bool),
    ((k = .copy ∧ fill = false ∧ i = .copyOperation e) ∨ (k = .fill ∧ fill = true ∧ i = .fillOperation e)) →
    engStart s e k = some (r, j) → engDesc r 64 = (.ok (r1, h), s1) → r1.needs = [] →
    engOpen r1 (64 + 32 * (((h.getD 0 0).extractLsb' 56 4).toNat + 1)) = (.ok (r2, w), s2) → r2.needs = [] →
    n = 2 ^ ((w.getD 0 0).extractLsb' 53 3).toNat →
    copyCheck r2.op w ((List.range (((h.getD 0 0).extractLsb' 56 4).toNat + 1)).map (dimOf w)) fill = .ok () →
    copyElems r2.op w ((List.range (((h.getD 0 0).extractLsb' 56 4).toNat + 1)).map (dimOf w)) fill = .ok (es, padded) →
    copyRun r2 es.reverse n (!fill && (w.getD 0 0).extractLsb' 51 2 = 1#2) (padBytes (w.getD 3 0) n) = (.ok (r3, m, coll), s3) →
    exec i s = .next (engEnd r3 j (statusWord 0 (coll && !fill) padded m) none))
  ∧ (∀ (e : Nat) (s s1 s2 : State) (fill : Bool) (k : EngKind) (i : Instr) (r r1 r2 : EngRun) (j c cause : Nat) (a : Word) (h w : List Word),
    ((k = .copy ∧ fill = false ∧ i = .copyOperation e) ∨ (k = .fill ∧ fill = true ∧ i = .fillOperation e)) →
    engStart s e k = some (r, j) → engDesc r 64 = (.ok (r1, h), s1) → r1.needs = [] →
    engOpen r1 (64 + 32 * (((h.getD 0 0).extractLsb' 56 4).toNat + 1)) = (.ok (r2, w), s2) → r2.needs = [] →
    copyCheck r2.op w ((List.range (((h.getD 0 0).extractLsb' 56 4).toNat + 1)).map (dimOf w)) fill = .error (.code c cause a) →
    exec i s = .next (engEnd r2 j (statusWord (errOf c) false false 0) (some (c, cause, a))))
  ∧ (∀ (r : EngRun) (first : Bool) (pad : List Byte) (a b o p n : Nat), 0 < n → n ≤ 16 → pad.length = n →
    (∃ r' u, copyRun r [{ dst := .set a o, src := some (.set b p) }] n first pad = (.ok (r', 1, false), u) ∧ r'.op = r.op
      ∧ (∀ i, i < n → engByte r' a (o + i) = engByte r b (p + i))
      ∧ (∀ x, (x < o ∨ o + n ≤ x) → engByte r' a x = engByte r a x) ∧ r'.s.mem = r.s.mem)
    ∧ (∃ r' u, copyRun r [{ dst := .set a o, src := none }] n first pad = (.ok (r', 1, false), u)
      ∧ (∀ i, i < n → engByte r' a (o + i) = pad.getD i 0)
      ∧ (∀ x, (x < o ∨ o + n ≤ x) → engByte r' a x = engByte r a x) ∧ r'.s.mem = r.s.mem))
  ∧ (∀ (e : Nat) (s s1 s2 : State) (r r1 r2 : EngRun) (j m : Nat) (w : List Word), engStart s e .compact = some (r, j) →
    engOpen r 128 = (.ok (r1, w), s1) → r1.needs = [] → runCompact r1 w = (.ok (r2, m), s2) →
    exec (.compactOperation e) s = .next (engEnd r2 j (statusWord 0 false false m) none))
  ∧ (∀ (e : Nat) (s s1 s2 : State) (r r1 : EngRun) (j c cause : Nat) (a : Word) (w : List Word), engStart s e .compact = some (r, j) →
    engOpen r 128 = (.ok (r1, w), s1) → r1.needs = [] → runCompact r1 w = (.error (.code c cause a), s2) →
    exec (.compactOperation e) s = .next (engEnd { r1 with s := s2 } j (statusWord (errOf c) false false 0) (some (c, cause, a))))
  ∧ (∀ (r : EngRun) (w : List Word) (reads : List (EPlace × Nat)) (x : EngErr), compactCheck r.op w = .ok () →
    compactReads r.op w ((w.getD 8 0).extractLsb' 0 32).toNat ((w.getD 8 0).extractLsb' 32 32).toNat ((w.getD 9 0).extractLsb' 0 8).toNat
      (fmtWidth ((w.getD 9 0).extractLsb' 8 8).toNat / 8) = .ok reads →
    engPlace r.op 14 (dstSpace .compact (w.getD 0 0)) (w.getD 14 0) 0 4 = .error x → runCompact r w = (.error x, r.s))
  ∧ (∀ (r : EngRun) (j : Nat) (w : Word) (fail : Option (Nat × Nat × Word)) (s : State),
    ((r.start = none ∨ (r.met = false ∧ r.needs = [])) → engEnd r j w fail = engDone r j w fail)
    ∧ (r.start = some s → (r.met = true ∨ r.needs ≠ []) → engEnd r j w fail = r.needs.foldl (fun u q => engJoin u r q) s))
  ∧ (∀ (s : State) (r : EngRun) (q : Nat × Nat) (h : Nat) (me : Nat × Party), h = homeOf s (engPart r) q.1 → me = (2 * engCid r + r.eng, engParty r) →
    ((∃ w ∈ (getSl s h).windows, w.line = q.1 ∧ me ∈ w.engs) → engJoin s r q = s)
    ∧ ((∀ w ∈ (getSl s h).windows, ¬ (w.line = q.1 ∧ me ∈ w.engs)) → ∀ s1 x, translate s (engPart r) h q.2 .read = (s1, .ok x) →
      (∃ w ∈ (getSl (engJoin s r q) h).windows, w.line = q.1 ∧ me ∈ w.engs ∧ ((∀ v ∈ (getSl s1 h).windows, v.line ≠ q.1) → w.reply = none))
      ∧ (getSl (engJoin s r q) h).lines = (getSl s1 h).lines ∧ (engJoin s r q).cores = s1.cores ∧ (engJoin s r q).clusters = s1.clusters
      ∧ (engJoin s r q).mem = s1.mem))
  ∧ (∀ (s : State) (e : Nat) (k : EngKind), (∀ o ∈ (engQueue s (e / 2) (e % 2)).head?, o.kind ≠ k) → engStart s e k = none))

namespace Sys2Proof.Say

/-- The end of one contribution's operation when its reduction has its value (R174, R282): the value written to its destination, and its
status, on the engine that ends it. -/
def redEnds (root : Nat) (x : Reduction) (u : State) (c : Contrib) : State :=
  let e := if c.member = root then 0 else c.eng
  let r : EngRun := { s := u, op := c.op, eng := e, raced := c.raced }
  let bs := x.value.flatMap fun v => bytesOf (fmtWidth c.fmt / 8) v
  match engPlace c.op 2 (dstSpace .reduce (c.op.head.getD 0 0)) (c.op.head.getD 2 0) 0 (x.value.length * (fmtWidth c.fmt / 8)) with
  | .ok pl => engDone (engPut r pl bs) e
      (if c.member = root then redStatus x.err x.sat x.value.length else statusWord 0 false false x.value.length)
      (if c.member = root ∧ x.err ≠ 0 then some (codeOfErr x.err, 0, c.op.ref) else none)
  | .error _ => engDone r e (if c.member = root then redStatus x.err x.sat 0 else statusWord 0 false false 0)
      (if c.member = root ∧ x.err ≠ 0 then some (codeOfErr x.err, 0, c.op.ref) else none)

end Sys2Proof.Say

/-- An xred as its engine runs it (R174, R282): checked, its values read, and sent to the group's root, where it joins the others
(`redAccept`); a core that receives no result ends its operation at once. When every member's contribution is there, the package folds
them in ascending cluster and core, from the first, each later one on the right of the running value. A step of the fold saturates an
integer sum and takes the lesser or greater; a floating sum rounds in rne. The value is written to the destination of every contribution whose
operation has not ended: the root's, and with .all every member's. A partner's
values arrive at a step of the tree: another identity ends the reduction with an error, else they are combined, or are the result (R397).
Log entries 16 and 21 are the model's own readings in it. -/
def Obligations.Reductions : Prop :=
  (∀ (e : Nat) (s s1 s2 : State) (r r1 r2 : EngRun) (j : Nat) (w : List Word) (src : EPlace) (pages : List (EPlace × Nat × Acc)) (bs : List Byte)
      (takes : Bool), engStart s e .reduce = some (r, j) → engOpen r 64 = (.ok (r1, w), s1) → r1.needs = [] →
    takes = (r1.op.all || groupRoot r1.s (engPart r1) (redGroup (w.getD 0 0)) = r1.op.core) →
    redCheck r1.s r1.op w = .ok () → redPlaces r1.op w takes = .ok (src, pages) → engPages r1.s (engPart r1) pages = (.ok s2, s2) →
    engGet { r1 with s := s2 } src (redN w * redBytes (w.getD 0 0)) = (r2, bs) →
    exec (.reduceOperation e) s = .next (putOff r2
      (redAccept (if takes then r2.races.foldl (fun u x => engFault u { r2.op with head := w, lines := [] } j x.2) r2.s
          else engDone { r2 with op := { r2.op with head := w, lines := [] } } j (statusWord 0 false false 0) none)
        (engPart r1) (redGroup (w.getD 0 0))
        { member := r2.op.core, eng := j, op := { r2.op with head := w, lines := [] }, fmt := redFmt (w.getD 0 0), fold := redOp (w.getD 0 0),
          vals := redValues bs (redBytes (w.getD 0 0)) (redN w), gen := (groupAt r2.s (engPart r1) (redGroup (w.getD 0 0))).gen, joined := !takes,
          raced := r2.races.map (·.1) })))
  ∧ (∀ (e : Nat) (s s1 : State) (r r1 : EngRun) (j c cause : Nat) (a : Word) (w : List Word), engStart s e .reduce = some (r, j) →
    engOpen r 64 = (.ok (r1, w), s1) → r1.needs = [] → redCheck r1.s r1.op w = .error (.code c cause a) →
    exec (.reduceOperation e) s = .next (engEnd r1 j (statusWord (errOf c) false false 0) (some (c, cause, a))))
  ∧ (∀ (fmt : Nat) (a b : Word), (fmt = 3 ∨ fmt = 4) →
    (redStep fmt 0 a b).1 = BitVec.ofNat 64 (wrapInt (fmtWidth fmt) (max (-(2 ^ (fmtWidth fmt - 1) : Nat) : Int)
      (min ((2 ^ (fmtWidth fmt - 1) : Nat) - 1) (sgn (fmtWidth fmt) a.toNat + sgn (fmtWidth fmt) b.toNat))))
    ∧ (redStep fmt 1 a b).1 = BitVec.ofNat 64 (wrapInt (fmtWidth fmt) (min (sgn (fmtWidth fmt) a.toNat) (sgn (fmtWidth fmt) b.toNat)))
    ∧ (redStep fmt 2 a b).1 = BitVec.ofNat 64 (wrapInt (fmtWidth fmt) (max (sgn (fmtWidth fmt) a.toNat) (sgn (fmtWidth fmt) b.toNat)))
    ∧ ((redStep fmt 0 a b).2 = true ↔ ¬ (-(2 ^ (fmtWidth fmt - 1) : Nat) ≤ sgn (fmtWidth fmt) a.toNat + sgn (fmtWidth fmt) b.toNat
        ∧ sgn (fmtWidth fmt) a.toNat + sgn (fmtWidth fmt) b.toNat ≤ (2 ^ (fmtWidth fmt - 1) : Nat) - 1)))
  ∧ (∀ (fmt : Nat) (a b : Word), (fmt = 10 ∨ fmt = 11) →
    (redStep fmt 0 a b).1 = BitVec.ofNat 64 (roundFP fmt 0 false 0 (sumV [(decodeElem fmt a.toNat, false), (decodeElem fmt b.toNat, false)] false).1).1
    ∧ (redStep fmt 1 a b).1 = BitVec.ofNat 64 (roundFP fmt 0 false 0 (minV (decodeElem fmt a.toNat) (decodeElem fmt b.toNat))).1
    ∧ (redStep fmt 2 a b).1 = BitVec.ofNat 64 (roundFP fmt 0 false 0 (maxV (decodeElem fmt a.toNat) (decodeElem fmt b.toNat))).1
    ∧ ∀ op, (redStep fmt op a b).2 = false)
  ∧ (∀ (fmt op : Nat) (u v : List Word) (sat : Bool), u.length = v.length →
    (redFold fmt op (u, sat) v).1.length = u.length
    ∧ (∀ i, i < u.length → (redFold fmt op (u, sat) v).1.getD i 0 = (redStep fmt op (u.getD i 0) (v.getD i 0)).1)
    ∧ ((redFold fmt op (u, sat) v).2 = true ↔ sat = true ∨ ∃ i, i < u.length ∧ (redStep fmt op (u.getD i 0) (v.getD i 0)).2 = true))
  ∧ (∀ (s : State) (p g : Nat) (c : Contrib), (∀ x ∈ s.reds, ¬ (x.part = p ∧ x.g = g ∧ x.folded = false)) →
    (∃ m ∈ (groupAt s p g).members, memberCore m ≠ c.member) →
    redAccept s p g c = setReds s (s.reds ++ [{ part := p, g := g, contribs := [c] }]))
  ∧ (∀ (s : State) (x : Reduction) (c : Contrib), s.reds = [x] → x.folded = false → (∀ d ∈ x.contribs, d.gen = c.gen ∧ d.member ≠ c.member) →
    ((∀ m ∈ (groupAt s x.part x.g).members, ∃ d ∈ x.contribs ++ [c], d.member = memberCore m) →
      redAccept s x.part x.g c = redNext (setReds s []) (redPackage (setReds s []) { x with contribs := x.contribs ++ [c] }) 0)
    ∧ ((∃ m ∈ (groupAt s x.part x.g).members, ∀ d ∈ x.contribs ++ [c], d.member ≠ memberCore m) →
      redAccept s x.part x.g c = setReds s [{ x with contribs := x.contribs ++ [c] }]))
  ∧ (∀ (s : State) (x : Reduction) (rc c0 : Contrib) (cs : List Contrib), rootContrib s x = some rc →
    (c0 :: cs).Pairwise (fun a b => a.member < b.member) → (∀ c, c ∈ c0 :: cs ↔ c ∈ x.contribs) →
    (∀ c ∈ x.contribs, c.member < 9216 ∧ (∃ m ∈ (groupAt s x.part x.g).members, memberCore m = c.member)
      ∧ c.fmt = rc.fmt ∧ c.fold = rc.fold ∧ c.vals.length = rc.vals.length) →
    redPackage s x = { x with
      value := (cs.foldl (fun v c => redFold rc.fmt rc.fold v c.vals) (c0.vals, false)).1
      sat := (cs.foldl (fun v c => redFold rc.fmt rc.fold v c.vals) (c0.vals, false)).2
      folded := true
      err := if x.stale then 5 else 0 })
  ∧ (∀ (s : State) (x : Reduction) (rc : Contrib), rootContrib s x = some rc → rc.op.peer = false → redNext s x 0 = redFinish s x false)
  ∧ (∀ (s : State) (x : Reduction), redFinish s x false =
    (x.contribs.filter fun c => !c.joined).foldl (redEnds (groupRoot s x.part x.g) x) (setReds s (s.reds.filter fun y => y ≠ x)))
  ∧ (∀ (q : PeerInput) (s : State) (x : Reduction) (rc : Contrib), rootContrib s x = some rc → s.reds.head? = some x → x.part = q.part →
    x.folded = true → x.step = q.step → redComm rc.op.head = q.comm → stepPort (commAt s q.comm) q.step = q.port →
    look false s.host.boot.links q.port = true →
    (q.ident ≠ (commAt s q.comm).ident → exec (.peerPortExchange q) s = .next (redFinish s { x with err := 1 } true))
    ∧ (q.ident = (commAt s q.comm).ident → q.values.length = x.value.length →
        sendsAt (commAt s q.comm).rank (commAt s q.comm).size q.step = true →
        exec (.peerPortExchange q) s = .next (redFinish (setReds s (s.reds.erase x)) { x with value := q.values, down := true } false))
    ∧ (q.ident = (commAt s q.comm).ident → q.values.length = x.value.length →
        sendsAt (commAt s q.comm).rank (commAt s q.comm).size q.step = false →
        exec (.peerPortExchange q) s = .next (redNext (setReds s (s.reds.erase x))
          { x with value := (redFold rc.fmt rc.fold (x.value, x.sat) q.values).1, sat := (redFold rc.fmt rc.fold (x.value, x.sat) q.values).2 }
          (q.step + 1))))

/-! ## Vectors -/
namespace Sys2Proof.Say

/-- Element `i` of `w` bits of a vector. -/
def elem (w i : Nat) (x : Line) : Nat := x.toNat / 2 ^ (w * i) % 2 ^ w
/-- Vector sources read in order: each head is taken as it is read (R286). -/
def readAll (s : State) : List (BitVec 6) → State × List Line
  | [] => (s, [])
  | x :: t => ((readAll (readV s x).1 t).1, (readV s x).2 :: (readAll (readV s x).1 t).2)
/-- A vector instruction completed: its sources read, and a vector whose elements are given written to its destination as the lanes
deliver it. -/
def VecWrote (i : Instr) (s u : State) (d : BitVec 6) (w : Nat) (r : Nat → Nat) : Prop :=
  ∃ v lat ilk, exec i s = .next (goesOn i s (writeV (laneCheck u 32 v).1 d (laneCheck u 32 v).2 lat ilk))
    ∧ ∀ k, k < 1024 / w → elem w k v = r k % 2 ^ w
/-- Source a's element after its modifier (R76). -/
def srcElem (f : FmtV) (w k : Nat) (l : List Line) : Nat := elem w (modLane f.amod (1024 / w) k) (l.getD 0 0)
/-- A bitwise or selecting vector instruction (R295, R296, R301): how many vector sources it has, and its result element. -/
structure BitRow where
  ins : FmtV → Instr
  srcs : FmtV → List (BitVec 6)
  res : Nat → Nat → Nat → Nat → Nat
def bitRows : List BitRow :=
  [ ⟨.vsel, fun f => [f.a, f.b, f.c], fun _ a b c => if a = 0 then c else b⟩,
    ⟨.vand, fun f => [f.a, f.b], fun _ a b _ => a &&& b⟩,
    ⟨.vor, fun f => [f.a, f.b], fun _ a b _ => a ||| b⟩,
    ⟨.vxor, fun f => [f.a, f.b], fun _ a b _ => a ^^^ b⟩,
    ⟨.vshl, fun f => [f.a, f.b], fun w a b _ => a * 2 ^ (b % w)⟩,
    ⟨.vshr, fun f => [f.a, f.b], fun w a b _ => a / 2 ^ (b % w)⟩,
    ⟨.vsar, fun f => [f.a, f.b], fun w a b _ => low w (signed w a / (2 ^ (b % w) : Nat))⟩,
    ⟨.vmov, fun f => [f.a], fun _ a _ _ => a⟩ ]
/-- The element-wise arithmetic of R291 to R294: the instruction, its vector sources, its exact result on values (the mode is rdn or
not), and on integers where it has an integer form, with whether SAT may clamp it. -/
structure ArithRow where
  ins : FmtV → Instr
  srcs : FmtV → List (BitVec 6)
  real : Bool → FVal → FVal → FVal → FVal × Flags
  int : Option ((Int → Int → Int) × Bool)
def arithRows : List ArithRow :=
  [ ⟨.vadd, fun f => [f.a, f.b], fun r a b _ => sumV [(a, false), (b, false)] r, some (fun a b => a + b, true)⟩,
    ⟨.vsub, fun f => [f.a, f.b], fun r a b _ => sumV [(a, false), (negV b, false)] r, some (fun a b => a - b, true)⟩,
    ⟨.vmul, fun f => [f.a, f.b], fun _ a b _ => ((mulV a b).1, { nv := (mulV a b).2 }), some (fun a b => a * b, true)⟩,
    ⟨.vfma, fun f => [f.a, f.b, f.c], fun r a b c => sumV [mulV a b, (c, false)] r, none⟩,
    ⟨.vfms, fun f => [f.a, f.b, f.c], fun r a b c => sumV [mulV a b, (negV c, false)] r, none⟩,
    ⟨.vdiv, fun f => [f.a, f.b], fun _ a b _ => divV a b, none⟩,
    ⟨.vsqrt, fun f => [f.a], fun _ a _ _ => sqrtV a, none⟩,
    ⟨.vrcp, fun f => [f.a], fun _ a _ _ => divV (.fin false 1 0) a, none⟩,
    ⟨.vrsq, fun f => [f.a], fun _ a _ _ => rsqV a, none⟩,
    ⟨.vexp2, fun f => [f.a], fun _ a _ _ => (exp2V a, {}), none⟩,
    ⟨.vlog2, fun f => [f.a], fun _ a _ _ => log2V a, none⟩,
    ⟨.vmin, fun f => [f.a, f.b], fun _ a b _ => (minV a b, {}), some (fun a b => min a b, false)⟩,
    ⟨.vmax, fun f => [f.a, f.b], fun _ a b _ => (maxV a b, {}), some (fun a b => max a b, false)⟩,
    ⟨.vabs, fun f => [f.a], fun _ a _ _ => (absV a, {}), some (fun a _ => (a.natAbs : Int), true)⟩,
    ⟨.vneg, fun f => [f.a], fun _ a _ _ => (negV a, {}), some (fun a _ => -a, true)⟩ ]
/-- An integer kept within `w` bits: clamped, or taken modulo 2^w (R136, R289). -/
def fitted (w : Nat) (sat : Bool) (x : Int) : Nat :=
  if sat then low w (max (-(2 ^ (w - 1) : Nat) : Int) (min ((2 ^ (w - 1) : Nat) - 1) x)) else low w x
/-- Whether an integer does not fit `w` bits. -/
def outside (w : Nat) (x : Int) : Bool := decide (x < -((2 ^ (w - 1) : Nat) : Int)) || decide (((2 ^ (w - 1) : Nat) : Int) - 1 < x)

end Sys2Proof.Say

/-- Vector operands (R286). A source reads its register, and changes nothing: the newest value, or the one a write in flight keeps until
it completes (R79); a load queue's head, which leaves the queue; sixteen words of a channel, which leave it, the first lowest, and parcels
that wait for room may follow (R161). A destination is a register; a store queue, in which it holds an entry at once and whose tail it
becomes at its completion; or nothing. A vector instruction waits until the heads it names hold enough and the store queue it names has
fewer than eight entries held. Lanes deliver their results as they are, each on the physical lane that LSTEER gives it; one that computes
wrong bits delivers them, and is counted where the residue modulo 3 shows it; the errors of a lane that carries no logical lane come to
nothing (R405, R406; which lanes compute what is the model's choice, log entry 81). -/
def Obligations.VectorOperands : Prop :=
  (∀ (s : State) (r : BitVec 6), r.toNat < 16 → (readV s r).1 = s
    ∧ ((∀ p ∈ (getCore s s.cur).wr, p.vec = true → p.n = r.toNat → p.fin ≤ cycOf s s.cur) → (readV s r).2 = vectorOf s r)
    ∧ (∀ p pre post, (getCore s s.cur).wr = pre ++ p :: post → p.vec = true → p.n = r.toNat → cycOf s s.cur < p.fin →
      (∀ q ∈ pre, ¬ (q.vec = true ∧ q.n = r.toNat)) → (readV s r).2 = p.old))
  ∧ (∀ (s : State) (q : Nat) (x : Line) (l : List Line), q < 4 → look [] (getTile s (tileOfCore s.cur)).lq q = x :: l →
    (readV s (BitVec.ofNat 6 (16 + q))).2 = x
    ∧ look [] (getTile (readV s (BitVec.ofNat 6 (16 + q))).1 (tileOfCore s.cur)).lq q = l)
  ∧ (∀ (s : State) (c : Nat), c < 8 → 16 ≤ (look [] (getTile s (tileOfCore s.cur)).chans c).length →
    (∀ i, i < 16 → elem 64 i (readV s (BitVec.ofNat 6 (24 + c))).2 = ((look [] (getTile s (tileOfCore s.cur)).chans c).getD i 0).toNat)
    ∧ (∃ more, look [] (getTile (readV s (BitVec.ofNat 6 (24 + c))).1 (tileOfCore s.cur)).chans c
        = (look [] (getTile s (tileOfCore s.cur)).chans c).drop 16 ++ more)
    ∧ ((∀ p ∈ (getCore s s.cur).inbox, hKind p.hdr ≠ 2) →
      look [] (getTile (readV s (BitVec.ofNat 6 (24 + c))).1 (tileOfCore s.cur)).chans c
        = (look [] (getTile s (tileOfCore s.cur)).chans c).drop 16))
  ∧ (∀ (s : State) (d : BitVec 6) (v : Line) (lat : Nat) (ilk : Bool), d.toNat < 16 → vectorOf (writeV s d v lat ilk) d = v
    ∧ writeV s d v lat ilk = setCore s s.cur (getCore (writeV s d v lat ilk) s.cur)
    ∧ CoreKept (getCore s s.cur) (getCore (writeV s d v lat ilk) s.cur)
    ∧ StoreKept s (writeV s d v lat ilk) (vectorWords s d))
  ∧ (∀ (s : State) (q : Nat) (v : Line) (lat : Nat) (ilk : Bool), q < 4 →
    writeV s (BitVec.ofNat 6 (20 + q)) v lat ilk = setTile s (tileOfCore s.cur) { getTile s (tileOfCore s.cur) with
      pushes := (getTile s (tileOfCore s.cur)).pushes ++ [{ q := q, fin := cycOf s s.cur + lat, data := v }] })
  ∧ (∀ (x : Tile) (p : Push) (now : Nat), x.pushes = [p] →
    (now < p.fin → fillPushes now x = x)
    ∧ (p.fin ≤ now → look [] (fillPushes now x).sq p.q = look [] x.sq p.q ++ [p.data] ∧ (fillPushes now x).pushes = []))
  ∧ (∀ (s : State) (d : BitVec 6) (v : Line) (lat : Nat) (ilk : Bool), (d.toNat < 20 ∧ 16 ≤ d.toNat ∨ 24 ≤ d.toNat) → writeV s d v lat ilk = s)
  ∧ (∀ (s : State) (srcs : List (BitVec 6)) (dst : Option (BitVec 6)), vecReady s srcs dst = true ↔
    (∀ q, q < 4 → (srcs.filter fun r => r.toNat = 16 + q).length ≤ (look [] (getTile s (tileOfCore s.cur)).lq q).length)
    ∧ (∀ c, c < 8 → 16 * (srcs.filter fun r => r.toNat = 24 + c).length ≤ (look [] (getTile s (tileOfCore s.cur)).chans c).length)
    ∧ (∀ d q, dst = some d → d.toNat = 20 + q → q < 4 → (look [] (getTile s (tileOfCore s.cur)).sq q).length
        + ((getTile s (tileOfCore s.cur)).pushes.filter fun p => p.q = q).length < 8))
  ∧ (∀ row ∈ bitRows, ∀ (f : FmtV) (s : State), ready (row.ins f) s = true →
    vecReady s (row.srcs (effV (ctxOf s) f)) (some (effV (ctxOf s) f).d) = false → exec (row.ins f) s = .next s)
  ∧ (∀ (s : State) (lanes : Nat) (v : Line),
    ((getCore s s.cur).laneErr = [] → laneCheck s lanes v = (s, v))
    ∧ (∀ n i x r, (getCore s s.cur).laneErr = [(n, x)] → i < lanes → n = physLane s s.cur i → r = v.extractLsb' (32 * i) 32 →
      (laneCheck s lanes v).2 = v ^^^ ((x.extractLsb' 0 32).setWidth 1024) <<< (32 * i)
      ∧ (getDie (laneCheck s lanes v).1 (dieOf (cidOf s.cur))).lane =
          if r.toNat % 3 = (r ^^^ x.extractLsb' 0 32).toNat % 3 then (getDie s (dieOf (cidOf s.cur))).lane
          else satInc (getDie s (dieOf (cidOf s.cur))).lane)
    ∧ (∀ n x, (getCore s s.cur).laneErr = [(n, x)] → (∀ i, i < lanes → n ≠ physLane s s.cur i) →
      (laneCheck s lanes v).2 = v ∧ (∀ c, getCore (laneCheck s lanes v).1 c = getCore s c) ∧ MemKept s (laneCheck s lanes v).1
      ∧ ∀ d, getDie (laneCheck s lanes v).1 d = getDie s d))
  ∧ (∀ (s : State) (c i : Nat), physLane s c i =
    if (steerOf s c).getLsbD 5 = true ∧ ((steerOf s c).extractLsb' 0 5).toNat ≤ i then i + 1 else i)

/-- Element-wise arithmetic (R289, R291 to R294), under the pending prefix where there is one (R288). Integer elements take the integer
result, taken modulo 2^w or, with SAT where it may clamp, clamped with the SAT flag; floating elements take the exact result rounded once
in the active mode, in ascending index, with its flags and draws. Log entry 20 is the model's own reading in it. -/
def Obligations.VectorArithmetic : Prop :=
  ∀ row ∈ arithRows, ∀ (f e : FmtV) (s u : State) (vs : List Line) (w : Nat), ready (row.ins f) s = true → e = effV (ctxOf s) f →
    vecReady s (row.srcs e) (some e.d) = true → readAll s (row.srcs e) = (u, vs) → w = fmtWidth e.fmt.toNat →
    (∀ g sat, row.int = some (g, sat) → isInt e.fmt.toNat = true →
      ∃ c : Bool, VecWrote (row.ins f) s (orFlags u { sat := c }) e.d w (fun k =>
          fitted w (sat && e.sat = 1#1) (g (signed w (srcElem e w k vs)) (signed w (elem w k (vs.getD 1 0)))))
        ∧ (c = true ↔ sat = true ∧ e.sat = 1#1 ∧ ∃ k, k < 1024 / w ∧ outside w
            (g (signed w (srcElem e w k vs)) (signed w (elem w k (vs.getD 1 0)))) = true))
    ∧ (∀ rs codes fl seed, isInt e.fmt.toNat = false →
      rs = (List.range (1024 / w)).map (fun k => row.real (activeRM (ctxOf s) = 3) (decodeElem e.fmt.toNat (srcElem e w k vs))
        (decodeElem e.fmt.toNat (elem w k (vs.getD 1 0))) (decodeElem e.fmt.toNat (elem w k (vs.getD 2 0)))) →
      roundList e.fmt.toNat (activeRM (ctxOf s)) (e.sat = 1#1) (ctxOf s).seed (rs.map (·.1)) = (codes, fl, seed) →
      VecWrote (row.ins f) s (orFlags (modCtx u fun c => { c with seed := seed }) (fl.or (allFlags (rs.map (·.2))))) e.d w
        (fun k => codes.getD k 0))

/-- Comparison, selection, logic, shifts and moves (R295, R296, R301): each element of the destination is the row's result of the
elements of the sources, bit for bit; vcmp gives all ones or zero; vidx and vbcast make their elements from a scalar register,
vins puts one element into the destination, and vext takes one out into a scalar register. Conversion, reduction, scan and top-k
(R297 to R300): vcvt converts the elements of one part of source a and keeps the destination's others where it narrows; vred puts
the reduction of all elements into element 0 and zero into the others; vscan reduces every prefix; an integer sum of either that SAT clamps
sets the SAT flag; vtopk keeps the best half of the keys, in order, over their payloads. -/
def Obligations.VectorElements : Prop :=
  ((∀ row ∈ bitRows, ∀ (f e : FmtV) (s u : State) (vs : List Line) (w : Nat), ready (row.ins f) s = true → e = effV (ctxOf s) f →
    vecReady s (row.srcs e) (some e.d) = true → readAll s (row.srcs e) = (u, vs) → w = fmtWidth e.fmt.toNat →
    VecWrote (row.ins f) s u e.d w fun k => row.res w (srcElem e w k vs) (elem w k (vs.getD 1 0)) (elem w k (vs.getD 2 0)))
  ∧ (∀ (f e : FmtV) (s u : State) (vs : List Line) (w : Nat), ready (.vcmp f) s = true → e = effV (ctxOf s) f →
    vecReady s [e.a, e.b] (some e.d) = true → readAll s [e.a, e.b] = (u, vs) → w = fmtWidth e.fmt.toNat →
    (isInt e.fmt.toNat = true → VecWrote (.vcmp f) s u e.d w fun k =>
      if (match e.sub.toNat with
        | 0 => decide (srcElem e w k vs = elem w k (vs.getD 1 0))
        | 1 => decide (srcElem e w k vs ≠ elem w k (vs.getD 1 0))
        | 2 => decide (signed w (srcElem e w k vs) < signed w (elem w k (vs.getD 1 0)))
        | 3 => decide (signed w (elem w k (vs.getD 1 0)) ≤ signed w (srcElem e w k vs))
        | 4 => decide (signed w (srcElem e w k vs) ≤ signed w (elem w k (vs.getD 1 0)))
        | 5 => decide (signed w (elem w k (vs.getD 1 0)) < signed w (srcElem e w k vs))
        | 6 => decide (srcElem e w k vs < elem w k (vs.getD 1 0))
        | _ => decide (elem w k (vs.getD 1 0) ≤ srcElem e w k vs)) then 2 ^ w - 1 else 0)
    ∧ (isInt e.fmt.toNat = false → VecWrote (.vcmp f) s u e.d w fun k =>
      if cmpFloat e.sub.toNat (decodeElem e.fmt.toNat (srcElem e w k vs)) (decodeElem e.fmt.toNat (elem w k (vs.getD 1 0)))
        then 2 ^ w - 1 else 0))
  ∧ (∀ (f e : FmtV) (s : State) (w : Nat), e = effV (ctxOf s) f → w = fmtWidth e.fmt.toNat → vecReady s [] (some e.d) = true →
    (ready (.vidx f) s = true → VecWrote (.vidx f) s s e.d w fun k => (readS s e.a).toNat + k)
    ∧ (ready (.vbcast f) s = true → VecWrote (.vbcast f) s s e.d w fun _ => (readS s e.a).toNat)
    ∧ (ready (.vins f) s = true → VecWrote (.vins f) s s e.d w fun k =>
        if k = (readS s e.b).toNat % (1024 / w) then (readS s e.a).toNat
        else if e.d.toNat < 16 then elem w k (readV s e.d).2 else 0))
  ∧ (∀ (f e : FmtV) (s u : State) (vs : List Line) (w : Nat), ready (.vext f) s = true → e = effV (ctxOf s) f →
    vecReady s [e.a] none = true → readAll s [e.a] = (u, vs) → w = fmtWidth e.fmt.toNat →
    ∃ v lat ilk, v = laneCheck u 2 (BitVec.ofNat 1024 (srcElem e w ((readS u e.b).toNat % (1024 / w)) vs))
      ∧ exec (.vext f) s = .next (goesOn (.vext f) s (writeSLat v.1 e.d (v.2.setWidth 64) lat ilk))))
  ∧ ((∀ (f e : FmtV) (s u : State) (vs : List Line) (ws wd n : Nat) (cs : List Nat) (fl : Flags) (seed : Word), ready (.vcvt f) s = true →
    e = effV (ctxOf s) f → vecReady s [e.a] (some e.d) = true → readAll s [e.a] = (u, vs) → ws = fmtWidth e.fmt.toNat →
    wd = fmtWidth e.fmt2.toNat → n = 1024 / max ws wd →
    convertList e.fmt.toNat e.fmt2.toNat (activeRM (ctxOf s)) (e.sat = 1#1) (ctxOf s).seed
      ((List.range n).map fun k => srcElem e ws (if ws < wd then e.sub.toNat * n + k else k) vs) = (cs, fl, seed) →
    VecWrote (.vcvt f) s (orFlags (modCtx u fun c => { c with seed := seed }) fl) e.d wd fun k =>
      if ws ≤ wd then cs.getD k 0
      else if e.sub.toNat * n ≤ k ∧ k < e.sub.toNat * n + n then cs.getD (k - e.sub.toNat * n) 0
      else if e.d.toNat < 16 then elem wd k (readV u e.d).2 else 0)
  ∧ (∀ (f e : FmtV) (s u : State) (vs : List Line) (w : Nat), e = effV (ctxOf s) f → vecReady s [e.a] (some e.d) = true →
    readAll s [e.a] = (u, vs) → w = fmtWidth e.fmt.toNat → isInt e.fmt.toNat = true →
    (ready (.vred f) s = true → ∃ c : Bool, VecWrote (.vred f) s (orFlags u { sat := c }) e.d w (fun k =>
        if k = 0 then fitted w (e.sat = 1#1 && e.sub.toNat = 0) (foldInts e.sub.toNat w ((List.range (1024 / w)).map fun j => srcElem e w j vs)) else 0)
      ∧ (c = true ↔ e.sat = 1#1 ∧ e.sub.toNat = 0
          ∧ outside w (foldInts e.sub.toNat w ((List.range (1024 / w)).map fun j => srcElem e w j vs)) = true))
    ∧ (ready (.vscan f) s = true → ∃ c : Bool, VecWrote (.vscan f) s (orFlags u { sat := c }) e.d w (fun k =>
        fitted w (e.sat = 1#1 && e.sub.toNat = 0) (foldInts e.sub.toNat w ((List.range (k + 1)).map fun j => srcElem e w j vs)))
      ∧ (c = true ↔ e.sat = 1#1 ∧ e.sub.toNat = 0 ∧ ∃ k, k < 1024 / w
          ∧ outside w (foldInts e.sub.toNat w ((List.range (k + 1)).map fun j => srcElem e w j vs)) = true)))
  ∧ (∀ (f e : FmtV) (s u : State) (vs : List Line) (w : Nat) (rs : List (FVal × Flags)) (cs : List Nat) (fl : Flags) (seed : Word),
    e = effV (ctxOf s) f → vecReady s [e.a] (some e.d) = true → readAll s [e.a] = (u, vs) → w = fmtWidth e.fmt.toNat →
    isInt e.fmt.toNat = false →
    roundList e.fmt.toNat (activeRM (ctxOf s)) (e.sat = 1#1) (ctxOf s).seed (rs.map (·.1)) = (cs, fl, seed) →
    (ready (.vred f) s = true →
      rs = [foldFloat e.sub.toNat (activeRM (ctxOf s) = 3) ((List.range (1024 / w)).map fun j => decodeElem e.fmt.toNat (srcElem e w j vs))] →
      VecWrote (.vred f) s (orFlags (modCtx u fun c => { c with seed := seed }) (fl.or (allFlags (rs.map (·.2))))) e.d w fun k => cs.getD k 0)
    ∧ (ready (.vscan f) s = true →
      rs = ((List.range (1024 / w)).map fun k => foldFloat e.sub.toNat (activeRM (ctxOf s) = 3)
        ((List.range (k + 1)).map fun j => decodeElem e.fmt.toNat (srcElem e w j vs))) →
      VecWrote (.vscan f) s (orFlags (modCtx u fun c => { c with seed := seed }) (fl.or (allFlags (rs.map (·.2))))) e.d w fun k => cs.getD k 0))
  ∧ (∀ (f e : FmtV) (s u : State) (vs : List Line) (w : Nat), ready (.vtopk f) s = true → e = effV (ctxOf s) f →
    vecReady s [e.a, e.b] (some e.d) = true → readAll s [e.a, e.b] = (u, vs) → w = fmtWidth e.fmt.toNat →
    ∃ ps : List (Nat × Nat), ps = ((List.range (1024 / w)).map fun k => (srcElem e w k vs, elem w k (vs.getD 1 0))).mergeSort
        (fun x y => ranks (bit e.sub 0) (decodeElem e.fmt.toNat x.1) (decodeElem e.fmt.toNat y.1))
      ∧ VecWrote (.vtopk f) s u e.d w fun k =>
          if k < 1024 / w / 2 then (ps.getD k (0, 0)).1 else (ps.getD (k - 1024 / w / 2) (0, 0)).2))

/-- The one rounding (R133, R134): a magnitude m × 2^e taken to a multiple of 2^q. It is kept where it is one already; else the result is a
neighbour: the lower toward zero, the nearer with a tie to the even one, the outer one upward or downward by the sign, and under
stochastic rounding the outer one exactly when the draw lies below the fraction. -/
def Obligations.Rounding : Prop :=
  ∀ (mode m r d : Nat) (neg : Bool) (e q : Int), mode ≤ 4 →
    (q ≤ e → roundTo mode neg m e q r isOdd = (m * 2 ^ (e - q).toNat, false, false))
    ∧ (e < q → d = 2 ^ (q - e).toNat →
      ((m % d = 0 → roundTo mode neg m e q r isOdd = (m / d, false, false))
      ∧ (m % d ≠ 0 → (roundTo mode neg m e q r isOdd).2.1 = true ∧ ((roundTo mode neg m e q r isOdd).2.2 = true ↔ mode = 4)
        ∧ ((roundTo mode neg m e q r isOdd).1 = m / d ∨ (roundTo mode neg m e q r isOdd).1 = m / d + 1)
        ∧ (mode = 0 → 2 * (m % d) < d → (roundTo mode neg m e q r isOdd).1 = m / d)
        ∧ (mode = 0 → d < 2 * (m % d) → (roundTo mode neg m e q r isOdd).1 = m / d + 1)
        ∧ (mode = 0 → 2 * (m % d) = d → (roundTo mode neg m e q r isOdd).1 % 2 = 0)
        ∧ (mode = 1 → (roundTo mode neg m e q r isOdd).1 = m / d)
        ∧ (mode = 2 → (roundTo mode neg m e q r isOdd).1 = if neg then m / d else m / d + 1)
        ∧ (mode = 3 → (roundTo mode neg m e q r isOdd).1 = if neg then m / d + 1 else m / d)
        ∧ (mode = 4 → (roundTo mode neg m e q r isOdd).1 = if r < m % d * 2 ^ 32 / d then m / d + 1 else m / d))))

/-! ## Matrix passes, accumulators, scales -/

/-- Matrix passes (R303, R304). mma puts a pass into the unit's waiting place, under the pending prefix, and waits while one stands there;
where the unit is free and the pass needs no scales that are missing, it starts at once. A waiting pass starts when the running one began 96 cycles ago or more and its scales, where it uses them, are ready, and takes its operands
then; it delivers 100 cycles after its start, every element of the product of its rows, into its accumulator. Log entry 7 is the model's own
reading in it: an event that is not due leaves the state as it was. -/
def Obligations.Passes : Prop :=
  (∀ (f : FmtX) (s : State) (x : Tile) (p : Pass), ready (.mma f) s = true → x = getTile s (tileOfCore s.cur) → resetWait x = false →
    p = { acc := f.acc.toNat, ta := f.ta.toNat, tb := f.tb.toNat, pfx := (ctxOf s).pfx, owner := (taskOf s).handle,
          slot := (taskOf s).slot, id := (taskOf s).det.id } →
    (x.waiting = none →
      ∃ t, exec (.mma f) s = .next t ∧ MemKept s t
        ∧ ((∀ r ∈ x.running, r.started + 96 ≤ cycOfCl s (tileOfCore s.cur / 4)) →
            (pfxSS p.pfx = 1 → sideReady x p.ta = true ∧ sideReady x p.tb = true) →
          getTile t (tileOfCore s.cur) = { x with
            waiting := none, running := x.running ++ [startPass x p (cycOfCl s (tileOfCore s.cur / 4))] })
        ∧ ((∃ r ∈ x.running, cycOfCl s (tileOfCore s.cur / 4) < r.started + 96)
            ∨ (pfxSS p.pfx = 1 ∧ (sideReady x p.ta = false ∨ sideReady x p.tb = false)) →
          getTile t (tileOfCore s.cur) = { x with waiting := some p })
        ∧ taskOf t = { taskOf s with ctx := advance { ctxOf s with status := setPP (ctxOf s).status false } .seq })
    ∧ (x.waiting ≠ none → exec (.mma f) s = .next s))
  ∧ (∀ (n : Nat) (s : State) (p : Pass), (getTile s n).waiting = some p →
    ((∀ r ∈ (getTile s n).running, r.started + 96 ≤ cycOfCl s (n / 4)) →
      (pfxSS p.pfx = 1 → sideReady (getTile s n) p.ta = true ∧ sideReady (getTile s n) p.tb = true) →
      exec (.passStart n) s = .next (setTile s n { getTile s n with waiting := none, running := (getTile s n).running ++
        [startPass (getTile s n) p (cycOfCl s (n / 4))] }))
    ∧ ((∃ r ∈ (getTile s n).running, cycOfCl s (n / 4) < r.started + 96) → exec (.passStart n) s = .next s)
    ∧ (pfxSS p.pfx = 1 → (sideReady (getTile s n) p.ta = false ∨ sideReady (getTile s n) p.tb = false) → exec (.passStart n) s = .next s))
  ∧ (∀ (n : Nat) (s : State) (r : Running) (rest : List Running), (getTile s n).running = r :: rest →
    (cycOfCl s (n / 4) < r.started + 100 → exec (.passDeliver n) s = .next s)
    ∧ (r.started + 100 ≤ cycOfCl s (n / 4) → ∃ t, exec (.passDeliver n) s = .next t ∧ MemKept s t
        ∧ getTile t n = { getTile s n with acc := (passResult (getTile s n).acc r).1, running := rest }))
  ∧ (∀ (a : NMap (BitVec 32)) (r : Running) (i j : Nat), r.rowsA ≤ 64 → r.rowsB ≤ 64 → r.pass.acc ≤ 1 → i < 64 → j < 64 →
    (i < r.rowsA → j < r.rowsB → look 0 (passResult a r).1 (4096 * r.pass.acc + 64 * i + j) =
      (passElem (pfxFD r.pass.pfx) (pfxSat r.pass.pfx) (look 0 a (4096 * r.pass.acc + 64 * i + j))
        (rowValues (pfxFA r.pass.pfx) (min (passWidth (pfxFA r.pass.pfx)) (min r.colsA r.colsB)) (pfxSS r.pass.pfx = 1) (r.a.getD i 0)
          ((r.scaleA.drop (4 * i)).take 4))
        (rowValues (pfxFB r.pass.pfx) (min (passWidth (pfxFA r.pass.pfx)) (min r.colsA r.colsB)) (pfxSS r.pass.pfx = 1) (r.b.getD j 0)
          ((r.scaleB.drop (4 * j)).take 4))).1)
    ∧ ((r.rowsA ≤ i ∨ r.rowsB ≤ j) → look 0 (passResult a r).1 (4096 * r.pass.acc + 64 * i + j) = look 0 a (4096 * r.pass.acc + 64 * i + j))
    ∧ (∀ x, (x < 4096 * r.pass.acc ∨ 4096 * r.pass.acc + 4096 ≤ x) → look 0 (passResult a r).1 x = look 0 a x))

/-- Accumulators (R305, R306): acczero clears one, accrd reads a half-row into a vector in
2 cycles, accwr writes one from a vector, accepi reads one scaled
by alpha and converted under the prefix; each waits for the passes into its accumulator to deliver.
Log entry 28 is the model's own reading in it. -/
def Obligations.Accumulators : Prop :=
  (∀ (f : FmtX) (s : State) (x : Tile), x = getTile s (tileOfCore s.cur) → resetWait x = false → accBusy x f.acc.toNat = false →
    (ready (.acczero f) s = true →
      ∃ t, exec (.acczero f) s = .next t ∧ MemKept s t
        ∧ (∀ k, k < 4096 → look 0 (getTile t (tileOfCore s.cur)).acc (4096 * f.acc.toNat + k) = 0)
        ∧ (∀ k, (k < 4096 * f.acc.toNat ∨ 4096 * f.acc.toNat + 4096 ≤ k) → look 0 (getTile t (tileOfCore s.cur)).acc k = look 0 x.acc k))
    ∧ (ready (.accrd f) s = true → vecReady s [] (some f.d) = true →
      ∃ v, exec (.accrd f) s = .next (goesOn (.accrd f) s (writeV s f.d v 2 true))
        ∧ ∀ j, j < 32 → elem 32 j v =
            (look 0 x.acc (halfRow f.acc.toNat (if f.sub = 1#4 then ((readS s f.a).extractLsb' 0 7).toNat else f.imm8.toNat) + j)).toNat)
    ∧ (ready (.accwr f) s = true → vecReady s [f.a] none = true →
      ∃ t h, exec (.accwr f) s = .next t ∧ MemKept s t
        ∧ h = halfRow f.acc.toNat (if f.sub = 1#4 then ((readS s f.d).extractLsb' 0 7).toNat else f.imm8.toNat)
        ∧ (∀ j, j < 32 → (look 0 (getTile t (tileOfCore s.cur)).acc (h + j)).toNat = elem 32 j (readV s f.a).2)
        ∧ (∀ k, (k < h ∨ h + 32 ≤ k) → look 0 (getTile t (tileOfCore s.cur)).acc k = look 0 x.acc k))
    ∧ (∀ ps cs fl seed, ready (.accepi f) s = true → vecReady s [] (some f.d) = true →
      ps = (List.range 32).map (fun j => mulV (decodeElem 10 ((readS s f.a).extractLsb' 0 32).toNat)
        (decodeElem (pfxFA (ctxOf s).pfx) (look 0 x.acc (halfRow f.acc.toNat f.imm8.toNat + j)).toNat)) →
      roundList (pfxFD (ctxOf s).pfx) (activeRM (ctxOf s)) (pfxSat (ctxOf s).pfx) (ctxOf s).seed (ps.map (·.1)) = (cs, fl, seed) →
      ∃ v lat, exec (.accepi f) s = .next (goesOn (.accepi f) s
          (writeV (orFlags (modCtx s fun c => { c with seed := seed }) (fl.or { nv := ps.any (·.2) })) f.d v lat true))
        ∧ v = ofElems (fmtWidth (pfxFD (ctxOf s).pfx)) cs))
  ∧ (∀ (f : FmtX) (s : State) (i : Instr), i ∈ [Instr.acczero f, .accrd f, .accwr f, .accepi f] → ready i s = true →
    resetWait (getTile s (tileOfCore s.cur)) = false → accBusy (getTile s (tileOfCore s.cur)) f.acc.toNat = true → exec i s = .next s)

/-- Scales (R140 to R142, R307, R309). sclwait returns SST once the epoch it names is there and ready, or is past, and waits otherwise; a scale
parcel is discarded, and counted, when its epoch is behind, enters its entries into an epoch that stands, and begins a newer one; sclsend
reads its entries from where B points and sends them to a tile, or to every member of a group. -/
def Obligations.Scales : Prop :=
  (∀ (f : FmtX) (s : State) (x : Tile) (d : Nat), ready (.sclwait f) s = true → x = getTile s (tileOfCore s.cur) → resetWait x = false →
    d = ((sideOf x f.ta.toNat).epoch.toNat + 256 - f.imm8.toNat) % 256 →
    (((d = 0 ∧ sideReady x f.ta.toNat = true) ∨ (1 ≤ d ∧ d ≤ 127)) →
      ∃ t, exec (.sclwait f) s = .next t ∧ MemKept s t ∧ WroteScalar s t f.d (BitVec.ofNat 64 ((sideOf x f.ta.toNat).epoch.toNat * 256
        + (if sideReady x f.ta.toNat then 128 else 0) + (sideOf x f.ta.toNat).stale)))
    ∧ ((d = 0 ∧ sideReady x f.ta.toNat = false ∨ 127 < d) → exec (.sclwait f) s = .next s))
  ∧ (∀ (x : Tile) (p : Parcel) (q : SclCtl) (d : Nat), q = sclCtl (p.payload.headD 0) →
    d = (q.epoch + 256 - (sideOf x q.treg).epoch.toNat) % 256 →
    (128 ≤ d → applyScale x p = { x with
      sides := put x.sides q.treg { sideOf x q.treg with stale := min 127 ((sideOf x q.treg).stale + 1) } })
    ∧ (d < 128 → (sideOf (applyScale x p) q.treg).epoch = BitVec.ofNat 8 q.epoch ∧ (∀ k, k ≠ q.treg → sideOf (applyScale x p) k = sideOf x k)
      ∧ (q.row0 + q.nrows ≤ 64 → q.blk0 + q.nb ≤ 4 → ∀ r b, r < 64 → b < 4 →
          ((q.row0 ≤ r ∧ r < q.row0 + q.nrows ∧ q.blk0 ≤ b ∧ b < q.blk0 + q.nb) →
            (sideOf (applyScale x p) q.treg).fill.getLsbD (4 * r + b) = true
            ∧ entryOf (applyScale x p) q.treg r b = ofBytes 16
                (((wordsBytes (p.payload.drop 1)).drop (2 * ((r - q.row0) * q.nb + (b - q.blk0)))).take 2))
          ∧ (¬ (q.row0 ≤ r ∧ r < q.row0 + q.nrows ∧ q.blk0 ≤ b ∧ b < q.blk0 + q.nb) →
            (sideOf (applyScale x p) q.treg).fill.getLsbD (4 * r + b) = (decide (d = 0) && (sideOf x q.treg).fill.getLsbD (4 * r + b))
            ∧ entryOf (applyScale x p) q.treg r b = entryOf x q.treg r b))))
  ∧ (∀ (f : FmtE) (s s1 : State) (q : SclCtl) (bs : List Byte) (k : Nat) (l : Launch), ready (.sclsend f) s = true → myLaunch s = some (k, l) →
    lbw l = true → q = sclCtl (readS s f.a) → q.row0 + q.nrows ≤ 64 → q.blk0 + q.nb ≤ 4 → q.nrows * q.nb ≤ 56 → 1 ≤ q.nrows →
    ((List.range q.nrows).flatMap fun i => (List.range q.nb).map fun j => (i, j)).foldl (fun (r : Res (List Byte)) p => do
        let acc ← r
        let l ← refCheck s (readS s f.b + BitVec.ofNat 64 p.1 * readC s f + BitVec.ofNat 64 (2 * p.2)) 2 2 false
        return acc ++ locRead s l 2) (.ok []) = .ok bs →
    sendRelease s = .ok s1 →
    (f.sub ≠ 1#4 → (4 ≤ ((readS s f.d).extractLsb' 0 4).toNat ∧ ((readS s f.d).extractLsb' 0 4).toNat ≤ 7) →
      ∃ t, exec (.sclsend f) s = .next t ∧ Sent s1 t 3 0x008#12 ((readS s f.d).extractLsb' 0 15).toNat
        ((readS s f.a &&& 0xFFFFFFF000000000#64) :: packWords bs))
    ∧ (∀ g, f.sub = 1#4 → g = groupAt s (myPart s) ((readS s f.d).extractLsb' 0 8).toNat → g.installed = true →
      ∃ t ps, exec (.sclsend f) s = .next t ∧ t.net = s1.net ++ ps ∧ ps.length = g.members.length
        ∧ ∀ p ∈ ps, p.payload = (readS s f.a &&& 0xFFFFFFF000000000#64) :: packWords bs))
  ∧ (∀ (f : FmtE) (s : State), ready (.sclsend f) s = true →
    ((∀ k l, myLaunch s = some (k, l) → lbw l = false) ∨ 64 < (sclCtl (readS s f.a)).row0 + (sclCtl (readS s f.a)).nrows
      ∨ 4 < (sclCtl (readS s f.a)).blk0 + (sclCtl (readS s f.a)).nb ∨ 56 < (sclCtl (readS s f.a)).nrows * (sclCtl (readS s f.a)).nb
      ∨ (sclCtl (readS s f.a)).nrows = 0) →
    exec (.sclsend f) s = .next (trapAt s { code := 0x0016 }))

/-! ## Tasks and parcels that arrive -/
namespace Sys2Proof.Say

/-- The parcels' events with the parcels each is of (R149, R153, R156, R157, R161, R141, R329, R367). -/
def arrivals : List ((Nat → Instr) × (Parcel → Bool)) :=
  [ (.handlerParcel, fun p => hKind p.hdr = 0), (.carriedCodeParcel, fun p => hKind p.hdr = 1),
    (.taggedDataParcel, fun p => hKind p.hdr = 2 && !(4 ≤ hCore p.hdr && hCore p.hdr ≤ 7)),
    (.channelParcel, fun p => hKind p.hdr = 2 && (4 ≤ hCore p.hdr && hCore p.hdr ≤ 7)),
    (.scaleParcel, fun p => hKind p.hdr = 3 && (hTag p.hdr).toNat % 16 = 8),
    (.systemParcel, fun p => hKind p.hdr = 3 && (hTag p.hdr).toNat % 16 = 14),
    (.faultParcel, fun p => hKind p.hdr = 3 && (hTag p.hdr).toNat % 16 = 13 && p.hw) ]
/-- Inbox buffers of a core that parcels hold (R151, R141, R329, R367): those that wait for a task, a tag or a channel, and the system,
fault and scale parcels that wait for frame 7, for the end of a task, or for the end of a leaf reset. -/
def buffers (s : State) (c : Nat) : Nat :=
  ((getCore s c).inbox.filter fun p => !p.soft).length + (getCore s c).sysq.length + ((getCore s c).faultq.filter fun q => q.buf).length
    + (if classOf (idxOf c) = .x then (getTile s (tileOfCore c)).scaleWait.length else 0)
/-- A parcel accepted at its destination: it may arrive, no check drops it, and it is neither stale nor of a launch that has ended. `g` is
the machine with the parcel out of the mesh. -/
def Accepted (s g : State) (n : Nat) (p0 p : Parcel) : Prop :=
  s.net[n]? = some p0 ∧ p = slotted s p0 ∧ mayArrive s n p0 = true ∧ dropCause s p = none ∧ groupStale s p = false
    ∧ g = portDone (takeParcel s n) p ∧ discardEnded g p = none ∧ buffers s (hDestCore p.hdr) < 16

end Sys2Proof.Say

/-- A free core starts the next task (R69, R71): a system task before all else, then a fault task, then class by class the resumed before the
queued. A task that starts has the frame, handle, pc and status of R65 to R73, the launch's parameters and what started it in its registers,
and SEQNO rises; a resumed task finds the L1 empty (R199). The start of a leaf pair attaches the sets reserved for it at the lowest free
handles, in order, with their mask in s2 (R103), which its task finds from the next cycle on (R110), resets the tile, at once or when the
passes of earlier leaves have delivered (R116), and queues the X-side task at the tile's X-core (R73). Log entries 7, 22 and 113 are the model's own
readings in it. -/
def Obligations.TaskStarts : Prop :=
  (∀ (c : Nat) (s : State), ((getCore s c).run.isSome ∨ (getCore s c).halted = true) → exec (.taskStart c) s = .next s)
  ∧ (∀ (c : Nat) (s : State), (getCore s c).run = none → (getCore s c).halted = false → clockRuns s (islandOf (cidOf c)) = true →
    (∀ q rest, (getCore s c).sysq = q :: rest → exec (.taskStart c) s = .next (startOn (modCore s c fun k => { k with sysq := rest }) c q))
    ∧ (∀ q, (getCore s c).sysq = [] → (getCore s c).faultq.find? (canStart s c) = some q →
        exec (.taskStart c) s = .next (startOn (modCore s c fun k => { k with faultq := k.faultq.erase q }) c q))
    ∧ (∀ t, choose s c = some (.resumed t) → exec (.taskStart c) s = .next (restart s c t))
    ∧ (∀ q, choose s c = some (.queued q) → exec (.taskStart c) s =
        .next (spurPump (takeInbox (startOn (modCore s c fun k => { k with runq := k.runq.erase q }) c q) c) (cidOf c)))
    ∧ (choose s c = none → exec (.taskStart c) s = .next s))
  ∧ (∀ (s : State) (c : Nat), (getCore s c).sysq = [] → (getCore s c).faultq.find? (canStart s c) = none →
    choose s c = [3, 2, 1, 0].findSome? (chooseIn s c))
  ∧ (∀ (s : State) (c : Nat) (t : Task), (getCore (restart s c t) c).run = some t
    ∧ (getCore (restart s c t) c).parked = (getCore s c).parked.filter (fun u => u.handle ≠ t.handle)
    ∧ (getCore (restart s c t) c).l1 = [])
  ∧ (∀ (s : State) (c f : Nat) (q : QTask), q.kind ≠ .leafA →
    ∃ t, (getCore (startTask s c q f) c).run = some t ∧ t.kind = q.kind ∧ t.slot = q.slot ∧ t.wp = frameBase c f ∧ t.ctx.pc = q.pc
      ∧ t.handle = mkHandle c f (getCore s c).seqno ∧ t.resumed = false ∧ t.parent = q.parent
      ∧ (q.cls < 4 → t.ctx.status.getLsbD 55 = decide (q.kind = .system))
      ∧ (getCore (startTask s c q f) c).seqno = ((getCore s c).seqno + 1) % 2 ^ 15
      ∧ (∀ i, i < 32 → look 0 (getCore (startTask s c q f) c).store (frameBase c f / 8 + i) =
          look 0 ((match q.slot.bind fun k => launchAt s k with
            | some l => [(1, paramsOf l)]
            | none => []) ++ q.regs) i)
      ∧ (getCore (startTask s c q f) c).parked = (getCore s c).parked ∧ (startTask s c q f).mem = s.mem)
  ∧ (∀ (s : State) (c : Nat) (h : BitVec 32), attachLeaf s c h [] = (s, 0)
    ∧ ∀ n ns b, freeHandle (getCore s c) = some b → attachLeaf s c h (n :: ns) =
        ((attachLeaf (attachSet s c b n (bmEntry false 0 n) (.task h)) c h ns).1,
          2 ^ b + (attachLeaf (attachSet s c b n (bmEntry false 0 n) (.task h)) c h ns).2))
  ∧ (∀ (s u : State) (c f k m x : Nat) (q : QTask) (b : Box) (l : Launch) (r : BoxRec), q.kind = .leafA → q.slot = some k → q.box = some b →
    q.take = none → launchAt s k = some l → getBox l b.name = some r → r.box.name = b.name → idxOf c < 4 →
    attachLeaf s c (mkHandle c f (getCore s c).seqno) r.sets = (u, m) → x = coreNo (cidOf c) (idxOf c + 4) →
    ∃ t xq l' r', (getCore (startTask s c q f) c).run = some t ∧ t.kind = .leafA ∧ t.slot = some k ∧ t.box = some b ∧ t.wp = frameBase c f
      ∧ t.ctx.pc = q.pc ∧ t.handle = mkHandle c f (getCore s c).seqno
      ∧ (∀ i, bmapOf (getCore (startTask s c q f) c) i = bmapOf (getCore u c) i
          ∧ find (getCore (startTask s c q f) c).holders i = find (getCore u c).holders i)
      ∧ (∀ n, getSet (getCl (startTask s c q f) (cidOf c)) n = getSet (getCl u (cidOf c)) n)
      ∧ look 0 (getCore (startTask s c q f) c).store (frameBase c f / 8 + 2) = BitVec.ofNat 64 m
      ∧ (getCore (startTask s c q f) c).ready = cycOf s c + (if m = 0 then 0 else 1)
      ∧ ((getTile s (tileOfCore c)).waiting = none → (getTile s (tileOfCore c)).running = [] →
          getTile (startTask s c q f) (tileOfCore c) = { getTile s (tileOfCore c) with
            pair := some (k, b.name.toNat), rows := [], shapes := [], entries := [], sides := [], acc := [], sems := [], resetDue := false,
            resetEnd := some (cycOfCl s (tileOfCore c / 4) + 64) })
      ∧ (((getTile s (tileOfCore c)).waiting ≠ none ∨ (getTile s (tileOfCore c)).running ≠ []) →
          getTile (startTask s c q f) (tileOfCore c) = { getTile s (tileOfCore c) with
            pair := some (k, b.name.toNat), sems := [], resetDue := true })
      ∧ (getCore (startTask s c q f) x).runq = (getCore s x).runq ++ [xq] ∧ xq.kind = .leafX ∧ xq.slot = some k ∧ xq.box = some b
      ∧ xq.leaf = q.leaf ∧ xq.acq = q.acq
      ∧ xq.pc = codeBase l + ((((l.leaves.getD q.leaf []).getD 0 0).extractLsb' 32 32).setWidth 64)
      ∧ launchAt (startTask s c q f) k = some l' ∧ getBox l' b.name = some r' ∧ r'.phase = .leafRun)

/-- The other events of tasks. An idle A-core takes a leaf from the A-core of its cluster with the most, and none where that core itself starts the
leaf in this cycle (R74); the slot it frees there is taken in its turn (R70); a task whose budget is spent
takes TASK_OVERRUN at the boundary, with the budget in AUX0 (R72, R365), where no race found earlier is due there (R416); a task parked longer than the partition allows aborts its launch,
unless a breakpoint parked it (R368, R370). Log entry 7 is the model's own reading in it: an event that is not due leaves the state as it
was. -/
def Obligations.TaskEvents : Prop :=
  (∀ (c v cls : Nat) (q : QTask) (s : State), idxOf c ≤ 3 → idleA s c = true → v = coreNo (cidOf c) (victimOf s (cidOf c) (idxOf c)) → c ≠ v →
    cls ≤ 3 → (stealable s v).find? (fun x => x.cls = cls) = some q → (∀ k, cls < k → k ≤ 3 → (stealable s v).find? (fun x => x.cls = k) = none) →
    ownerStarts s v q = false → ∃ t, exec (.leafSteal c) s = .next (spurPump (takeInbox t v) (cidOf c))
      ∧ (getCore t c).runq = [q] ∧ (getCore t v).runq = (getCore s v).runq.erase q ∧ t.mem = s.mem
      ∧ ∀ d, d ≠ c → d ≠ v → getCore t d = getCore s d)
  ∧ (∀ (c : Nat) (s : State), (3 < idxOf c ∨ idleA s c = false) → exec (.leafSteal c) s = .next s)
  ∧ (∀ (c v cls : Nat) (q : QTask) (s : State), v = coreNo (cidOf c) (victimOf s (cidOf c) (idxOf c)) → cls ≤ 3 →
    (stealable s v).find? (fun x => x.cls = cls) = some q → (∀ k, cls < k → k ≤ 3 → (stealable s v).find? (fun x => x.cls = k) = none) →
    ownerStarts s v q = true → exec (.leafSteal c) s = .next s)
  ∧ (∀ (c : Nat) (s : State) (t : Task), (getCore s c).run = some t → t.kind ≠ .system → t.ctx.budget = 0#32 → t.mmxNext = none →
    atBoundary (getCore s c) = true →
    (getCore s c).halted = false → clockRuns s (islandOf (cidOf c)) = true →
    ∃ u, exec (.taskOverrun c) s = .next { trapAt { s with cur := c } { code := 0x0040, aux0 := u } with cur := s.cur }
      ∧ (∀ k l, t.slot = some k → launchAt s k = some l → u = l.budget.setWidth 64))
  ∧ (∀ (c : Nat) (s : State), (∀ t, (getCore s c).run = some t → t.kind = .system ∨ t.ctx.budget ≠ 0#32 ∨ t.mmxNext ≠ none) → exec (.taskOverrun c) s = .next s)
  ∧ (∀ (c k : Nat) (h : BitVec 32) (s : State) (t : Task) (l : Launch), parkedNamed s c h = some t → t.slot = some k → launchAt s k = some l →
    (l.state = .running → t.debug = false → (partWord s l.part 10).toNat < l.runNs - t.parkAt →
      exec (.parkTimeout c h) s = .next (abortLaunch s k 0x0042 h false))
    ∧ ((l.state ≠ .running ∨ t.debug = true ∨ l.runNs - t.parkAt ≤ (partWord s l.part 10).toNat) → exec (.parkTimeout c h) s = .next s))

/-- Parcels at their destinations (R149 to R161, R170, R171, R329, R367). Parcels of a class between two cores arrive in the order they were
sent, and while one waits there none of a lower class is taken; one that fails a check of R170 is dropped with its cause; one that finds no
free buffer of the sixteen waits where it is. A handler parcel of an enabled tag and a
carried-code parcel become tasks in the run queue while it holds fewer than 32; tagged data goes to the receive that admits it, to the recvx that waits, to the overflow
queue, or, when that is full, is dropped, but not before a receive that its core posts in the same cycle; at an X-core it goes to its
channel; a scale parcel waits at its tile for the end of the cycle, or of the leaf reset that runs; a system
parcel queues a system task at SYSENT and starts a halted core again; a fault parcel of a launch that holds its clusters queues a fault task, with
the class and the box of the task it serves (R243, R367), or aborts a launch that has no handler.
Log entries 7, 13 and 15 are the model's own readings in it. -/
def Obligations.Arrivals : Prop :=
  (∀ row ∈ arrivals, ∀ (n : Nat) (s : State) (p : Parcel), s.net[n]? = some p →
    ((row.2 p = false ∨ mayArrive s n p = false) → exec (row.1 n) s = .next s)
    ∧ (∀ cause, row.2 p = true → mayArrive s n p = true → (hKind p.hdr = 2 → isXCore p = false → postsFirst s (hDestCore p.hdr) = false) →
        dropCause s (slotted s p) = some cause →
        exec (row.1 n) s = .next (joined (dropParcel s n (slotted s p) cause) (slotted s p)))
    ∧ (row.2 p = true → mayArrive s n p = true → (hKind p.hdr = 2 → isXCore p = false → postsFirst s (hDestCore p.hdr) = false) →
        dropCause s (slotted s p) = none → groupStale s (slotted s p) = false →
        discardEnded (portDone (takeParcel s n) (slotted s p)) (slotted s p) = none →
        16 ≤ buffers s (hDestCore (slotted s p).hdr) → exec (row.1 n) s = .next { s with net := setNth s.net n { p with waits := true } }))
  ∧ (∀ (s : State) (n : Nat) (p : Parcel), mayArrive s n p = true ↔
      (∀ q ∈ s.net.take n, ¬ (hClass q.hdr = hClass p.hdr ∧ q.src = p.src ∧ hDest q.hdr = hDest p.hdr))
      ∧ (∀ q ∈ s.net, q.waits = true → hDest q.hdr = hDest p.hdr → hClass q.hdr ≤ hClass p.hdr))
  ∧ (∀ (n c : Nat) (s g : State) (p0 p : Parcel), Accepted s g n p0 p → c = hDestCore p.hdr →
    (hKind p0.hdr = 0 → exec (.handlerParcel n) s = .next (joined (if startsTasks g c then takeInbox (toInbox g c p) c else toInbox g c p) p))
    ∧ (hKind p0.hdr = 1 → exec (.carriedCodeParcel n) s = .next (joined (if startsTasks g c then takeInbox (toInbox g c p) c else toInbox g c p) p))
    ∧ (hKind p0.hdr = 2 → isXCore p0 = false → postsFirst s c = false →
      (∀ r, (getCore g c).recvs.find? (fun r => admits r p) = some r →
        exec (.taggedDataParcel n) s = .next (joined (deliver (modCore g c fun k => { k with recvs := k.recvs.erase r }) c r p) p))
      ∧ ((getCore g c).recvs.find? (fun r => admits r p) = none →
        ((getCore g c).run.isSome → (getCore g c).wait = some (.recv (hTag p.hdr) none) →
          exec (.taggedDataParcel n) s = .next (joined (modCore g c fun k => { k with wait := some (.recv (hTag p.hdr) (some p)) }) p))
        ∧ (¬ ((getCore g c).run.isSome = true ∧ (getCore g c).wait = some (.recv (hTag p.hdr) none)) → (getCl g (cidOf c)).overflow.length < 64 →
          exec (.taggedDataParcel n) s = .next (joined (modCl g (cidOf c) fun x => { x with overflow := x.overflow ++ [p] }) p))
        ∧ (¬ ((getCore g c).run.isSome = true ∧ (getCore g c).wait = some (.recv (hTag p.hdr) none)) → 64 ≤ (getCl g (cidOf c)).overflow.length →
          exec (.taggedDataParcel n) s = .next (joined (reportDrop g p 0) p))))
    ∧ (hKind p0.hdr = 2 → isXCore p0 = true → exec (.channelParcel n) s = .next (joined (fillChannels (toInbox g c p) c) p))
    ∧ (hKind p0.hdr = 3 → (hTag p0.hdr).toNat % 16 = 8 → exec (.scaleParcel n) s = .next (joined (modTile g (tileOfCore c) fun x =>
        { x with scaleWait := x.scaleWait ++ [p] }) p))
    ∧ (hKind p0.hdr = 3 → (hTag p0.hdr).toNat % 16 = 14 →
      ∃ q u, exec (.systemParcel n) s = .next (joined u p) ∧ (getCore u c).sysq = (getCore g c).sysq ++ [q] ∧ (getCore u c).halted = false
        ∧ q.kind = .system ∧ q.slot = none ∧ q.pc = (getCore g c).sysent &&& ~~~7#64 ∧ look 0 q.regs 2 = p.hdr
        ∧ (∀ i, i < p.payload.length → look 0 q.regs (16 + i) = p.payload.getD i 0) ∧ u.mem = g.mem)
    ∧ (∀ k l, hKind p0.hdr = 3 → (hTag p0.hdr).toNat % 16 = 13 → p0.hw = true → k = hSlot p.hdr → launchAt g k = some l →
      (engineHeld l = true → faulth l ≠ 0xFFFFFFFF#32 →
        exec (.faultParcel n) s = .next (joined (modCore g c fun x => { x with faultq := x.faultq ++ [faultOf g c k l p] }) p))
      ∧ (engineHeld l = true → faulth l = 0xFFFFFFFF#32 →
        exec (.faultParcel n) s = .next (joined (abortLaunch g k (recCode (recOfWords p.payload)) p.parent true) p))
      ∧ (engineHeld l = false → exec (.faultParcel n) s = .next (joined g p))))
  ∧ (∀ l : Launch, engineHeld l = true ↔ (l.state = .running ∨ l.state = .draining ∨ l.state = .saving ∨ l.state = .restoring
      ∨ (l.state = .waiting ∧ l.bwPending = true)))
  ∧ (∀ (s : State) (c k : Nat) (l : Launch) (p : Parcel), (faultOf s c k l p).kind = .fault ∧ (faultOf s c k l p).slot = some k
    ∧ (faultOf s c k l p).serves = p.serves ∧ (∀ j, j < 8 → look 0 (faultOf s c k l p).regs (16 + j) = p.payload.getD j 0)
    ∧ (∀ i pl, p.serves = some i → placeOf l i = some pl → (faultOf s c k l p).cls = pl.cls
        ∧ (faultOf s c k l p).box = if isTree pl.kind then boxNamed l pl.name else none)
    ∧ (p.serves = none → (faultOf s c k l p).cls = hClass p.hdr ∧ (faultOf s c k l p).box = p.fbox))
  ∧ (∀ (s : State) (n : Nat) (p : Parcel), s.net[n]? = some p → postsFirst s (hDestCore p.hdr) = true → exec (.taggedDataParcel n) s = .next s)
  ∧ (∀ (s : State) (c : Nat), postsFirst s c = true ↔ ∃ f, wouldIssue s c = some (.recvp f))
  ∧ (∀ (s : State) (c : Nat), 32 ≤ (getCore s c).runq.length → takeInbox s c = s)
  ∧ (∀ (s : State) (c : Nat) (p : Parcel), (getCore s c).inbox = [p] → p.soft = false → (getCore s c).runq.length < 32 →
    (hKind p.hdr = 0 → tagEN (tagOf (getCore s c) ((hTag p.hdr).toNat % 256)) = true →
      (getCore (takeInbox s c) c).runq = (getCore s c).runq ++ [handlerTask s c p] ∧ (getCore (takeInbox s c) c).inbox = [])
    ∧ (hKind p.hdr = 0 → tagEN (tagOf (getCore s c) ((hTag p.hdr).toNat % 256)) = false → takeInbox s c = s)
    ∧ (hKind p.hdr = 1 → (getCore (takeInbox s c) c).runq = (getCore s c).runq ++ [carriedTask s c p]))

/-! ## Launches, boxes, records, the memory path -/

/-- Submission (R22 to R26, R334 to R336, R374). A launch parcel's header address goes to slot RTAIL mod RNENT of its queue's ring, and RTAIL
rises, as it stands in the queue's descriptor; with no such queue it is dropped with cause 10, and with no room it waits, as does one that comes
after one that waits. At a reported atomic, an RTAIL beyond what the ring holds is QUEUE_OVERRUN and stops the queue; else it makes its
submissions. Admission lets in the parcels that wait, then takes the entry at RHEAD: the launch waits for its region, or is done with the
status of the first check of R26 it fails; rows 1, 5 and 10 hold every one of the sixteen rule entries to them. Log entries 7, 23 and 83 are the
model's own readings in it. -/
def Obligations.Submission : Prop :=
  (∀ (n p q : Nat) (s v : State) (x : Parcel), s.net[n]? = some x → hKind x.hdr = 3 → (hTag x.hdr).toNat % 16 = 15 → mayArrive s n x = true →
    x.badHdr = 0 → (p, q) = parcelQueue x → v = queueRead s p q →
    (queueOk v p q = false → exec (.launchParcel n) s = .next (joined (dropParcel v n x 10) x))
    ∧ (queueOk v p q = true → (∃ y ∈ v.disp.held, parcelQueue y = (p, q)) → ∃ u, u = portDone (takeParcel v n) x
        ∧ exec (.launchParcel n) s = .next (joined { u with disp := { u.disp with held := u.disp.held ++ [x] } } x))
    ∧ (queueOk v p q = true → (∀ y ∈ v.disp.held, parcelQueue y ≠ (p, q)) →
      (∀ u, enqueue (portDone (takeParcel v n) x) p q (x.payload.getD 1 0) = (u, .done) → exec (.launchParcel n) s = .next (joined u x))
      ∧ (∀ u, enqueue (portDone (takeParcel v n) x) p q (x.payload.getD 1 0) = (u, .full) →
          exec (.launchParcel n) s = .next (joined { u with disp := { u.disp with held := u.disp.held ++ [x] } } x))
      ∧ (∀ u, enqueue (portDone (takeParcel v n) x) p q (x.payload.getD 1 0) = (u, .bad) →
          exec (.launchParcel n) s = .next (joined (reportDrop u x 10) x))))
  ∧ (∀ (s v : State) (p q t : Nat) (a : Word) (r : ResQ), s.disp.stopped.contains (p, q) = false → resident s p q = some r →
    v = queueRead s p q → t = mem32 v (queueAt v p q + 24) →
    (r.rnent ≤ (t + 2 ^ 32 - r.rhead) % 2 ^ 32 → enqueue s p q a = (v, .full))
    ∧ (∀ u, (t + 2 ^ 32 - r.rhead) % 2 ^ 32 < r.rnent → unitWrite v p (r.rbase + 8 * (t % r.rnent)) (bytesOf 8 a) = (u, true) →
      enqueue s p q a = (setQueue (queueWrite u p q 24 ((t + 1) % 2 ^ 32)) { r with rtail := (t + 1) % 2 ^ 32 }, .done)))
  ∧ (∀ (s : State) (p q n : Nat), queueAt s p q + 28 ≤ 2 ^ 40 → mem32 (queueWrite s p q 24 n) (queueAt s p q + 24) = n % 2 ^ 32)
  ∧ (∀ (n t : Nat) (s s0 : State) (m : Report) (r : ResQ), s.reports[n]? = some m →
    s0 = queueRead { s with reports := s.reports.eraseIdx n } m.part m.q →
    s0.disp.stopped.contains (m.part, m.q) = false → queueOk s0 m.part m.q = true → resident s0 m.part m.q = some r →
    t = mem32 s0 (queueAt s0 m.part m.q + 24) →
    (r.rnent < (t + 2 ^ 32 - r.rhead) % 2 ^ 32 →
      ∃ u, exec (.queueSubmit n) s = .next u ∧ u.disp.stopped.contains (m.part, m.q) = true)
    ∧ ((t + 2 ^ 32 - r.rhead) % 2 ^ 32 ≤ r.rnent → pendingIn r < (t + 2 ^ 32 - r.rhead) % 2 ^ 32 →
      exec (.queueSubmit n) s = .next (setQueue s0 { r with rtail := t }))
    ∧ ((t + 2 ^ 32 - r.rhead) % 2 ^ 32 ≤ r.rnent → (t + 2 ^ 32 - r.rhead) % 2 ^ 32 ≤ pendingIn r → exec (.queueSubmit n) s = .next s0))
  ∧ (∀ (p q : Nat) (s : State), ((∀ x ∈ s.disp.held, parcelQueue x ≠ (p, q)) → pumpQueue s p q = s)
    ∧ ∀ r, resident s p q = some r → loadQueue s p q = (s, r))
  ∧ (∀ (p q k a : Nat) (s s0 s1 s2 s3 : State) (r : ResQ) (h : List Word), freeLaunchSlot s = some k →
    s.disp.stopped.contains (p, q) = false →
    ((resident s p q).isSome = true ∨ (p, q) ∈ s.disp.swapped ∨ ∃ x ∈ s.disp.held, parcelQueue x = (p, q)) →
    loadQueue (pumpQueue s p q) p q = (s0, r) → pendingIn r ≠ 0 → takeEntry s0 r = (s1, a) → readHeader s1 p a = (s2, some h) →
    (∀ ls, admitCheck s2 r (bareLaunch p q a h) = (s3, .ok ls) → exec (.admission p q) s = .next (admitLaunch s3 k r (bareLaunch p q a h) ls)
      ∧ ∃ l, launchAt (admitLaunch s3 k r (bareLaunch p q a h) ls) k = some l ∧ l.state = .waiting ∧ l.part = p ∧ l.q = q ∧ l.hdrAddr = a
        ∧ l.hdr = h ∧ l.leaves = ls ∧ l.tenant = r.ten)
    ∧ (∀ stat, admitCheck s2 r (bareLaunch p q a h) = (s3, .error stat) →
      exec (.admission p q) s = .next (refuseAdmission s3 k stat (bareLaunch p q a h))))
  ∧ (∀ (l : Launch) (ls : List (List Word)) (i : Nat), i < 16 →
    ((ruleEntry l i).extractLsb' 8 2 ≠ 0#2 → row1 l = false) ∧ (2 ^ naxes l ≤ ruleFmask l i → row5 l ls = false)
    ∧ (nleaves l ≠ 0 → nleaves l ≤ ruleDleaf l i → row5 l ls = false)
    ∧ (∀ a, a < naxes l → (ruleFmask l i).testBit a = true → roleOf l a = 3 → grainOf l a < (rootAxis l a).ext.toNat → detOk l = false))
  ∧ (∀ (p q : Nat) (s : State), (freeLaunchSlot s = none ∨ s.disp.stopped.contains (p, q) = true) → exec (.admission p q) s = .next s)

/-- A launch's regions and slices (R143, R337, R338, R340, R410). A waiting launch whose region is free, with none considered first that could
take its own, takes it and runs once it has its bellwether sets: where b15 is free at every cluster it holds the region, each cluster with a
free set attaches it there, resident and cleared, and the others are waited for; where b15 is taken at one the launch ends with
HDR_INVALID. At class 3 a launch displaces the lower holders. A slice that ends displaces the
launch where one of its class or a higher one needs its clusters, else begins anew; a launch whose root is to retire in that cycle is not
displaced; a displaced launch drains, its unstarted tree tasks withdrawn and the sets reserved for unstarted leaves given up (R352); once it is quiet it saves, a system parcel going to the cluster core of every cluster.
Log entries 31, 32, 33, 34, 35, 57, 69 and 90 are the model's own readings in it; an event that is not due is entry 7's. -/
def Obligations.Regions : Prop :=
  (∀ (k : Nat) (s : State) (l : Launch), launchAt s k = some l → l.state = .waiting → l.bwPending = false →
    (allFree s (lclusters l) = true → firstClaim s k l (lclusters l) = true → exec (.regionTake k) s = .next s)
    ∧ (allFree s (lclusters l) = true → firstClaim s k l (lclusters l) = false → lbw l = false →
      exec (.regionTake k) s = .next (startRun ((lclusters l).foldl (fun u cid => modCl u cid fun x => { x with holder := some k }) s) k))
    ∧ (allFree s (lclusters l) = true → firstClaim s k l (lclusters l) = false → lbw l = true → (lclusters l).any (bwTaken s) = true →
      exec (.regionTake k) s = .next (dropLaunch (refuseAdmission s k 1 l) k))
    ∧ (allFree s (lclusters l) = true → firstClaim s k l (lclusters l) = false → lbw l = true → (lclusters l).any (bwTaken s) = false →
      exec (.regionTake k) s = .next (bwStep ((lclusters l).foldl (fun u cid => modCl u cid fun x => { x with holder := some k }) s) k))
    ∧ (allFree s (lclusters l) = false → lclass l ≠ 3 → exec (.regionTake k) s = .next s)
    ∧ (∀ j, allFree s (lclusters l) = false → lclass l = 3 → ((lclusters l).filterMap fun cid => (getCl s cid).holder).eraseDups = [j] →
      (∀ h, launchAt s j = some h → lclass h < 3) →
      ((∀ h, launchAt s j = some h → rootDue s j h = false) → exec (.regionTake k) s = .next (startDrain s j))
      ∧ (∀ h, launchAt s j = some h → rootDue s j h = true → exec (.regionTake k) s = .next s))
    ∧ (allFree s (lclusters l) = false → lclass l = 3 →
      exec (.regionTake k) s = .next ((((lclusters l).filterMap fun cid => (getCl s cid).holder).eraseDups).foldl (fun u j =>
        match launchAt u j with
        | some h => if lclass h < 3 ∧ rootDue u j h = false then startDrain u j else u
        | none => u) s)))
  ∧ (∀ (k : Nat) (s : State) (l : Launch), launchAt s k = some l → ∃ l', launchAt (startRun s k) k = some l' ∧ l'.state = .running ∧ l'.hdr = l.hdr)
  ∧ (∀ (k : Nat) (s : State) (l : Launch), launchAt s k = some l → l.state = .waiting → l.bwPending = true →
    exec (.regionTake k) s = .next (bwStep s k))
  ∧ (∀ (k : Nat) (s u : State) (l : Launch), launchAt s k = some l → lbw l = true →
    u = (lclusters l).foldl (fun u cid => bwAttach u k cid) s →
    ((∀ cid ∈ lclusters l, bwHas u k cid = true) → bwStep s k = startRun u k)
    ∧ ((∃ cid ∈ lclusters l, bwHas u k cid = false) → bwStep s k = modLaunch u k fun x => { x with bwPending := true }))
  ∧ (∀ (k cid : Nat) (s : State), (bwHas s k cid = true ∨ freeSets (getCl s cid) = []) → bwAttach s k cid = s)
  ∧ (∀ (k cid n : Nat) (rest : List Nat) (s t : State), bwHas s k cid = false → freeSets (getCl s cid) = n :: rest → t = bwAttach s k cid →
    bwHas t k cid = true ∧ bmapOf (getCore t (coreNo cid 8)) 15 = bmEntry true 2 n
      ∧ (getSet (getCl t cid) n).use = .attached (coreNo cid 8) 15 ∧ (∀ i, setByte (getSet (getCl t cid) n) i = 0)
      ∧ MemKept s t ∧ (∀ c, c ≠ coreNo cid 8 → getCore t c = getCore s c) ∧ ∀ m, m ≠ n → getSet (getCl t cid) m = getSet (getCl s cid) m)
  ∧ (∀ (k t : Nat) (s : State) (l : Launch), launchAt s k = some l → l.sliceEnd = some t → l.state = .running →
    (s.clk.ns < t → exec (.sliceEnd k) s = .next s)
    ∧ (t ≤ s.clk.ns → (∃ e ∈ s.launches, wantsRegion e.2 = true ∧ lclass l ≤ lclass e.2 ∧ overlaps (lclusters e.2) (lclusters l) = true) →
      (rootDue s k l = false → exec (.sliceEnd k) s = .next (startDrain s k)) ∧ (rootDue s k l = true → exec (.sliceEnd k) s = .next s))
    ∧ (t ≤ s.clk.ns → (∀ e ∈ s.launches, ¬ (wantsRegion e.2 = true ∧ lclass l ≤ lclass e.2 ∧ overlaps (lclusters e.2) (lclusters l) = true)) →
      exec (.sliceEnd k) s = .next (setLaunch s k { l with sliceEnd := newSlice s l })))
  ∧ (∀ (k : Nat) (s : State) (l : Launch), launchAt s k = some l → l.state = .running →
    (∃ l', launchAt (startDrain s k) k = some l' ∧ l'.state = .draining ∧ l'.sliceEnd = none)
    ∧ (∀ c ∈ regionCores l, (getCore (startDrain s k) c).runq = (getCore s c).runq.filter fun q =>
        !(q.slot = some k && (q.kind = .rule || q.kind = .join || q.kind = .leafA)))
    ∧ (∀ r : BoxRec, BoxesNamed l → getBox l r.box.name = some r → r.phase = .leafReserved →
      (∀ c ∈ regionCores l, ∀ q ∈ (getCore s c).runq, q.slot = some k → (q.kind = .rule ∨ q.kind = .join) →
        ∀ b, q.box = some b → b.name ≠ r.box.name) →
      (∃ l', launchAt (startDrain s k) k = some l'
        ∧ getBox l' r.box.name = some { r with phase := .leafWait, sets := [], running := 0, queued := false })
      ∧ ∀ n ∈ r.sets, (getSet (getCl (startDrain s k) r.cid) n).use = .free))
  ∧ (∀ (k : Nat) (s : State) (l : Launch) (r : BoxRec), launchAt s k = some l → getBox l r.box.name = some r → r.phase = .leafReserved →
    (∃ l', launchAt (unreserveLeaf s k r.box.name) k = some l'
      ∧ getBox l' r.box.name = some { r with phase := .leafWait, sets := [], running := 0, queued := false })
    ∧ ∀ n ∈ r.sets, (getSet (getCl (unreserveLeaf s k r.box.name) r.cid) n).use = .free)
  ∧ (∀ (k : Nat) (s : State) (l : Launch), launchAt s k = some l → l.state = .draining → quiet s k l = true →
    ∃ t, exec (.quiescence k) s = .next t ∧ launchAt t k = some { l with state := .saving } ∧ t.net = s.net ++ (lclusters l).map (saveParcel k)
      ∧ ∀ cid, cid < 576 → hDestCore (saveParcel k cid).hdr = coreNo cid 8 ∧ (saveParcel k cid).payload = [BitVec.ofNat 64 k])
  ∧ (∀ (k : Nat) (s : State) (l : Launch), launchAt s k = some l → (l.state ≠ .draining ∨ quiet s k l = false) → exec (.quiescence k) s = .next s)

/-- Saving, restoring and replaying (R337, R341 to R348, R410). When the region's save routines have ended, every cluster's area is written
to the save block, and the launch is Saved and its region free; a saved launch whose region, shifted or not, is free is restored from it, its
clusters taken, as soon as they have the sets: the sets, tasks, tiles, boxes and stores of every area are put back, fault tasks that were due
are queued, the spur engines go on, and the launch runs; where a frame that a task record names is still taken it is not restored yet. A
launch whose digest did not match runs again as a replay on its lowest cluster once it is quiet, with a bellwether set of its own where
it asks for one, and ends with HDR_INVALID where that cluster's b15 is taken. Log entries 37, 38, 42, 97 and 114 are the model's own
readings in it; an event that is not due is entry 7's. -/
def Obligations.SaveAndRestore : Prop :=
  (∀ (k : Nat) (s s1 : State) (l l1 : Launch), launchAt s k = some l → l.state = .saving → saversDone s l = true →
    writeAreas k (lclusters l) s = (s1, .ok ()) → launchAt s1 k = some l1 → exec (.saveComplete k) s = .next (finishSave s1 k l1))
  ∧ (∀ (k : Nat) (s s1 s2 : State) (l : Launch) (b : List Byte), launchAt s k = some l → unitTake s l.part (savePtr l) 128 = (s1, some b) →
    unitStore s1 l.part (savePtr l) (saveHeader 2 (le b 8 8) (le b 16 8) (regionWord l) (le b 28 2) (min l.drops 0xFFFF) (launchFsum l)
      (timeNow s1) l.ids) = (s2, true) →
    (∀ cid ∈ lclusters l, (getCl (finishSave s k l) cid).holder = none) ∧ (finishSave s k l).disp.saves = s2.disp.saves + 1
    ∧ ∀ l2, launchAt s2 k = some l2 → ∃ l3, launchAt (finishSave s k l) k = some l3 ∧ l3.state = .saved ∧ l3.savedAt = s2.disp.saves + 1
        ∧ l3.hdr = l2.hdr)
  ∧ (∀ (k : Nat) (s : State) (l : Launch), launchAt s k = some l → (l.state ≠ .saving ∨ saversDone s l = false) →
    exec (.saveComplete k) s = .next s)
  ∧ (∀ (k : Nat) (sh : Shift) (s s1 : State) (l : Launch) (h : List Byte) (as : List Area) (dest : List Nat), launchAt s k = some l →
    l.state = .saved → dest = regionClusters l.region (l.dx + sh.dx) (l.dy + sh.dy) → shiftOk s l sh = true → allFree s dest = true →
    firstClaim s k l dest = false → readBlock s l = (s1, some (h, as)) → ((sh.dx = 0 ∧ sh.dy = 0) ∨ ∀ a ∈ as, a.tasks = []) →
    framesReady s1 sh as = true →
    exec (.restore k sh) s = .next (goRestore (dest.foldl (fun u cid => modCl u cid fun x =>
        { x with holder := some k, stopped := x.stopped ++ [k] })
      (setLaunch s1 k { l with state := .restoring, dx := l.dx + sh.dx, dy := l.dy + sh.dy })) k sh h as))
  ∧ (∀ (k : Nat) (sh : Shift) (s s1 : State) (l : Launch) (h : List Byte) (as : List Area), launchAt s k = some l → l.state = .saved →
    shiftOk s l sh = true → allFree s (regionClusters l.region (l.dx + sh.dx) (l.dy + sh.dy)) = true → readBlock s l = (s1, some (h, as)) →
    framesReady s1 sh as = false → exec (.restore k sh) s = .next s)
  ∧ (∀ (s : State) (sh : Shift) (as : List Area), framesReady s sh as = false ↔
    ∃ a ∈ as, ∃ b ∈ a.tasks, frameBusy s (recCore (movedCl sh.dx sh.dy a.cid) b) (frameOfHandle (BitVec.ofNat 32 (le b 64 4))) = true)
  ∧ (∀ (s : State) (k : Nat) (sh : Shift) (h : List Byte) (as : List Area),
    (setsReady s sh as = false → goRestore s k sh h as = s) ∧ (setsReady s sh as = true → goRestore s k sh h as = restoreAll s k sh h as))
  ∧ (∀ (s s1 s2 s3 : State) (k : Nat) (sh : Shift) (h : List Byte) (as : List Area) (l : Launch), launchAt s k = some l →
    s1 = as.foldl (fun u a => restoreArea u k l sh a) s →
    unitStore s1 l.part (savePtr l) (saveHeader 3 (le h 8 8) 128 (le h 24 4) 0 (le h 30 2) (recWord h 32) (recWord h 40) (le h 48 8)) = (s2, true) →
    s3 = modLaunch s2 k (fun x =>
      { x with state := .running, sliceEnd := newSlice s2 x, left := [], kept := [], handles := [] }) → dueAbort s3 k l = none →
    restoreAll s k sh h as = (lclusters l).foldl (fun u cid => restartCluster u k l.left sh cid) s3
    ∧ ∀ l2, launchAt s2 k = some l2 → ∃ l3, launchAt s3 k = some l3 ∧ l3.state = .running ∧ l3.boxes = l2.boxes)
  ∧ (∀ (s : State) (k : Nat) (l : Launch) (sh : Shift) (a : Area) (cid : Nat), cid = movedCl sh.dx sh.dy a.cid →
    restoreArea s k l sh a = a.cores.foldl (fun u b => restoreCore u k cid l.left a.cid b)
      (loadBoxes ((clusterCores cid).foldl (fun u c => resetStore u c [])
        (a.tiles.foldl (fun u b => restoreTile u k cid b)
          (a.tasks.foldl (fun u b => placeTask u (some k) (recCore cid b) b)
            (a.sets.foldl (fun u b => restoreSet u k cid l.left a.cid b) s)))) k cid (a.boxes.map (bytesWords 48))))
  ∧ (∀ (s t : State) (k cid from' n c h : Nat) (left : NMap Left) (b : List Byte) (rest : List Nat), freeSets (getCl s cid) = n :: rest →
    le b 0 1 ≤ 8 → c = coreNo cid (le b 0 1) → h = le b 1 1 % 16 → t = restoreSet s k cid left from' b →
    (getSet (getCl t cid) n).use = .attached c h ∧ bmSet (bmapOf (getCore t c) h) = n
    ∧ bmV (bmapOf (getCore t c) h) = (BitVec.ofNat 32 (le b 4 4)).getLsbD 31
    ∧ (le b 8 4 = 1 → find (getCore t c).holders h = some (.resident k)) ∧ (le b 8 4 = 2 → find (getCore t c).holders h = some (.pending k))
    ∧ (128 + setBytes ≤ b.length → ∀ i, i < setBytes → setByte (getSet (getCl t cid) n) i = b.getD (128 + i) 0))
  ∧ (∀ (s : State) (k cid : Nat) (b : List Byte) (x : Tile), x = getTile (restoreTile s k cid b) (4 * cid + le b 0 1 % 4) →
    (∀ i, i < 8 → look 0 x.sems i = ofBytes 8 (chunk b (8 + i) 1) ∧ look 0x00406001#32 x.shapes i = ofBytes 32 (chunk b (16 + 4 * i) 4) &&& 0x00FFFF0F#32)
    ∧ (∀ i, i < 512 → look 0 x.rows i = ofBytes 768 (chunk b (128 + 96 * i) 96))
    ∧ (∀ i, i < 8192 → look 0 x.acc i = ofBytes 32 (chunk b (49280 + 4 * i) 4))
    ∧ (∀ q j, q < 4 → j < min 8 (le b (48 + q) 1) → (look [] x.lq q)[j]? = some (ofBytes 1024 (chunk b (87168 + 1024 * q + 128 * j) 128)))
    ∧ x.waiting = none ∧ x.running = [] ∧ x.resetEnd = none)
  ∧ (∀ (s : State) (k : Nat) (left : NMap Left) (sh : Shift) (cid : Nat), k ∉ (getCl (restartCluster s k left sh cid) cid).stopped)
  ∧ (∀ (s : State) (k c : Nat) (l : Launch), launchAt s k = some l →
    (∀ t ∈ (getCore (dueFaults s k c) c).parked, t.slot = some k → t.due = false)
    ∧ (getCore (dueFaults s k c) c).faultq = (((getCore s c).parked.filter fun t => t.slot = some k && t.due).map fun t =>
        faultTask l k t.cls t.frec t.handle true t.box t.det.id t.det.acq) ++ (getCore s c).faultq)
  ∧ (∀ (k : Nat) (sh : Shift) (s : State) (l : Launch), launchAt s k = some l → l.state = .saved →
    (shiftOk s l sh = false ∨ allFree s (regionClusters l.region (l.dx + sh.dx) (l.dy + sh.dy)) = false) → exec (.restore k sh) s = .next s)
  ∧ (∀ (s : State) (l : Launch) (sh : Shift), shiftOk s l sh = true → sh.dx % 6 = 0 ∧ sh.dy % 6 = 0
    ∧ ∀ cid ∈ regionClusters l.region (l.dx + sh.dx) (l.dy + sh.dy), (getCl s cid).part = some l.part)
  ∧ (∀ (k : Nat) (s : State) (l : Launch), launchAt s k = some l →
    (l.state ≠ .replaying ∨ runningOf s k ≠ [] ∨ busySlot s k = true) → exec (.replayStart k) s = .next s)
  ∧ (∀ (k : Nat) (s s1 : State) (l l1 : Launch), launchAt s k = some l → l.state = .replaying → runningOf s k = [] → busySlot s k = false →
    s1 = clearBitmap ((lclusters l).foldl (fun u cid => modCl u cid fun x =>
        { x with holder := if cid = rootCluster l then x.holder else none, nextSeq := 0, spillArea := none })
      (closeRegion (recEvent s 0 8 l.part (rootCluster l) ((lidOf l).setWidth 64) l.last) k l)) l →
    launchAt s1 k = some l1 →
    (lbw l1 = false → exec (.replayStart k) s = .next (startRun (setLaunch s1 k (replayed l1)) k))
    ∧ (lbw l1 = true → bwTaken s1 (rootCluster l1) = true → exec (.replayStart k) s =
      .next (freeSlot (refuseAdmission (setLaunch s1 k (replayed l1)) k 1 (replayed l1)) k))
    ∧ (lbw l1 = true → bwTaken s1 (rootCluster l1) = false → exec (.replayStart k) s = .next (bwStep (setLaunch s1 k (replayed l1)) k))
    ∧ (replayed l1).replay = true ∧ (∀ c, c ∈ lclusters (replayed l1) ↔ c = rootCluster l1) ∧ (replayed l1).ids = 0 ∧ (replayed l1).digest = 0)

/-- Boxes and sets (R38, R42, R47, R50, R52, R53, R105, R178, R410). A box on its way arrives at its cluster's spur engine, a right child never before its left
sibling on the way to the same cluster, and those of one cycle from different clusters by ascending source, and takes the engine's next
SEQNO; one whose tasks or children are done retires, and what it was stays there to be read by the fault tasks that serve its tasks (R243): its parent takes its outcome, and after the last child the join is queued, or, where
there is none or a sum above takes its place, the parent can retire in its turn; the left child of a sequential split lets the right one go.
Roots that are due in one cycle retire by queue, then in order of admission: the digest record is brought up to date, and the launch is
replayed where its digest is another, else its completion record goes to its ring, or waits for room there, and the slot is free
when nothing of the launch is under way or runs. A spilled box comes back when the engine has room for it, or when it is next and what it
waits for is there: its record leaves the ring, it is spilled no more, and what it waited for goes on; a set that has been cleared is free as that cycle begins, and the wait list is served. Log entries 18, 36 and 67 are the
model's own readings in it; an event that is not due is entry 7's. -/
def Obligations.BoxesAndSets : Prop :=
  (∀ (n k src : Nat) (s : State) (b : BoxRec), (travellers s)[n]? = some (k, b) → b.phase = .travelling src →
    ((siblingFirst s k b = true ∨ ∃ x, (getCl s b.cid).lastBox = some (cycOfCl s b.cid, x) ∧ src < x) →
      exec (.boxReachesSpurEngine n) s = .next s)
    ∧ (siblingFirst s k b = false → (∀ x, (getCl s b.cid).lastBox = some (cycOfCl s b.cid, x) → x ≤ src) →
      exec (.boxReachesSpurEngine n) s = .next (spillCheck (boxArrive s k b.box.name src) k b.cid)))
  ∧ (∀ (s : State) (k src : Nat) (l : Launch) (b : BoxRec), launchAt s k = some l → getBox l b.box.name = some b →
    engineOpen s k b.cid = false →
    ∃ l', launchAt (boxArrive s k b.box.name src) k = some l' ∧ (getBox l' b.box.name).map (fun r => (r.phase, r.seqno)) =
        some (.pending, (getCl s b.cid).nextSeq)
      ∧ (getCl (boxArrive s k b.box.name src) b.cid).nextSeq = (getCl s b.cid).nextSeq + 1
      ∧ (getCl (boxArrive s k b.box.name src) b.cid).lastBox = some (cycOfCl s b.cid, src))
  ∧ (∀ (k : Nat) (name : Word) (s : State) (l : Launch) (r : BoxRec), launchAt s k = some l → (l.state = .running ∨ l.state = .draining) →
    getBox l name = some r →
    (canRetire s k l r = false → exec (.boxRetire k name) s = .next s)
    ∧ (∀ u, canRetire s k l r = true → u = modLaunch (if r.outcome = 0 ∨ r.outcome = 3 then setPresence s l r.box else s) k
        (fun x => { x with boxes := drop x.boxes name.toNat, retired := put x.retired name.toNat r.box }) →
      (depthOf name ≠ 0 → exec (.boxRetire k name) s = .next (childRetired u k name r.outcome r.fin))
      ∧ (name = 0 → othersFirst s k l = true → exec (.boxRetire k name) s = .next s)
      ∧ (name = 0 → othersFirst s k l = false → exec (.boxRetire k name) s = .next (rootRetired (modLaunch
          { u with disp := { u.disp with lastDone := some (u.clk.mesh, l.q, l.order) } } k fun x => { x with rootDone := true }) k))))
  ∧ (∀ (l : Launch) (name : Word) (b : Box), (∀ r, getBox l name = some r → boxNamed l name = some r.box)
    ∧ boxNamed { l with boxes := drop l.boxes name.toNat, retired := put l.retired name.toNat b } name = some b)
  ∧ (∀ (s : State) (k : Nat) (l : Launch), othersFirst s k l = true ↔
    ((∃ e ∈ s.launches, e.1 ≠ k ∧ rootDue s e.1 e.2 = true ∧ clockRuns s (islandOf (rootCluster e.2)) = true
        ∧ (e.2.q < l.q ∨ (e.2.q = l.q ∧ e.2.order < l.order)))
      ∨ ∃ d, s.disp.lastDone = some d ∧ d.1 = s.clk.mesh ∧ (l.q < d.2.1 ∨ (l.q = d.2.1 ∧ l.order < d.2.2))))
  ∧ (∀ (s : State) (k n : Nat) (name : Word) (l : Launch) (p : BoxRec) (out : Nat) (fin : List Acq), launchAt s k = some l →
    getBox l (parentName name) = some p → p.box.name = parentName name → p.phase = .split (n + 2) → (p.box.smode = 2 → isRight name = true) →
    ∃ l' p', launchAt (childRetired s k name out fin) k = some l' ∧ getBox l' (parentName name) = some p' ∧ p'.phase = .split (n + 1)
      ∧ (isRight name = true → p'.box.rstat = out ∧ p'.box.lstat = p.box.lstat) ∧ (isRight name = false → p'.box.lstat = out ∧ p'.box.rstat = p.box.rstat))
  ∧ (∀ (s : State) (k : Nat) (name : Word) (l : Launch) (p p' : BoxRec) (out : Nat) (fin : List Acq), launchAt s k = some l →
    getBox l (parentName name) = some p → p.box.name = parentName name → p.phase = .split 1 → (p.box.smode = 2 → isRight name = true) →
    p' = { p with
      box := if isRight name then { p.box with rstat := out } else { p.box with lstat := out }
      phase := .split 0
      fin := fin.foldl addAcq p.fin } →
    ((p.join = 31 ∨ (p.box.smode = 1 ∧ p.box.sumanc = true)) →
      childRetired s k name out fin = setBox s k p' ∧ ∀ u l', canRetire u k l' p' = true)
    ∧ (p.join ≠ 31 → ¬ (p.box.smode = 1 ∧ p.box.sumanc = true) →
      (engineOpen s k p.cid = false → (getCl s p.cid).holder = some k → BoxesNamed l → pendingCount l p.cid ≤ 511 → joinCount l p.cid ≤ 256 →
        ∃ l', launchAt (childRetired s k name out fin) k = some l' ∧
        getBox l' (parentName name) = some { p' with phase := .joinPending, acq := p'.fin, waitNo := (getCl s p.cid).nextWait })
      ∧ (engineOpen s k p.cid = true → (getCl s p.cid).holder = some k → BoxesNamed l → pumpList l p.cid = [] → p.spilled = false →
        pendingCount l p.cid ≤ 512 → joinCount l p.cid ≤ 256 → (getCore s (coreNo p.cid 8)).runq.length < 32 →
        ∃ q l', (getCore (childRetired s k name out fin) (coreNo p.cid 8)).runq = (getCore s (coreNo p.cid 8)).runq ++ [q]
          ∧ q.kind = .join ∧ q.slot = some k ∧ q.box = some p'.box ∧ q.acq = p'.fin ∧ q.rule = p.join
          ∧ launchAt (childRetired s k name out fin) k = some l' ∧ (getBox l' (parentName name)).map (fun r => r.phase) = some .joining)))
  ∧ (∀ (s : State) (k n : Nat) (name : Word) (l : Launch) (p p' r r' : BoxRec) (out : Nat) (fin : List Acq), launchAt s k = some l →
    getBox l (parentName name) = some p → p.box.name = parentName name → p.phase = .split (n + 2) → p.box.smode = 2 → isRight name = false →
    getBox l (childName (parentName name) true) = some r → r.phase = .heldRight → childName (parentName name) true ≠ parentName name →
    p' = { p with box := { p.box with lstat := out }, phase := .split (n + 1), fin := fin.foldl addAcq p.fin } →
    r' = { r with acq := fin.foldl addAcq r.acq } →
    (r.spilled = true → childRetired s k name out fin = setBox (setBox s k p') k r')
    ∧ (r.spilled = false → r.cid ≠ p.cid → childRetired s k name out fin = setBox (setBox s k p') k { r' with phase := .travelling p.cid })
    ∧ (r.spilled = false → r.cid = p.cid → boxMayArrive s p.cid p.cid = true → childRetired s k name out fin =
        spillCheck (boxArrive (setBox (setBox s k p') k { r' with phase := .pending }) k r.box.name p.cid) k r.cid))
  ∧ (∀ (s : State) (k : Nat) (l : Launch), launchAt s k = some l → ldet l = false → rootRetired s k = finishRun s k 0)
  ∧ (∀ (s s1 s2 : State) (k : Nat) (l : Launch) (b : List Byte) (c d : Word), launchAt s k = some l → ldet l = true →
    unitTake s l.part (digestPtr l) 64 = (s1, some b) → c = recWord b 0 → d = l.digest →
    (l.replay = true →
      unitWrite s1 l.part (digestPtr l) (digestWords (setField (setField c 61 1#1) 60 (b1 (d = recWord b 8))) (recWord b 8) (recWord b 16)
        (recWord b 24) (recWord b 32) d (recWord b 48 + 1)) = (s2, true) → rootRetired s k = finishRun s2 k 4)
    ∧ (l.replay = false → c.getLsbD 63 = false →
      unitWrite s1 l.part (digestPtr l) (digestWords (setField (setField c 63 1#1) 62 0#1) d (recWord b 16) (recWord b 24) d (recWord b 40)
        (recWord b 48 + 1)) = (s2, true) → rootRetired s k = finishRun s2 k 0)
    ∧ (l.replay = false → c.getLsbD 63 = true → d = recWord b 8 →
      unitWrite s1 l.part (digestPtr l) (digestWords (setField c 62 0#1) (recWord b 8) (recWord b 16) (recWord b 24) d (recWord b 40)
        (recWord b 48 + 1)) = (s2, true) → rootRetired s k = finishRun s2 k 0)
    ∧ (l.replay = false → c.getLsbD 63 = true → d ≠ recWord b 8 →
      unitWrite s1 l.part (digestPtr l) (digestWords (setField c 62 1#1) (recWord b 8) (recWord b 16) (recWord b 24) d (recWord b 40)
        (recWord b 48)) = (s2, true) →
      rootRetired s k = modLaunch (closedRun s2 k) k fun x => { x with state := .replaying, last := d }))
  ∧ (∀ (s u : State) (k stat : Nat) (l : Launch) (done : Bool), launchAt (closedRun s k) k = some l →
    putRecord (recComplete (closedRun s k) k l stat) (recordOf k l stat true) = (u, done) →
    finishRun s k stat = settle (modLaunch u k fun x => { x with state := .closing, recorded := done }) k)
  ∧ (∀ (k stat : Nat) (l : Launch) (held : Bool), recordOf k l stat held =
    { slot := k, part := l.part, ring := ringPtr l, hdrAddr := l.hdrAddr, lid := lidOf l, stat := stat, drops := min l.drops 0xFFFF,
      fsum := launchFsum l, digest := if ldet l then l.digest else 0, held := held })
  ∧ (∀ (s : State) (d : Deferred), d.ring ≠ 0 → (∀ e ∈ s.disp.deferred, ¬ (e.part = d.part ∧ e.ring = d.ring)) →
    ∀ u, tryRecord (flushSlices s d.part) d = (u, true) → putRecord s d = (u, true))
  ∧ (∀ (s s1 s2 s3 : State) (d : Deferred) (r : List Byte), unitRead s d.part d.ring 64 = (s1, some r) → ringOk r = true →
    ((le r 24 4 + 2 ^ 32 - le r 28 4) % 2 ^ 32 = le r 8 4 → tryRecord s d = (s1, false))
    ∧ ((le r 24 4 + 2 ^ 32 - le r 28 4) % 2 ^ 32 ≠ le r 8 4 →
      unitStore s1 d.part (le r 0 8 + 32 * (le r 24 4 % le r 8 4)) (bytesOfNat 4 d.lid.toNat ++ bytesOfNat 2 d.stat ++ bytesOfNat 2 d.drops
        ++ bytesOf 8 (BitVec.ofNat 64 s1.clk.ns) ++ bytesOf 8 d.fsum ++ bytesOf 8 d.digest) = (s2, true) →
      unitStore s2 d.part (d.ring + 24) (bytesOfNat 4 ((le r 24 4 + 1) % 2 ^ 32)) = (s3, true) →
      tryRecord s d = (ringSignal s3 d.part d.ring true ((le r 24 4 + 1) % 2 ^ 32) (le r 12 4) (le r 16 8) (le r 32 4), true)))
  ∧ (∀ (s : State) (k : Nat) (l : Launch), launchAt s k = some l → l.state = .closing →
    (l.recorded = true → busySlot s k = false → runningOf s k = [] → settle s k = freeSlot s k ∧ launchAt (freeSlot s k) k = none
      ∧ ∀ cid ∈ lclusters l, (getCl (freeSlot s k) cid).holder ≠ some k)
    ∧ ((l.recorded = false ∨ busySlot s k = true ∨ runningOf s k ≠ []) → settle s k = s))
  ∧ (∀ (k cl o : Nat) (s : State) (l : Launch), launchAt s k = some l → (getCl s cl).spillArea = some o → (getCl s cl).holder = some k →
    engineOpen s k cl = true → reloadDue s l cl = true → exec (.boxReload k cl) s = .next (reloadBox s k cl l o))
  ∧ (∀ (s s1 s2 s3 : State) (k cl o i : Nat) (l : Launch) (h b : List Byte), unitTake s l.part (savePtr l + o) 128 = (s1, some h) →
    0 < le h 8 4 → i = le h 12 4 % 4096 → unitTake s1 l.part (savePtr l + o + 128 + 384 * i + 64) 8 = (s2, some b) →
    unitStore s2 l.part (savePtr l + o + 8) (bytesOfNat 4 (le h 8 4 - 1) ++ bytesOfNat 4 ((i + 1) % 4096)) = (s3, true) →
    reloadBox s k cl l o = reloaded s3 k cl (wordOfBytes b))
  ∧ (∀ (s : State) (k cl : Nat) (name : Word) (l : Launch) (r : BoxRec), launchAt s k = some l → (getCl s cl).holder = some k →
    engineOpen s k cl = true → BoxesNamed l → getBox l name = some r → r.box.name = name → r.spilled = true → waitList l cl = [] →
    pendingCount l cl ≤ 512 → joinCount l cl ≤ 256 →
    (r.phase = .pending → r.cid = cl → pumpList l cl = [r] → (getCore s (coreNo cl 8)).runq.length < 32 →
      ∃ q l' r', (getCore (reloaded s k cl name) (coreNo cl 8)).runq = (getCore s (coreNo cl 8)).runq ++ [q] ∧ q.kind = .rule ∧ q.slot = some k
        ∧ q.box = some r.box ∧ q.rule = r.box.rule ∧ launchAt (reloaded s k cl name) k = some l' ∧ getBox l' name = some r'
        ∧ r'.phase = .ruling ∧ r'.spilled = false)
    ∧ (r.phase = .heldRight → (getBox l (childName (parentName name) false)).isSome → pumpList l cl = [] →
      ∃ l', launchAt (reloaded s k cl name) k = some l' ∧ getBox l' name = some { r with spilled := false }))
  ∧ (∀ (s : State) (l : Launch) (cl : Nat), reloadDue s l cl = true ↔
    (owed l cl < spilledAt l cl
      ∨ ((∃ b rest, pumpList l cl = b :: rest ∧ b.spilled = true) ∧ (getCore s (coreNo cl 8)).runq.length < 32)
      ∨ (∃ b rest, waitList l cl = b :: rest ∧ b.spilled = true ∧ setsNeeded l b.box.leaf b.box ≤ (freeSets (getCl s cl)).length)
      ∨ ∃ b ∈ pendingAt l cl, b.spilled = true ∧ b.phase = .heldRight ∧ getBox l (childName (parentName b.box.name) false) = none))
  ∧ (∀ (k cl : Nat) (s : State), ((∀ l, launchAt s k = some l → reloadDue s l cl = false) ∨ (getCl s cl).spillArea = none ∨ (getCl s cl).holder ≠ some k ∨ engineOpen s k cl = false) →
    exec (.boxReload k cl) s = .next s)
  ∧ (∀ (cl n t : Nat) (s : State), (getSet (getCl s cl) n).use = .clearing t →
    (cycOfCl s cl < t → exec (.setFree cl n) s = .next s)
    ∧ (t ≤ cycOfCl s cl → exec (.setFree cl n) s = .next (serveWait (setSet s cl n {}) cl)
      ∧ ((getCl s cl).holder = none → (getSet (getCl (serveWait (setSet s cl n {}) cl) cl) n).use = .free)))
  ∧ (∀ (cl n t : Nat) (s : State), n < 8 → (getSet (getCl s cl) n).use = .clearing t → (getCl s cl).holder = none →
    (t ≤ cycOfCl s cl → (getSet (getCl (freeDue s cl) cl) n).use = .free)
    ∧ (cycOfCl s cl < t → (getSet (getCl (freeDue s cl) cl) n).use = .clearing t))

/-- Records and interrupts that waited (R178, R391): a deferred completion record goes out in its ring's order once there is room, and
a launch that was held for it ends; a waiting fault or debug record goes to its ring, oldest first, once the ring has room and neither its
descriptor nor its next slot lies in a stack that has stopped; a record that has gone unsignalled for TIMETHR nanoseconds raises its ring's interrupt. The memory path's own events (R105, R122,
R360, R403 to R405). A coalesced reply is formed when its window has been open for 64 mesh cycles, as the line stood before any
write that came meanwhile, and answers every instruction that waits, each core's own later bytes over it; where the line can no longer be
read, an entry that an ldq reserved is filled all the same and a waiting instruction tries anew; the invalidation sequencer does the oldest command: translations of
the range are dropped, dirty lines of the range written back and dropped, and the exchange on XINV replies and adds its term to the digest, or raises ACQ_OVERFLOW with
nothing written; the scrubber counts what it corrects, on the die that log entry 12 gives the stack; of a flit that is replayed comes a
count, on the die of its link. Log entries 12, 24, 25, 27, 62, 75, 98 and 99 are the model's own readings in it; an event that is not due is
entry 7's. -/
def Obligations.RecordsAndMemoryEvents : Prop :=
  ((∀ (n : Nat) (s : State) (d : Deferred), s.disp.deferred[n]? = some d →
    ((∃ e ∈ s.disp.deferred.take n, e.part = d.part ∧ e.ring = d.ring) → exec (.recordDeferredWrite n) s = .next s)
    ∧ ((∀ e ∈ s.disp.deferred.take n, ¬ (e.part = d.part ∧ e.ring = d.ring)) →
      (∀ u, tryRecord s d = (u, false) → exec (.recordDeferredWrite n) s = .next s)
      ∧ (∀ u, tryRecord s d = (u, true) → d.held = false →
          exec (.recordDeferredWrite n) s = .next { u with disp := { u.disp with deferred := u.disp.deferred.eraseIdx n } })
      ∧ (∀ u, tryRecord s d = (u, true) → d.held = true →
          exec (.recordDeferredWrite n) s = .next (settle (modLaunch { u with disp := { u.disp with deferred := u.disp.deferred.eraseIdx n } }
            d.slot fun l => { l with recorded := true }) d.slot))))
  ∧ (∀ (p d : Nat) (dbg : Bool) (s : State) (r : FRec) (rest : List FRec), d = (partWord s p (if dbg then 9 else 8)).toNat →
    (if dbg then (getPart s p).dwait else (getPart s p).fwait) = r :: rest →
    ((ringFull s d = true ∨ stackStopped s d = true ∨ stackStopped s (ringSlot s d 64) = true) → exec (.faultRingWrite p dbg) s = .next s)
    ∧ (ringFull s d = false → stackStopped s d = false → stackStopped s (ringSlot s d 64) = false →
      exec (.faultRingWrite p dbg) s = .next (ringPutPhys (setPart s p
        (if dbg then { getPart s p with dwait := rest } else { getPart s p with fwait := rest })) p d 64 (recBytes r))))
  ∧ (∀ (s t : State) (p d : Nat) (bs : List Byte), s.bad = [] → s.flips = [] → d + 64 ≤ 2 ^ 40 → bs.length = 64 →
    ringSlot s d 64 + 64 ≤ 2 ^ 40 → (ringSlot s d 64 + 64 ≤ d ∨ d + 64 ≤ ringSlot s d 64) → t = ringPutPhys s p d 64 bs →
    (∀ i, i < 64 → memByte t (ringSlot s d 64 + i) = bs.getD i 0) ∧ mem32 t (d + 24) = (mem32 s (d + 24) + 1) % 2 ^ 32
    ∧ ∀ a, (a < ringSlot s d 64 ∨ ringSlot s d 64 + 64 ≤ a) → (a < d + 24 ∨ d + 28 ≤ a) → memByte t a = memByte s a)
  ∧ (∀ (s : State) (d : Nat), s.bad = [] → s.flips = [] → linesRead s d 64 = s)
  ∧ (∀ (p : Nat) (s : State), (getPart s p).fwait = [] → exec (.faultRingWrite p false) s = .next s)
  ∧ (∀ (n t tail thr vec : Nat) (s u : State) (m : RingMark), s.disp.rings[n]? = some m → m.oldest = some t →
    ringTimes s m = (u, some (tail, thr, vec)) →
    (s.clk.ns < t + thr → exec (.ringInterruptTimer n) s = .next s)
    ∧ (t + thr ≤ s.clk.ns → exec (.ringInterruptTimer n) s = .next (setRingMark (raiseIrq u (vec / 2 ^ 31 % 2 = 1) (vec % 2 ^ 16))
        { m with last := tail, oldest := none }))))
  ∧ ((∀ (cl ln : Nat) (s : State) (w : Window), (getSl s cl).windows.find? (fun w => w.line = ln) = some w →
    (s.clk.mesh < w.opened + 64 → exec (.coalesceReply cl ln) s = .next s)
    ∧ (∀ d s0 u u' x, w.opened + 64 ≤ s.clk.mesh → s0 = modSl s cl (fun y => { y with windows := y.windows.filter fun v => v ≠ w }) →
      ((w.dead = true ∧ u = s0) ∨ (w.dead = false ∧ ∃ e, translate s0 (partOf s cl) cl (128 * ln) .read = (u, .error e))) →
      x = { pa := w.pa, rd := true, wr := false, hc := w.hc } →
      ((w.reply = some d ∧ u' = u)
        ∨ (w.reply = none ∧ sliceLine u (partOf s cl) cl ln x w.fresh w.who = (u', d))) →
      exec (.coalesceReply cl ln) s = .next (w.cores.foldl (fun v c => deliverLost v c ln w.no (replyFor w c d)) u'))
    ∧ (∀ d s0 u u' x, w.opened + 64 ≤ s.clk.mesh → s0 = modSl s cl (fun y => { y with windows := y.windows.filter fun v => v ≠ w }) →
      w.dead = false → translate s0 (partOf s cl) cl (128 * ln) .read = (u, .ok x) →
      ((w.reply = some d ∧ u' = u)
        ∨ (w.reply = none ∧ sliceLine u (partOf s cl) cl ln x w.fresh w.who = (u', d))) →
      exec (.coalesceReply cl ln) s = .next (w.engs.foldl (fun v q => deliverEng v q.1 q.2 ln d)
        (w.cores.foldl (fun v c => deliverLine v c ln w.no x (replyFor w c d)) u'))
      ∧ (w.cores.Nodup → (∀ c ∈ w.cores, (∃ got, (getCore u' c).wait = some (.lines (some (ln, w.no)) got)) ∧ (getCore u' c).prefs = []) →
        ∃ t, exec (.coalesceReply cl ln) s = .next t ∧ t.mem = u'.mem ∧ t.slices = u'.slices
          ∧ (∀ c ∈ w.cores, ∀ got, (getCore u' c).wait = some (.lines (some (ln, w.no)) got) →
            getCore t c = { getCore u' c with wait := some (.lines none ((ln, replyFor w c d) :: got)) })
          ∧ (∀ c, c ∉ w.cores → getCore t c = getCore u' c))))
  ∧ (∀ (w : Window) (c : Nat) (d : Line), ((w.reply = none ∨ ∀ e ∈ w.late, e.1 ≠ c) → replyFor w c d = d)
    ∧ ∀ d' m, w.reply.isSome = true → w.late = [(c, d', m)] → ∀ i, i < 128 →
      byteAt (replyFor w c d) i = if m.getLsbD i then byteAt d' i else byteAt d i)
  ∧ (∀ (s t : State) (c ln no : Nat) (d : Line), t = deliverLost s c ln no d → MemKept s t ∧ (ln, no) ∉ (getCore t c).prefs
    ∧ (∀ got, (getCore s c).wait = some (.lines (some (ln, no)) got) → (getCore t c).wait = some (.lines none got))
    ∧ ((∀ got, (getCore s c).wait ≠ some (.lines (some (ln, no)) got)) → (getCore t c).wait = (getCore s c).wait)
    ∧ (classOf (idxOf c) = .a → getTile t (tileOfCore c) = fillsGet (getTile s (tileOfCore c)) ln no d))
  ∧ (∀ (s t : State) (c ln no : Nat) (x : Xl) (d : Line), t = deliverLine s c ln no x d →
    ((ln, no) ∉ (getCore s c).prefs → t.mem = s.mem
      ∧ (∀ got, (getCore s c).wait = some (.lines (some (ln, no)) got) →
        getCore t c = { getCore s c with wait := some (.lines none ((ln, d) :: got)) })
      ∧ ((∀ got, (getCore s c).wait ≠ some (.lines (some (ln, no)) got)) → getCore t c = getCore s c)
      ∧ (classOf (idxOf c) = .a → getTile t (tileOfCore c) = fillsGet (getTile s (tileOfCore c)) ln no d))
    ∧ ((ln, no) ∈ (getCore s c).prefs → (getCore s c).l1 = [] → (ln, no) ∉ (getCore t c).prefs ∧ (getCore t c).l1 =
        [{ line := ln, pa := x.pa / 128 * 128, data := d, dirty := 0, wr := false, rd := true, stamps := [], hc := x.hc }]))
  ∧ (∀ (s : State) (i ln : Nat) (who : Party) (d : Line) (o : EngOp) (rest : List EngOp), o.id = who.id → o.no = who.op →
    (i % 2 = 0 → (getCl s (i / 2)).eng0 = o :: rest →
      (getCl (deliverEng s i who ln d) (i / 2)).eng0 = { o with lines := (ln, d) :: o.lines } :: rest)
    ∧ (i % 2 = 1 → (getCl s (i / 2)).eng1 = o :: rest →
      (getCl (deliverEng s i who ln d) (i / 2)).eng1 = { o with lines := (ln, d) :: o.lines } :: rest))
  ∧ (∀ (cl ln : Nat) (s : State), (∀ w ∈ (getSl s cl).windows, w.line ≠ ln) → exec (.coalesceReply cl ln) s = .next s)
  ∧ (∀ (p : Nat) (s : State) (q : XCmd) (rest : List XCmd), (getPart s p).xinv = q :: rest →
    ∀ v, v = modPart s p (fun x => { x with xinv := rest }) →
      (invalMerged v p q = none → exec (.xinvCommand p) s = .next (modCore v q.core fun k => { k with wait := some (.inval (some none)) }))
      ∧ (∀ r u, invalMerged v p q = some r → u = invalidate v p q.operand →
        exec (.xinvCommand p) s = .next (invalReply u p q ((invalMerged u p q).getD r))))
  ∧ (∀ (p : Nat) (s : State), (getPart s p).xinv = [] → exec (.xinvCommand p) s = .next s)
  ∧ (∀ (b : Word) (ln : Nat), invalLine b ln = true ↔ (b.getLsbD 63 = true ∨
      ((b.extractLsb' 16 33).toNat ≤ ln / 512 ∧ ln / 512 < (b.extractLsb' 16 33).toNat
        + (if b.extractLsb' 0 16 = 0#16 then 65536 else (b.extractLsb' 0 16).toNat))))
  ∧ (∀ (s : State) (p : Nat) (b : Word), (∀ cid ∈ clustersOf s p,
      (∀ t ∈ (getSl (invalidate s p b) cid).tlb, ¬ (t.part = p ∧ invalEntry b t = true))
      ∧ (b.getLsbD 62 = true → ∀ e ∈ (getSl (invalidate s p b) cid).walk, e.part ≠ p)
      ∧ (∀ e ∈ (getSl (invalidate s p b) cid).lines, invalLine b e.1 = false)
      ∧ ∀ i, i < 9 → ∀ l ∈ (getCore (invalidate s p b) (coreNo cid i)).l1, invalLine b l.line = false)
    ∧ ∃ u, u = (clustersOf s p).foldl (fun v cid => (List.range 9).foldl (fun w i => invalL1 w (coreNo cid i) b) v)
          ((clustersOf s p).foldl (fun v cid => closeReads v p cid b) ((clustersOf s p).foldl (fun v cid => modSl v cid fun y =>
            { y with
              tlb := y.tlb.filter fun t => !(t.part = p && invalEntry b t)
              walk := if b.getLsbD 62 then y.walk.filter (fun e => e.part ≠ p) else y.walk }) s))
      ∧ invalidate s p b = (clustersOf s p).foldl (fun v cid =>
          (((getSl v cid).lines.map (·.1)).filter (invalLine b)).foldl (fun w ln => evict w cid ln) v) u)
  ∧ (∀ (s : State) (cid ln : Nat), find (getSl (evict s cid ln) cid).lines ln = none
    ∧ ((∀ e ∈ s.launches, find e.2.checks ln = none) → (evict s cid ln).mem = (flushLine s cid ln).mem))
  ∧ (∀ (s : State) (h ln : Nat) (e : SLine), find (getSl s h).lines ln = some e → lineBad s e.pa = false → e.pa % 128 = 0 → e.pa < 2 ^ 40 →
    (∀ i, i < 128 → memByte (flushLine s h ln) (e.pa + i) = if e.dirty.getLsbD i then byteAt e.data i else memByte s (e.pa + i))
    ∧ (∀ a, (a < e.pa ∨ e.pa + 128 ≤ a) → memByte (flushLine s h ln) a = memByte s a)
    ∧ find (getSl (flushLine s h ln) h).lines ln = some { e with dirty := 0 })
  ∧ (∀ (s t : State) (p a : Nat) (q : XCmd) (r : List Rel), (getCore s q.core).wait = some (.inval none) → a = (partWord s p 6).toNat →
    lineBad s a = false → t = invalReply s p q r →
    (getCore t q.core).wait = some (.inval (some (some (memWord s a, relOf s p (q.va / 128))))) ∧ t.mem = (memWriteWord s a q.operand).mem
    ∧ relOf t p (q.va / 128) = r
    ∧ ∀ l x, launchAt s q.slot = some l → ldet l = true → (∃ i, i < 8 ∧ inWindow l (q.va + i) = true) →
        (getCore s q.core).run = some x → x.slot = some q.slot → x.det.id = q.id →
        (getCore t q.core).run = some { x with dig := { x.dig with sum := x.dig.sum + atomicTerm 6 3 q.va q.operand 0 } })
  ∧ (∀ (s : State) (p cid : Nat) (b : Word) (w : Window), (getSl s cid).windows = [w] → invalLine b w.line = true →
    (∀ d, w.reply = some d → (getSl (closeReads s p cid b) cid).windows = [{ w with dead := true }])
    ∧ (w.reply = none → ∀ e, w.fresh = false → find (getSl s cid).lines w.line = some e →
      uncached s p { pa := w.pa, rd := true, wr := false, hc := w.hc } = false →
      (getSl (closeReads s p cid b) cid).windows = [{ w with dead := true, reply := some e.data }]))
  ∧ (∀ (s : State) (p : Nat) (q : XCmd) (r0 : List Rel) (d : Det), (getCore s q.core).wait = some (.inval none) → r0 = relOf s p (q.va / 128) →
    d = (taskOf { s with cur := q.core }).det →
    ((∃ n, acqFits { s with cur := q.core } r0 (some .sys) = .ok n) → invalMerged s p q = relMerged { s with cur := q.core } r0 d (carried d (some .sys)))
    ∧ ((∀ n, acqFits { s with cur := q.core } r0 (some .sys) ≠ .ok n) → invalMerged s p q = none))
  ∧ (∀ (q : Scrub) (s : State), 16 ≤ q.stack → exec (.patrolScrub q) s = .next s)
  ∧ (∀ (q : Scrub) (s : State) (pa : Nat), q.stack < 16 → q.corrected = [pa] → pa / 4096 % 16 = q.stack → pa < 2 ^ 40 → s.bad = [] → s.flips = [] →
    exec (.patrolScrub q) s = .next (corrected s (q.stack / 4) 0 0 (BitVec.ofNat 64 pa)))
  ∧ (∀ (n : Nat) (s : State), exec (.flitReplay n) s =
      .next (modDie s (if n < 2 then 0 else (n - 2) / 4 % 4) fun d => { d with corrChip := satInc d.corrChip })))


/-! ## The host, the boot, the health of the device -/
namespace Sys2Proof.Say

/-- The events that serve a write of a host, with what the write asks for (R380 to R394, R401, R413, R414). -/
def hostWrites : List (Instr × TxKind) :=
  [ (.linkRetrain, .retrain), (.semaphoreRelease, .release), (.cfgWrite, .config), (.partitionCreate, .create), (.partitionDestroy, .destroy),
    (.islandPointWrite, .island), (.attgo, .attgo), (.thaw, .thaw), (.injectLaunch, .inject 0), (.injectHandler, .inject 1),
    (.injectTaggedData, .inject 2), (.injectSystem, .inject 3), (.injectAbort, .inject 4), (.hostWrite, .memory) ]
/-- What a port shows of its last completed transaction. -/
def shownAt (s : State) (b : Bool) : Option (Nat × List Byte) := (portOf b s).shown.map fun x => (x.status, x.data)

end Sys2Proof.Say

/-- A host's transactions are served in their order (R379): the event of the first one's kind performs it, and shows its status at its port;
the event of another kind does nothing. A write with a failing check changes nothing (R381); one of a single word has that word's
effect. A read shows the words it names, and zeros with RANGE where nothing is mapped (R380); a read and a write through the aperture reach the
bytes of the partition's window, and RANGE outside it (R388). Transactions of the two ports that arrive at one arbiter in one cycle go in the order that its bit gives, which then changes; which ranges are one arbiter, and that a cycle there is one of the mesh clock, is
log entry 87. Log entries 43, 44, 49, 87 and 102 are the model's own readings in it; an event that is not due is entry 7's. -/
def Obligations.HostTransactions : Prop :=
  (∀ row ∈ hostWrites, ∀ (s : State) (t : HostTx) (rest : List HostTx), s.host.tx = t :: rest →
    (s.clk.mesh < t.from_ → exec row.1 s = .next s)
    ∧ (txKind s t ≠ row.2 → exec row.1 s = .next s)
    ∧ (t.from_ ≤ s.clk.mesh → txKind s t = row.2 → ∃ u, exec row.1 s = .next u
      ∧ shownAt u (portB t) = some ((performWrite { s with host := { s.host with tx := rest } } t).2, [])
      ∧ u = showAt (performWrite { s with host := { s.host with tx := rest } } t).1 (portB t)
          (performWrite { s with host := { s.host with tx := rest } } t).2 []))
  ∧ (∀ row ∈ hostWrites, ∀ s : State, s.host.tx = [] → exec row.1 s = .next s)
  ∧ (∀ (s : State) (t : HostTx), writeCheck s t ≠ 0 → performWrite s t = (s, writeCheck s t))
  ∧ (∀ (s u : State) (t : HostTx) (d : List Byte), writeCheck s t = 0 → t.size = 8 → t.data = some d → d.length = 8 → t.addr % 8 = 0 →
    isAperture t.addr = false → t.addr ≠ 0x41080 →
    (regWrite s (portB t) t.addr (wordOfBytes d) (BitVec.allOnes 64) = (u, 0) → performWrite s t = (u, 0))
    ∧ (∀ st, regWrite s (portB t) t.addr (wordOfBytes d) (BitVec.allOnes 64) = (u, st) → st ≠ 0 → performWrite s t = (s, st)))
  ∧ (∀ (s : State) (t : HostTx) (rest : List HostTx), s.host.tx = t :: rest → s.clk.mesh < t.from_ → exec .hostRead s = .next s)
  ∧ (∀ (s : State) (t : HostTx) (rest : List HostTx), s.host.tx = t :: rest → t.from_ ≤ s.clk.mesh → txKind s t = .read →
    (isAperture t.addr = false → sizeOk t = true → t.size = 8 →
      (∀ v, regRead s (portB t) t.addr = some v → ∃ u, exec .hostRead s = .next u ∧ shownAt u (portB t) = some (0, bytesOf 8 v) ∧ MemKept s u)
      ∧ (regRead s (portB t) t.addr = none → ∃ u, exec .hostRead s = .next u ∧ shownAt u (portB t) = some (1, zeros 8) ∧ MemKept s u))
    ∧ (∀ pa, isAperture t.addr = true → sizeOk t = true → apertureAt { s with host := { s.host with tx := rest } } t = some pa →
      ∃ u, exec .hostRead s = .next u ∧ shownAt u (portB t) = some (0, memRead s pa t.size))
    ∧ (isAperture t.addr = true → sizeOk t = true → apertureAt { s with host := { s.host with tx := rest } } t = none →
      ∃ u, exec .hostRead s = .next u ∧ shownAt u (portB t) = some (1, zeros t.size)))
  ∧ (∀ (s : State) (t : HostTx) (pa : Nat), writeCheck s t = 0 → isAperture t.addr = true → apertureAt s t = some pa → pa + t.size ≤ 2 ^ 40 →
    lineBad s pa = false → (performWrite s t).2 = 0 ∧ (∀ i, i < t.size → memByte (performWrite s t).1 (pa + i) = (txBytes t).getD i 0)
    ∧ (∀ a, (a < pa ∨ pa + t.size ≤ a) → memByte (performWrite s t).1 a = memByte s a))
  ∧ (∀ (s : State) (x x' : HostTx), x' = { x with from_ := s.clk.mesh + 1 } →
    (s.host.tx = [] → (arrives s x).host.tx = [x'] ∧ (arrives s x).host.ties = s.host.ties)
    ∧ (∀ y, s.host.tx = [y] → y.from_ = s.clk.mesh + 1 → portB y ≠ portB x → arbiterOf y ≠ arbiterOf x →
      (arrives s x).host.tx = [y, x'] ∧ (arrives s x).host.ties = s.host.ties)
    ∧ (∀ y, s.host.tx = [y] → y.from_ = s.clk.mesh + 1 → portB y ≠ portB x → arbiterOf y = arbiterOf x → arbiterOf x ≠ 64 →
      look false (arrives s x).host.ties (arbiterOf x) = !(look false s.host.ties (arbiterOf x))
      ∧ (look false s.host.ties (arbiterOf x) = portB x → (arrives s x).host.tx = [x', y])
      ∧ (look false s.host.ties (arbiterOf x) ≠ portB x → (arrives s x).host.tx = [y, x'])))

/-- Semaphores, configuration and injection (R382 to R387, R393, R394, R401, R413, R414). Reading a free semaphore takes it for the port, with one
more in COUNT; a held one reads as it is; at a tie the port TIE names has it. A release by the holder frees it, by another port is GUARD. A
valid descriptor's PCTL prepares the partition's clusters, and the partition is there once every set is free; one with a launch is BUSY. THAW
resumes a ring, ATTGO builds and signs a report; an injected parcel goes out from the port, which is busy until it is accepted or dropped; the launches that an
abort names end in the order of their admission (R178, R387).
Log entries 5, 45, 46, 48, 50 and 51 are the model's own readings in it; an event that is not due is entry 7's. -/
def Obligations.HostControls : Prop :=
  (∀ (s : State) (t : HostTx), rivalRead s t = true ↔
    ∃ u ∈ s.host.tx, portB u ≠ portB t ∧ txKind s u = .acquire ∧ u.addr = t.addr ∧ u.from_ ≤ t.from_)
  ∧ (∀ (n : Nat) (b : Bool) (s : State) (t : HostTx), semRead s b n = some t → rivalRead s t = true →
    exec (.semaphoreAcquire n (!b) b) s = .next s)
  ∧ (∀ (n : Nat) (b : Bool) (s : State) (t : HostTx) (w : Word), semRead s b n = some t → rivalRead s t = false → w = semOf s n →
    (w.getLsbD 63 = false → ∃ u, exec (.semaphoreAcquire n (!b) b) s = .next u
      ∧ (semOf u n).getLsbD 63 = true ∧ (semOf u n).getLsbD 62 = b ∧ (semOf u n).extractLsb' 0 32 = w.extractLsb' 0 32 + 1
      ∧ (∀ m, m ≠ n → semOf u m = semOf s m))
    ∧ (w.getLsbD 63 = true → ∃ u, exec (.semaphoreAcquire n (!b) b) s = .next u ∧ (∀ m, semOf u m = semOf s m)
      ∧ shownAt u b = some (0, bytesOf 8 w)))
  ∧ (∀ (n : Nat) (s : State) (t1 t2 : HostTx) (w : Word), semRead s false n = some t1 → semRead s true n = some t2 → w = semOf s n →
    (t1.from_ ≠ t2.from_ → exec (.semaphoreAcquire n true true) s = .next s)
    ∧ (t1.from_ = t2.from_ → w.getLsbD 63 = false → ∃ u, exec (.semaphoreAcquire n true true) s = .next u
      ∧ (semOf u n).getLsbD 62 = w.getLsbD 60 ∧ (semOf u n).getLsbD 60 = !(w.getLsbD 60)))
  ∧ (∀ (s : State) (b : Bool) (n : Nat) (d : Word), n < 32 → d.getLsbD 0 = true →
    (semBy (semOf s n) b = true → regWrite s b (0x40000 + 8 * n) d (BitVec.allOnes 64) = (setSem s n (semFree (semOf s n)), 0)
      ∧ (semFree (semOf s n)).getLsbD 63 = false)
    ∧ (semBy (semOf s n) b = false → regWrite s b (0x40000 + 8 * n) d (BitVec.allOnes 64) = (s, 2)))
  ∧ (∀ (s : State) (p : Nat) (w0 : Word), descCheck s p (fun i => if i = 0 then w0 else partWord s p i) = 0 →
    (createPart s p w0).2 = 0 ∧ (getPart (createPart s p w0).1 p).preparing = true
    ∧ ∀ cid ∈ groupClusters w0, ∀ n, n < 8 → ∃ t, (getSet (getCl (createPart s p w0).1 cid) n).use = .clearing t)
  ∧ (∀ (s : State) (p : Nat) (w0 : Word), descCheck s p (fun i => if i = 0 then w0 else partWord s p i) ≠ 0 →
    createPart s p w0 = (s, descCheck s p (fun i => if i = 0 then w0 else partWord s p i)))
  ∧ (∀ (p : Nat) (s : State), (getPart s p).preparing = true →
    ((∀ cid ∈ groupClusters (partWord s p 0), (freeSets (getCl s cid)).length = 8) →
      ∃ u, exec (.partitionReady p) s = .next u ∧ (getPart u p).valid = true ∧ (getPart u p).preparing = false
        ∧ ∀ cid ∈ groupClusters (partWord s p 0), (getCl u cid).part = some p)
    ∧ ((∃ cid ∈ groupClusters (partWord s p 0), (freeSets (getCl s cid)).length ≠ 8) → exec (.partitionReady p) s = .next s))
  ∧ (∀ (s : State) (p : Nat) (w0 : Word), hasLaunch s p = true → destroyPart s p w0 = (s, 3))
  ∧ (∀ (s : State) (p : Nat) (w0 : Word), (getPart s p).preparing = false → hasLaunch s p = false → (partWord s p 0).getLsbD 62 = false →
    (destroyPart s p w0).2 = 0 ∧ (getPart (destroyPart s p w0).1 p).valid = false ∧ (getPart (destroyPart s p w0).1 p).preparing = false)
  ∧ (∀ (s : State) (b : Bool) (d : Word), d.getLsbD 63 = true →
    (getDie (regWrite s b 0x100 d (BitVec.allOnes 64)).1 ((d.extractLsb' 12 2).toNat)).frozen = false)
  ∧ (∀ s : State, (bootOf (attest s)).arep = report s ∧ (bootOf (attest s)).asig = ecdsaSign (sha384 (report s)) (bootOf s).signed
    ∧ (bootOf (attest s)).avalid = true)
  ∧ (∀ (s : State) (b : Bool) (v : Word),
    ((portOf b s).busy = true → ictlWrite s b v = (s, 3))
    ∧ ((portOf b s).busy = false → (bootOf s).stage ≠ 8 → (ictlWrite s b v).2 = 5)
    ∧ (∀ p, (portOf b s).busy = false → (bootOf s).stage = 8 → p = (v.extractLsb' 58 3).toNat → (getPart s p).valid = true →
      (∀ kind, (kind = 0 ∧ v.extractLsb' 61 3 = 1#3 ∨ kind = 2 ∧ v.extractLsb' 61 3 = 2#3) →
        (bit (partWord s p 1) (v.extractLsb' 52 6).toNat = false → (ictlWrite s b v).2 = 4)
        ∧ (bit (partWord s p 1) (v.extractLsb' 52 6).toNat = true → destIn s p (imageWord s b 0) = true →
          (ictlWrite s b v).2 = 0 ∧ (portOf b (ictlWrite s b v).1).busy = true
          ∧ ∃ x, (ictlWrite s b v).1.net = s.net ++ [x] ∧ hKind x.hdr = kind ∧ hTag x.hdr = hTag (imageWord s b 0)
            ∧ hTenant x.hdr = (v.extractLsb' 52 6).toNat ∧ hDest x.hdr = hDest (imageWord s b 0)
            ∧ x.payload = (List.range (hLen (imageWord s b 0))).map fun i => imageWord s b (1 + i)))
      ∧ (v.extractLsb' 61 3 = 3#3 → destIn s p (imageWord s b 0) = true → (ictlWrite s b v).2 = 0
          ∧ ∃ x, (ictlWrite s b v).1.net = s.net ++ [x] ∧ hKind x.hdr = 3 ∧ (hTag x.hdr).toNat % 16 = 14 ∧ x.sys = true)
      ∧ (v.extractLsb' 61 3 = 0#3 → queueOk s p ((imageWord s b 1).extractLsb' 0 12).toNat = true → (ictlWrite s b v).2 = 0
          ∧ ∃ x, (ictlWrite s b v).1.net = s.net ++ [x] ∧ hKind x.hdr = 3 ∧ (hTag x.hdr).toNat % 16 = 15
            ∧ x.payload = [imageWord s b 1, imageWord s b 2])
      ∧ (v.extractLsb' 61 3 = 4#3 → faultCode ((imageWord s b 3).extractLsb' 0 16).toNat = true →
          ∀ ks, ks = abortNamed s p ((imageWord s b 1).extractLsb' 0 12).toNat ((imageWord s b 2).extractLsb' 0 32) →
          (ictlWrite s b v).2 = 0 ∧ (portOf b (ictlWrite s b v).1).aborted = min ks.length 255
          ∧ ∃ u, u = ks.foldl (fun x k => hostAborts x ((imageWord s b 3).extractLsb' 0 16).toNat k) s
            ∧ (ictlWrite s b v).1.launches = u.launches ∧ (ictlWrite s b v).1.cores = u.cores ∧ (ictlWrite s b v).1.mem = u.mem)))
  ∧ (∀ (s : State) (p q k : Nat) (lid : BitVec 32), k ∈ abortNamed s p q lid ↔
    ∃ l, (k, l) ∈ s.launches ∧ l.part = p ∧ l.q = q ∧ lidOf l = lid)
  ∧ (∀ (s : State) (p q : Nat) (lid : BitVec 32), (s.launches.map (·.1)).Nodup →
    (abortNamed s p q lid).Pairwise fun a b => ∀ x y, launchAt s a = some x → launchAt s b = some y → x.order ≤ y.order)
  ∧ (∀ (s u : State) (code k : Nat) (l : Launch), launchAt s k = some l → l.state ≠ .aborting → l.state ≠ .closing → rootDue s k l = false →
    u = hostAborts s code k →
    (launchAt u k = none ∨ ∃ l', launchAt u k = some l' ∧ (l'.state = .aborting ∨ l'.state = .closing) ∧ l'.abort = some (code, noHandle))
    ∧ ∀ c t, (getCore u c).run = some t → t.slot ≠ some k)
  ∧ (∀ (s g : State) (n cause : Nat) (p0 p : Parcel) (b : Bool), p.port = some b →
    (portOf b (portDone s p)).busy = false ∧ (portOf b (dropParcel s n p cause)).busy = false
    ∧ (Accepted s g n p0 p → (portOf b g).busy = false))

/-- Bring-up (R398 to R402). A cold reset clears the machine and boots from the flash; each step that fails leaves recovery with its error; when
all pass the firmware is loaded, every core's SYSENT is its entry, partition 0 is there, and a system parcel goes to the cluster core of
cluster 0. A warm reset boots the image again, memory kept; GO does so in recovery alone, and is DENIED elsewhere. An image's signature is accepted
only for a key on the curve and numbers in their range, and a digest has 48 bytes.
Log entries 5, 52, 53 and 54 are the model's own readings in it; an event that is not due is entry 7's. -/
def Obligations.Resets : Prop :=
  (∀ (i : BootInput) (s : State), i.flash = none → ∃ t, exec (.coldReset i) s = .next t ∧ (bootOf t).stage = 15 ∧ (bootOf t).err = 1
    ∧ t.mem = [] ∧ t.launches = [] ∧ t.net = [] ∧ (∀ c, (getCore t c).run = none))
  ∧ (∀ (i : BootInput) (s : State) (f : List Byte), i.flash = some f → ∃ u, exec (.coldReset i) s = .next (recReset (bootFrom3 u i) 0)
    ∧ u.mem = [] ∧ u.launches = [] ∧ u.net = [] ∧ (∀ o, o < 2 ^ 22 → imageByte u o = f.getD o 0) ∧ ∀ c, (getCore u c).run = none)
  ∧ (∀ (s : State) (i : BootInput),
    (formatOk s = false → bootFrom3 s i = failBoot s 7)
    ∧ (formatOk s = true → keyOk s = false → bootFrom3 s i = failBoot s 2)
    ∧ (formatOk s = true → keyOk s = true → image32 s 8 < Config.fuseMinSvn → bootFrom3 s i = failBoot s 3)
    ∧ (formatOk s = true → keyOk s = true → Config.fuseMinSvn ≤ image32 s 8 →
        ecdsaVerify (imageDigest s) (imageBytes s 32 96) (imageBytes s 256 96) = false → bootFrom3 s i = failBoot s 4)
    ∧ (formatOk s = true → keyOk s = true → Config.fuseMinSvn ≤ image32 s 8 →
        ecdsaVerify (imageDigest s) (imageBytes s 32 96) (imageBytes s 256 96) = true →
        (i.trained = false → ∃ u, bootFrom3 s i = failBoot u 6 ∧ u.mem = s.mem)
        ∧ (i.trained = true → i.populated = false → ∃ u, bootFrom3 s i = failBoot u 5 ∧ u.mem = s.mem)
        ∧ (i.trained = true → i.populated = true → ∃ u, (bootOf u).meas = imageDigest s ∧ (bootOf u).svn = BitVec.ofNat 32 (image32 s 8)
          ∧ u.mem = s.mem ∧ (p0Ok u = false → bootFrom3 s i = failBoot u 8)
          ∧ (p0Ok u = true → (bootOf (bootFrom3 s i)).stage = 8 ∧ (bootOf (bootFrom3 s i)).err = 0
            ∧ (getPart (bootFrom3 s i) 0).valid = true
            ∧ (∀ j, s.bad = [] → j < bodyLen s → image64 s 24 + j < 2 ^ 40 →
              ¬ ((p0Word s 7).toNat ≤ image64 s 24 + j
                ∧ image64 s 24 + j < (p0Word s 7).toNat + 2 ^ ((p0Word s 0).extractLsb' 48 6).toNat) →
              memByte (bootFrom3 s i) (image64 s 24 + j) = imageByte s (512 + j))
            ∧ (∀ cid k, cid < 576 → k < 9 → (getCore (bootFrom3 s i) (coreNo cid k)).sysent = BitVec.ofNat 64 (image64 s 24 + image64 s 16))
            ∧ ∃ x, (bootFrom3 s i).net = s.net ++ [x] ∧ x.sys = true ∧ hKind x.hdr = 3 ∧ (hTag x.hdr).toNat % 16 = 14
              ∧ hDestCore x.hdr = coreNo 0 8))))
  ∧ (∀ (m : List Byte), (sha384 m).length = 48)
  ∧ (∀ (d key sig : List Byte), ecdsaVerify d key sig = true →
    (1 ≤ natOfBytes (sig.take 48) ∧ natOfBytes (sig.take 48) < n384)
    ∧ (1 ≤ natOfBytes ((sig.drop 48).take 48) ∧ natOfBytes ((sig.drop 48).take 48) < n384)
    ∧ ∃ x y, x = natOfBytes (key.take 48) ∧ y = natOfBytes ((key.drop 48).take 48) ∧ x < p384 ∧ y < p384
      ∧ y ^ 2 % p384 = (x ^ 3 + (p384 - 3) * x + b384) % p384)
  ∧ (∀ (s : State) (e : Nat), (bootOf (failBoot s e)).stage = 15 ∧ (bootOf (failBoot s e)).err = e)
  ∧ (∀ (i : BootInput) (s : State) (t : HostTx) (rest : List HostTx), s.host.tx = t :: rest → t.from_ ≤ s.clk.mesh → txKind s t = .warm →
    (writeCheck { s with host := { s.host with tx := rest } } t = 0 →
      exec (.warmReset i) s = .next (showAt (recReset (bootFrom3 (warmState { s with host := { s.host with tx := rest } }) i) 1) (portB t) 0 [])
      ∧ (warmState s).launches = [] ∧ (warmState s).net = [] ∧ (∀ n, semOf (warmState s) n = 0) ∧ (warmState s).clk = s.clk)
    ∧ (∀ st, writeCheck { s with host := { s.host with tx := rest } } t = st → st ≠ 0 →
      exec (.warmReset i) s = .next (showAt { s with host := { s.host with tx := rest } } (portB t) st [])))
  ∧ (∀ (s : State) (a : Nat), (∀ e ∈ s.cores, ∀ l ∈ e.2.l1, l.dirty ≠ 0#128 → l.pa / 128 ≠ a / 128) →
    (∀ e ∈ s.slices, ∀ z ∈ e.2.lines, z.2.dirty ≠ 0#128 → z.2.pa / 128 ≠ a / 128) →
    (∀ r ∈ s.disp.queues, a < queueAt s r.part r.q + 20 ∨ queueAt s r.part r.q + 24 ≤ a) → memByte (warmState s) a = memByte s a)
  ∧ (∀ (i : BootInput) (s : State) (t : HostTx) (rest : List HostTx), s.host.tx = t :: rest → s.clk.mesh < t.from_ →
    exec (.warmReset i) s = .next s ∧ exec (.goOp i) s = .next s)
  ∧ (∀ (i : BootInput) (s u : State) (t : HostTx) (rest : List HostTx), s.host.tx = t :: rest → t.from_ ≤ s.clk.mesh → txKind s t = .go →
    u = { s with host := { s.host with tx := rest } } → writeCheck u t = 0 →
    ((bootOf s).stage = 15 → exec (.goOp i) s = .next (showAt (bootFrom3 (modBoot u fun b => { b with err := 0 }) i) (portB t) 0 []))
    ∧ ((bootOf s).stage ≠ 15 → exec (.goOp i) s = .next (showAt u (portB t) 5 [])))

/-- Links and the health of the device (R378, R383, R411, R414, R415). A port whose link goes down releases its semaphores and loses its pending
transactions, and is active again once it has trained; the wear prediction follows R415; a hot compute island drops a point, a cool one
climbs to the point requested, one point a millisecond, and while it is hot no faster point is taken; at 110 degrees every island of the die stops, its cores, engines and, on die 0, the dispatcher with it, and
the rings freeze; a change of point ends at its target.
Log entries 47, 55, 99 and 101 are the model's own readings in it; an event that is not due is entry 7's. -/
def Obligations.LinksAndHealth : Prop :=
  (∀ (b : Bool) (s : State), ∃ t, exec (.linkDown (if b then 1 else 0)) s = .next t ∧ (portOf b t).active = false ∧ MemKept s t
    ∧ (∀ n, n < 32 → semBy (semOf t n) b = false) ∧ (∀ n, semBy (semOf s n) b = false → semOf t n = semOf s n)
    ∧ t.host.tx = s.host.tx.filter (fun x => portB x ≠ b))
  ∧ (∀ (n : Nat) (s : State), n < 16 → ∃ t, exec (.linkDown (2 + n)) s = .next t ∧ look false (bootOf t).links n = false ∧ MemKept s t)
  ∧ (∀ (b : Bool) (s : State), ∃ t, exec (.linkActive (if b then 1 else 0)) s = .next t ∧ (portOf b t).active = true ∧ MemKept s t)
  ∧ (∀ (n : Nat) (s : State), n < 16 → ∃ t, exec (.linkActive (2 + n)) s = .next t ∧ look false (bootOf t).links n = true ∧ MemKept s t)
  ∧ (∀ (i hours : Nat) (drift : BitVec 16) (s : State), i < 24 → ∃ t, exec (.wearUpdate i drift hours) s = .next t ∧ MemKept s t
    ∧ (getIsland t i).drift = drift ∧ (getIsland t i).stress.toNat = min (hours / 4) 65535
    ∧ ((hours < 1000 ∨ drift = 0#16) →
        (getIsland t i).eol = 0xFFFFFFFF#32 ∧ (getIsland t i).low = 0xFFFFFFFF#32 ∧ (getIsland t i).high = 0xFFFFFFFF#32)
    ∧ (∀ x, 1000 ≤ hours → drift ≠ 0#16 → x = hours * (50000 - drift.toNat) / drift.toNat → x < 2 ^ 32 →
        (getIsland t i).eol.toNat = x ∧ (getIsland t i).low.toNat = x * 3 / 4 ∧ (getIsland t i).high.toNat = min (x * 5 / 4) 0xFFFFFFFE))
  ∧ (∀ (i : Nat) (temp : BitVec 16) (s : State), i < 24 → i % 6 < 4 → (getIsland s i).changing = false →
    ((∀ x, (getIsland s i).steppedAt = some x → x + 1000000 ≤ s.clk.ns) →
      (800 ≤ temp.toNat → temp.toNat < 880 → (getIsland s i).point < 3 → ∃ t, exec (.thermalThrottle i temp) s = .next t ∧ MemKept s t
        ∧ (getIsland t i).target = (getIsland s i).point + 1 ∧ (getIsland t i).changing = true ∧ (getIsland t i).sensor = temp
        ∧ (getIsland t i).hot = true ∧ (getIsland t i).steppedAt = some s.clk.ns)
      ∧ (temp.toNat ≤ 720 → (getIsland s i).wanted < (getIsland s i).point → ∃ t, exec (.thermalThrottle i temp) s = .next t ∧ MemKept s t
        ∧ (getIsland t i).target = (getIsland s i).point - 1 ∧ (getIsland t i).changing = true ∧ (getIsland t i).sensor = temp
        ∧ (getIsland t i).steppedAt = some s.clk.ns))
    ∧ (∀ x, (getIsland s i).steppedAt = some x → s.clk.ns < x + 1000000 → temp.toNat < 880 → ∃ t, exec (.thermalThrottle i temp) s = .next t
      ∧ MemKept s t ∧ (getIsland t i).target = (getIsland s i).target ∧ (getIsland t i).changing = false ∧ (getIsland t i).sensor = temp)
    ∧ (temp.toNat ≤ 720 → (getIsland s i).point ≤ (getIsland s i).wanted →
      exec (.thermalThrottle i temp) s = .next (modIsland s i fun x => { x with sensor := temp, hot := false }))
    ∧ (720 < temp.toNat → temp.toNat < 800 → exec (.thermalThrottle i temp) s = .next (modIsland s i fun x => { x with sensor := temp })))
  ∧ (∀ (i : Nat) (temp : BitVec 16) (s : State), i < 24 → 4 ≤ i % 6 → temp.toNat < 880 →
    exec (.thermalThrottle i temp) s = .next (modIsland s i fun x => { x with sensor := temp, hot := false }))
  ∧ (∀ (i : Nat) (temp : BitVec 16) (s : State), 880 ≤ temp.toNat → exec (.thermalThrottle i temp) s = exec (.thermalTrip i temp) s)
  ∧ (∀ (s : State) (p h va : Nat) (k : Acc), (getDie s (dieOf h)).tripped = true → (translate s p h va k).1.stuck = true)
  ∧ (∀ (s : State) (r : Host.Outcome State Fault Refusal) (t : State), r = .next t → unlessStuck s r = .next (if t.stuck then s else t))
  ∧ (∀ (s : State) (i p : Nat), (getIsland s i).changing = false → p ≠ (getIsland s i).point →
    (getIsland (askPoint s i p) i).wanted = p
    ∧ (((getIsland s i).point < p ∨ (getIsland s i).hot = false) →
      (getIsland (askPoint s i p) i).changing = true ∧ (getIsland (askPoint s i p) i).target = p)
    ∧ (p < (getIsland s i).point → (getIsland s i).hot = true → (getIsland (askPoint s i p) i).changing = false))
  ∧ (∀ (i : Nat) (temp : BitVec 16) (s : State), i < 24 → 880 ≤ temp.toNat → ∃ t, exec (.thermalTrip i temp) s = .next t ∧ MemKept s t
    ∧ (getDie t (i / 6)).tripped = true ∧ (getIsland t i).sensor = temp ∧ (bootOf t).stage = 14 ∧ (∀ c, c < 4 → (getDie t c).frozen = true))
  ∧ (∀ (s : State) (c : Nat), cidOf c < 576 → (getDie s (dieOf (cidOf c))).tripped = true → mayIssue s c = false ∧ halted s (.taskStart c) = true)
  ∧ (∀ (s : State) (e : Nat), e < 1152 → (getDie s (dieOf (e / 2))).tripped = true →
    ∀ i ∈ [Instr.copyOperation e, .compactOperation e, .fillOperation e, .reduceOperation e], halted s i = true)
  ∧ (∀ (s : State) (p q : Nat), (getDie s 0).tripped = true → halted s (.admission p q) = true ∧ halted s (.regionTake p) = true)
  ∧ (∀ (d : Nat) (temp : BitVec 16) (s : State), temp.toNat < 880 → exec (.thermalTrip d temp) s = .next s)
  ∧ (∀ (i : Nat) (s : State), (getIsland s i).changing = true → ∃ t, exec (.pointChangeDone i) s = .next t ∧ MemKept s t
    ∧ (getIsland t i).point = (getIsland s i).target
    ∧ ((getIsland s i).wanted = (getIsland s i).target → (getIsland t i).changing = false)
    ∧ ((getIsland s i).wanted < (getIsland s i).target → (getIsland s i).hot = true → (getIsland t i).changing = false)
    ∧ ((getIsland s i).wanted < (getIsland s i).target → (getIsland s i).hot = false →
      (getIsland t i).changing = true ∧ (getIsland t i).target = (getIsland s i).wanted)
    ∧ ((getIsland s i).target < (getIsland s i).wanted → (getIsland t i).changing = true ∧ (getIsland t i).target = (getIsland s i).wanted))
  ∧ (∀ (i : Nat) (s : State), (getIsland s i).changing = false → exec (.pointChangeDone i) s = .next s)

/-! ## The memory instructions complete -/
namespace Sys2Proof.Say

/-- A home slice grants an access of a kind at an address to the running task: the page maps it with the permission (R356 to R358). -/
def Granted (s : State) (a : Nat) (k : Acc) (x : Xl) : Prop := a < 2 ^ 49 ∧ (translate s (myPart s) (homeAt s a) a k).2 = .ok x
/-- No race is found for an access of `n` bytes that lie in one line (R183, R197). -/
def Unraced (s : State) (a n : Nat) (write strong : Bool) : Prop :=
  ∃ u, detectMine s (taskOf s).det.epoch (a / 128) (maskRange (a % 128) n) write strong = .ok u
/-- The alignment of an access of `n` bytes (R255). -/
def alignOf (n : Nat) : Nat := if n = 128 then 16 else n
/-- Byte `j` of an access of `n` bytes that a weak read gives at once: from the core store or an attached set where the checks pass, from
device memory where the L1 holds the line for reading (R256, R257). -/
def spaceByte (s : State) (a : Word) (spc : Space) (n j : Nat) : Option Byte :=
  match spc with
  | .core => match coreCheck s a n (alignOf n) with
    | .ok o => some (storeByte (getCore s s.cur) (o + j))
    | .error _ => none
  | .sp => match spCheck s a n (alignOf n) false with
    | .ok (.set cl m o) => some (setByte (getSet (getCl s cl) m) (o + j))
    | _ => none
  | .dev =>
    if a.toNat < 2 ^ 49 ∧ a.toNat % alignOf n = 0 then
      match (l1Line s (a.toNat + j)).filter (·.rd) with
      | some l => some (byteAt (heldOver s l) ((a.toNat + j) % 128))
      | none => none
    else none
/-- A weak write of `n` bytes that is taken at once: into the core store or an attached set where the checks pass, into a line that the L1
holds for writing (R256, R257). -/
def SpaceTakes (s : State) (a : Word) (spc : Space) (n : Nat) : Prop :=
  match spc with
  | .core => ∃ o, coreCheck s a n (alignOf n) = .ok o
  | .sp => ∃ l, spCheck s a n (alignOf n) true = .ok l
  | .dev => a.toNat < 2 ^ 49 ∧ a.toNat % alignOf n = 0 ∧ a.toNat % 128 + n ≤ 128 ∧ ∃ l, l1Line s a.toNat = some l ∧ l.wr = true
/-- What the elements of a gather or scatter are at: the address of element `i`. -/
def elemAddr (s : State) (f : FmtM) (idx : List Nat) (i : Nat) : Word := (effAddr s f).1 + BitVec.ofNat 64 (idx.getD i 0 * 2 ^ f.sz.toNat)

end Sys2Proof.Say

/-- The memory instructions complete, and control goes on (R257 to R263). A strong load or store of a task with nothing under way, whose
page is granted, whose access races with nothing and whose records fit 32 entries, where no window of the line is open for a store: the load
with the line's bytes, the store with its bytes dirty in the line. A ldq where the queue has room and every byte is there at once; one
whose line neither the L1 nor the slice has reserves its entry and goes on, and a window of the slice will fill it. A gather where every byte is
there at once; a stq whose queue holds an entry, and a scatter, where every write is taken at once. A pref always; flush and inval of a
line whose bytes are clean (with dirty ones `Obligations.CacheControlAndStrongAccesses` has their effect), and a fence, of a task with
nothing under way. -/
def Obligations.MemoryInstructionsComplete : Prop :=
  (∀ (f : FmtM) (s : State) (a n : Nat) (x : Xl), ready (.lds f) s = true → Quiet s → a = (devAddr s f).toNat → n = 2 ^ f.sz.toNat →
    a % n = 0 → Granted s a .read x → Unraced s a n false true →
    (taskOf s).det.acq.length + (relOf s (myPart s) (a / 128)).length ≤ 32 →
    ∃ t, exec (.lds f) s = .next t ∧ StoreKept s t (scalarWords s f.d) ∧ ctxOf t = advance (ctxOf s) .seq
      ∧ ∀ d, keptAt s a = some d → x.hc = false → x.pa / 128 ≠ (partWord s (myPart s) 6).toNat / 128 → f.d.toNat < 32 →
          scalarOf t f.d = extended f.sx n (lineBytes d.data (a % 128) n))
  ∧ (∀ (f : FmtM) (s : State) (a n : Nat) (x : Xl), ready (.sts f) s = true → Quiet s → a = (devAddr s f).toNat → n = 2 ^ f.sz.toNat →
    a % n = 0 → Granted s a .write x → Unraced s a n true true → (taskOf s).det.acq.length ≤ 31 →
    (∀ w ∈ (getSl s (homeAt s a)).windows, w.line ≠ a / 128) →
    (relScope (taskOf s).det (ordRel f) = some .sys → ∀ e ∈ s.slices, ∀ l ∈ e.2.lines, l.2.dirty = 0#128) →
    ∃ t, exec (.sts f) s = .next t ∧ StoreKept s t (fun _ => false) ∧ ctxOf t = advance (ctxOf s) .seq
      ∧ ∀ d, keptAt s a = some d → x.hc = false → x.pa / 128 ≠ (partWord s (myPart s) 6).toNat / 128 → ∃ d', keptAt t a = some d'
          ∧ (∀ i, i < n → byteAt d'.data (a % 128 + i) = byteAt (readS s f.d) i ∧ d'.dirty.getLsbD (a % 128 + i) = true)
          ∧ ∀ i, i < 128 → (i < a % 128 ∨ a % 128 + n ≤ i) → byteAt d'.data i = byteAt d.data i)
  ∧ (∀ (f : FmtM) (s : State) (l : List Line), ready (.ldq f) s = true → (∀ q ∈ s.posted, isOwn s q = false) →
    l = look [] (getTile s (tileOfCore s.cur)).lq (f.d.toNat - 16) → l.length < 8 →
    (∀ p ∈ (getTile s (tileOfCore s.cur)).fills, p.q ≠ f.d.toNat - 16) →
    (∀ j, j < 128 → (spaceByte s (effAddr s f).1 (effAddr s f).2 128 j).isSome = true) →
    ∃ t v, exec (.ldq f) s = .next t ∧ MemKept s t ∧ ctxOf t = advance (ctxOf s) .seq
      ∧ look [] (getTile t (tileOfCore s.cur)).lq (f.d.toNat - 16) = l ++ [v]
      ∧ ∀ j, j < 128 → spaceByte s (effAddr s f).1 (effAddr s f).2 128 j = some (byteAt v j))
  ∧ (∀ (f : FmtM) (s : State) (a : Nat) (x : Xl), ready (.ldq f) s = true → Quiet s → (effAddr s f).2 = .dev → a = (effAddr s f).1.toNat →
    a % 128 = 0 → Granted s a .read x → Unraced s a 128 false false → l1Line s a = none →
    ((getCore s s.cur).l1.filter fun e => e.line % 32 = a / 128 % 32).length < 8 → keptAt s a = none → (taskOf s).fromMem = false →
    lqHeld (getTile s (tileOfCore s.cur)) (f.d.toNat - 16) < 8 →
    ∃ t w, exec (.ldq f) s = .next t ∧ StoreKept s t (fun _ => false) ∧ ctxOf t = advance (ctxOf s) .seq
      ∧ lqHeld (getTile t (tileOfCore s.cur)) (f.d.toNat - 16) = lqHeld (getTile s (tileOfCore s.cur)) (f.d.toNat - 16) + 1
      ∧ w ∈ (getSl t (homeAt s a)).windows ∧ w.line = a / 128 ∧ s.cur ∈ w.cores)
  ∧ (∀ (f : FmtM) (s : State) (d : Line) (l : List Line), ready (.stq f) s = true → (∀ q ∈ s.posted, isOwn s q = false) →
    look [] (getTile s (tileOfCore s.cur)).sq (f.d.toNat - 20) = d :: l → SpaceTakes s (effAddr s f).1 (effAddr s f).2 128 →
    ((effAddr s f).2 = .dev → ∃ x, Granted s (effAddr s f).1.toNat .write x) →
    ∃ t, exec (.stq f) s = .next t ∧ ctxOf t = advance (ctxOf s) .seq
      ∧ look [] (getTile t (tileOfCore s.cur)).sq (f.d.toNat - 20) = l
      ∧ (∀ o, (effAddr s f).2 = .core → coreCheck s (effAddr s f).1 128 16 = .ok o → ∀ i, i < 128 →
          ¬ ((taskOf s).wp + 336 ≤ o + i ∧ o + i < (taskOf s).wp + 384) → storeByte (getCore t s.cur) (o + i) = byteAt d i)
      ∧ (∀ cl m o, (effAddr s f).2 = .sp → spCheck s (effAddr s f).1 128 16 true = .ok (.set cl m o) → ∀ i, i < 128 →
          setByte (getSet (getCl t cl) m) (o + i) = byteAt d i)
      ∧ ((effAddr s f).2 = .dev → ∃ l', l1Line t (effAddr s f).1.toNat = some l' ∧ l'.data = d))
  ∧ (∀ (f : FmtM) (s : State) (m blk : Nat) (idx : List Nat), ready (.gather f) s = true → (∀ q ∈ s.posted, isOwn s q = false) →
    m = 128 / 2 ^ f.sz.toNat → gatherList s f m = .ok (blk, idx) →
    (∀ i j, i < m → j < 2 ^ f.sz.toNat → (spaceByte s (elemAddr s f idx i) (effAddr s f).2 (2 ^ f.sz.toNat) j).isSome = true) →
    ∃ t, exec (.gather f) s = .next t ∧ MemKept s t ∧ ctxOf t = advance (ctxOf s) .seq
      ∧ ∀ i j, i < m → j < 2 ^ f.sz.toNat →
          ¬ ((taskOf s).wp + 336 ≤ blk + i * 2 ^ f.sz.toNat + j ∧ blk + i * 2 ^ f.sz.toNat + j < (taskOf s).wp + 384) →
          spaceByte s (elemAddr s f idx i) (effAddr s f).2 (2 ^ f.sz.toNat) j
            = some (storeByte (getCore t s.cur) (blk + i * 2 ^ f.sz.toNat + j)))
  ∧ (∀ (f : FmtM) (s : State) (m blk : Nat) (idx : List Nat), ready (.scatter f) s = true → (∀ q ∈ s.posted, isOwn s q = false) →
    m = 128 / 2 ^ f.sz.toNat → gatherList s f m = .ok (blk, idx) →
    (∀ i, i < m → SpaceTakes s (elemAddr s f idx i) (effAddr s f).2 (2 ^ f.sz.toNat)) →
    ∃ t, exec (.scatter f) s = .next t ∧ MemKept s t ∧ ctxOf t = advance (ctxOf s) .seq)
  ∧ (∀ (f : FmtM) (s : State), ready (.pref f) s = true →
    ∃ t, exec (.pref f) s = .next t ∧ (Quiet s → StoreKept s t (fun _ => false) ∧ ctxOf t = advance (ctxOf s) .seq))
  ∧ (∀ (f : FmtM) (s : State), (devAddr s f).toNat < 2 ^ 49 → (∀ h ∈ (taskOf s).held, h.line ≠ (devAddr s f).toNat / 128) →
    (∀ l ∈ (getCore s s.cur).l1, l.line = (devAddr s f).toNat / 128 → l.dirty = 0#128 ∧ l.stamps = []) →
    (ready (.flush f) s = true → ∃ t, exec (.flush f) s = .next t ∧ MemKept s t ∧ StoreKept s t (fun _ => false)
      ∧ ctxOf t = advance (ctxOf s) .seq)
    ∧ (ready (.inval f) s = true → ∃ t, exec (.inval f) s = .next t ∧ MemKept s t ∧ StoreKept s t (fun _ => false)
      ∧ ctxOf t = advance (ctxOf s) .seq ∧ l1Line t (devAddr s f).toNat = none))
  ∧ (∀ (f : FmtM) (s : State), ready (.fence f) s = true → Quiet s → (taskOf s).det.acq.length + (taskOf s).det.seen.length ≤ 32 →
    ∃ t, exec (.fence f) s = .next t ∧ StoreKept s t (fun _ => false) ∧ ctxOf t = advance (ctxOf s) .seq
      ∧ (f.sz ≠ 1#3 → (taskOf t).det.seen = [])
      ∧ (f.sz = 0#3 → (taskOf t).det.arm = (taskOf s).det.arm ∧ (taskOf t).det.epoch = (taskOf s).det.epoch)
      ∧ (f.sz ≠ 0#3 → (taskOf t).det.epoch = (taskOf s).det.epoch + 1
          ∧ (taskOf t).det.arm = some (fenceScope s (scopeOf f.sco), (taskOf s).det.epoch + 1)))
end

