-- ==== Sys2Proof/Laws/Maps.lean ====
section
/-! SUPPORT. What the sparse maps do: a read after a write, and that every operation keeps the canonical form. -/
namespace Sys2Proof.Machine

variable {α : Type}

theorem look_eq_find (d : α) (m : List (Nat × α)) (k : Nat) : look d m k = (find m k).getD d := by
  induction m with
  | nil => rfl
  | cons e t ih => simp only [look, find]; split <;> simp [*]

@[simp] theorem find_nil (k : Nat) : find ([] : List (Nat × α)) k = none := rfl
@[simp] theorem look_nil (d : α) (k : Nat) : look d [] k = d := rfl

theorem find_append (l m : List (Nat × α)) (k : Nat) : find (l ++ m) k = (find l k).or (find m k) := by
  induction l with
  | nil => simp
  | cons e t ih => simp only [List.cons_append, find]; split <;> simp [ih]

theorem find_filter (p : Nat → Bool) (m : List (Nat × α)) (k : Nat) :
    find (m.filter fun e => p e.1) k = if p k then find m k else none := by
  induction m with
  | nil => simp
  | cons e t ih =>
    by_cases h : e.1 = k
    · subst h
      cases hp : p e.1 <;> simp [find, hp, ih]
    · cases hp : p e.1 <;> simp [find, hp, ih, h]

theorem find_below (a : Nat) (m : List (Nat × α)) (k : Nat) : find (below a m) k = if k < a then find m k else none := by
  simpa [below] using find_filter (fun n => decide (n < a)) m k
theorem find_above (a : Nat) (m : List (Nat × α)) (k : Nat) : find (above a m) k = if a ≤ k then find m k else none := by
  simpa [above] using find_filter (fun n => decide (a ≤ n)) m k

/-- A record put at a key is what the key holds; every other key holds what it held. -/
theorem find_put (m : List (Nat × α)) (a : Nat) (v : α) (k : Nat) : find (put m a v) k = if a = k then some v else find m k := by
  simp only [put, find_append, find_below, find, find_above]
  by_cases h : a = k
  · subst h; simp
  · rcases Nat.lt_or_ge k a with h1 | h1
    · have h2 : ¬ a + 1 ≤ k := by omega
      simp [h, h1, h2]
    · have h2 : a + 1 ≤ k := by omega
      have h3 : ¬ k < a := by omega
      simp [h, h2, h3]
@[simp] theorem find_put_same (m : List (Nat × α)) (a : Nat) (v : α) : find (put m a v) a = some v := by simp [find_put]
theorem find_put_other (m : List (Nat × α)) {a k : Nat} (v : α) (h : a ≠ k) : find (put m a v) k = find m k := by simp [find_put, h]
theorem look_put (d : α) (m : List (Nat × α)) (a : Nat) (v : α) (k : Nat) : look d (put m a v) k = if a = k then v else look d m k := by
  simp only [look_eq_find, find_put]; split <;> rfl
@[simp] theorem look_put_same (d : α) (m : List (Nat × α)) (a : Nat) (v : α) : look d (put m a v) a = v := by simp [look_put]
theorem look_put_other (d : α) (m : List (Nat × α)) {a k : Nat} (v : α) (h : a ≠ k) : look d (put m a v) k = look d m k := by
  simp [look_put, h]

/-- A key removed holds nothing; every other key holds what it held. -/
theorem find_drop (m : List (Nat × α)) (a k : Nat) : find (drop m a) k = if a = k then none else find m k := by
  have h := find_filter (fun n => decide (n ≠ a)) m k
  simp only [drop]
  rw [h]
  by_cases e : a = k
  · simp [e]
  · have e' : k ≠ a := fun x => e x.symm
    simp [e, e']

section
variable [DecidableEq α]

theorem find_block (d : α) (vs : List α) (a k : Nat) :
    find (block d a vs) k = if a ≤ k ∧ k < a + vs.length ∧ vs.getD (k - a) d ≠ d then some (vs.getD (k - a) d) else none := by
  induction vs generalizing a with
  | nil => simp [block]
  | cons v t ih =>
    rcases Nat.lt_trichotomy a k with h | h | h
    · have e : k - a = (k - (a + 1)) + 1 := by omega
      have g : (v :: t).getD (k - a) d = t.getD (k - (a + 1)) d := by rw [e]; rfl
      have c : (a ≤ k ∧ k < a + (v :: t).length ∧ t.getD (k - (a + 1)) d ≠ d)
          ↔ (a + 1 ≤ k ∧ k < a + 1 + t.length ∧ t.getD (k - (a + 1)) d ≠ d) := by
        simp only [List.length_cons]
        constructor <;> rintro ⟨x, y, z⟩ <;> exact ⟨by omega, by omega, z⟩
      rw [g]
      simp only [block]
      have n : a ≠ k := by omega
      split
      · rw [ih]; simp only [c]
      · rw [find, if_neg n, ih]; simp only [c]
    · subst h
      simp only [block]
      split
      · rename_i hv
        rw [ih]; simp [hv] <;> omega
      · rename_i hv
        simp [find, hv]
    · have n : ¬ a ≤ k := by omega
      have n1 : ¬ a + 1 ≤ k := by omega
      have ne : a ≠ k := by omega
      simp only [block]
      split
      · rw [ih]; simp [n, n1]
      · rw [find, if_neg ne, ih]; simp [n, n1]

/-- A run of values written is what its keys read as; every other key reads as it read. -/
theorem look_writeRun (d : α) (m : List (Nat × α)) (a : Nat) (vs : List α) (k : Nat) :
    look d (writeRun d m a vs) k = if a ≤ k ∧ k < a + vs.length then vs.getD (k - a) d else look d m k := by
  simp only [writeRun, look_eq_find, find_append, find_below, find_block, find_above]
  rcases Nat.lt_or_ge k a with h | h
  · have n : ¬ a ≤ k := by omega
    have n1 : ¬ a + vs.length ≤ k := by omega
    simp [h, n, n1]
  · have n : ¬ k < a := by omega
    rcases Nat.lt_or_ge k (a + vs.length) with g | g
    · have n1 : ¬ a + vs.length ≤ k := by omega
      by_cases e : vs.getD (k - a) d = d
      · rw [e]; simp [n, n1]
      · simp only [n, if_false, h, g, n1, ne_eq, e, not_false_eq_true, and_self, if_true]; rfl
    · have n1 : ¬ k < a + vs.length := by omega
      simp [n, h, g, n1]

theorem look_writeOne (d : α) (m : List (Nat × α)) (a : Nat) (v : α) (k : Nat) :
    look d (writeOne d m a v) k = if a = k then v else look d m k := by
  simp only [writeOne, look_writeRun, List.length_singleton]
  by_cases h : a = k
  · subst h; simp
  · have n : ¬ (a ≤ k ∧ k < a + 1) := by omega
    rw [if_neg n, if_neg h]

end

/-! The canonical form. -/

theorem rising_iff (m : List (Nat × α)) : rising m = true ↔ m.Pairwise fun x y => x.1 < y.1 := by
  induction m with
  | nil => simp [rising]
  | cons e t ih =>
    cases t with
    | nil => simp [rising]
    | cons f u =>
      simp only [rising, Bool.and_eq_true, decide_eq_true_eq, ih, List.pairwise_cons, List.mem_cons, forall_eq_or_imp]
      constructor
      · rintro ⟨h, h1, h2⟩
        exact ⟨⟨h, fun x hx => Nat.lt_trans h (h1 x hx)⟩, h1, h2⟩
      · rintro ⟨⟨h, -⟩, h1, h2⟩
        exact ⟨h, h1, h2⟩

theorem rising_filter {p : Nat × α → Bool} {m : List (Nat × α)} (h : rising m = true) : rising (m.filter p) = true := by
  rw [rising_iff] at h ⊢; exact h.filter p

theorem rising_three {a b : Nat} {l x u : List (Nat × α)} (hl : rising l = true) (hx : rising x = true) (hu : rising u = true)
    (h1 : ∀ e ∈ l, e.1 < a) (h2 : ∀ e ∈ x, a ≤ e.1 ∧ e.1 < b) (h3 : ∀ e ∈ u, b ≤ e.1) (hab : a ≤ b) :
    rising (l ++ (x ++ u)) = true := by
  rw [rising_iff] at *
  rw [List.pairwise_append, List.pairwise_append]
  refine ⟨hl, ⟨hx, hu, fun e he f hf => ?_⟩, fun e he f hf => ?_⟩
  · have := h2 e he; have := h3 f hf; omega
  · have := h1 e he
    rcases List.mem_append.mp hf with hf | hf
    · have := h2 f hf; omega
    · have := h3 f hf; omega

/-- A record put keeps the keys rising. -/
theorem rising_put {m : List (Nat × α)} (h : rising m = true) (a : Nat) (v : α) : rising (put m a v) = true :=
  rising_three (a := a) (b := a + 1) (x := [(a, v)]) (rising_filter h) rfl (rising_filter h)
    (fun e he => by simpa [below] using (List.mem_filter.mp he).2)
    (fun e he => by simp_all) (fun e he => by simpa [above] using (List.mem_filter.mp he).2) (by omega)
theorem rising_drop {m : List (Nat × α)} (h : rising m = true) (a : Nat) : rising (drop m a) = true := rising_filter h

section
variable [DecidableEq α]

theorem mem_block (d : α) (vs : List α) (a : Nat) (e : Nat × α) (h : e ∈ block d a vs) :
    a ≤ e.1 ∧ e.1 < a + vs.length ∧ e.2 ≠ d := by
  induction vs generalizing a with
  | nil => simp [block] at h
  | cons v t ih =>
    simp only [block] at h
    simp only [List.length_cons]
    split at h
    · have := ih _ h; exact ⟨by omega, by omega, this.2.2⟩
    · rename_i hv
      rcases List.mem_cons.mp h with h | h
      · subst h; exact ⟨by simp, by simp, hv⟩
      · have := ih _ h; exact ⟨by omega, by omega, this.2.2⟩
theorem rising_block (d : α) (vs : List α) (a : Nat) : rising (block d a vs) = true := by
  induction vs generalizing a with
  | nil => rfl
  | cons v t ih =>
    simp only [block]
    split
    · exact ih _
    · rw [rising_iff, List.pairwise_cons]
      exact ⟨fun e he => by have := mem_block d t (a + 1) e he; simp only; omega, (rising_iff _).mp (ih _)⟩

/-- A run written keeps the canonical form. -/
theorem canonical_writeRun {d : α} {m : List (Nat × α)} (h : canonical d m = true) (a : Nat) (vs : List α) :
    canonical d (writeRun d m a vs) = true := by
  simp only [canonical, Bool.and_eq_true, List.all_eq_true, decide_eq_true_eq] at h ⊢
  refine ⟨rising_three (a := a) (b := a + vs.length) (rising_filter h.1) (rising_block d vs a) (rising_filter h.1) ?_ ?_ ?_ (by omega), ?_⟩
  · exact fun e he => by simpa [below] using (List.mem_filter.mp he).2
  · exact fun e he => by have := mem_block d vs a e he; exact ⟨this.1, this.2.1⟩
  · exact fun e he => by simpa [above] using (List.mem_filter.mp he).2
  · intro e he
    simp only [writeRun, List.mem_append] at he
    rcases he with he | he | he
    · exact h.2 e (List.mem_filter.mp he).1
    · exact (mem_block d vs a e he).2.2
    · exact h.2 e (List.mem_filter.mp he).1
theorem canonical_writeOne {d : α} {m : List (Nat × α)} (h : canonical d m = true) (a : Nat) (v : α) :
    canonical d (writeOne d m a v) = true := canonical_writeRun h a [v]

theorem mem_writeRun {d : α} {m : List (Nat × α)} {a : Nat} {vs : List α} {e : Nat × α} (h : e ∈ writeRun d m a vs) :
    e ∈ m ∨ (a ≤ e.1 ∧ e.1 < a + vs.length) := by
  simp only [writeRun, List.mem_append] at h
  rcases h with h | h | h
  · exact .inl (List.mem_filter.mp h).1
  · have := mem_block d vs a e h; exact .inr ⟨this.1, this.2.1⟩
  · exact .inl (List.mem_filter.mp h).1

end

end Sys2Proof.Machine
end

