-- ==== Sys2Proof/Laws/State.lean ====
section
/-! SUPPORT. The small laws of State: what each replacement of a part leaves as it was, and what it makes the part. -/
namespace Sys2Proof.Machine

variable (s : State)

/-! `setCore` -/

@[simp] theorem setCore_sched (c : Nat) (x : Core) : (setCore s c x).sched = s.sched := rfl
@[simp] theorem setCore_cur (c : Nat) (x : Core) : (setCore s c x).cur = s.cur := rfl
@[simp] theorem setCore_clk (c : Nat) (x : Core) : (setCore s c x).clk = s.clk := rfl
@[simp] theorem setCore_mem (c : Nat) (x : Core) : (setCore s c x).mem = s.mem := rfl
@[simp] theorem setCore_bad (c : Nat) (x : Core) : (setCore s c x).bad = s.bad := rfl
@[simp] theorem setCore_flips (c : Nat) (x : Core) : (setCore s c x).flips = s.flips := rfl
@[simp] theorem setCore_upsets (c : Nat) (x : Core) : (setCore s c x).upsets = s.upsets := rfl
@[simp] theorem setCore_stuck (c : Nat) (x : Core) : (setCore s c x).stuck = s.stuck := rfl
@[simp] theorem setCore_tiles (c : Nat) (x : Core) : (setCore s c x).tiles = s.tiles := rfl
@[simp] theorem setCore_clusters (c : Nat) (x : Core) : (setCore s c x).clusters = s.clusters := rfl
@[simp] theorem setCore_slices (c : Nat) (x : Core) : (setCore s c x).slices = s.slices := rfl
@[simp] theorem setCore_parts (c : Nat) (x : Core) : (setCore s c x).parts = s.parts := rfl
@[simp] theorem setCore_disp (c : Nat) (x : Core) : (setCore s c x).disp = s.disp := rfl
@[simp] theorem setCore_launches (c : Nat) (x : Core) : (setCore s c x).launches = s.launches := rfl
@[simp] theorem setCore_net (c : Nat) (x : Core) : (setCore s c x).net = s.net := rfl
@[simp] theorem setCore_posted (c : Nat) (x : Core) : (setCore s c x).posted = s.posted := rfl
@[simp] theorem setCore_reds (c : Nat) (x : Core) : (setCore s c x).reds = s.reds := rfl
@[simp] theorem setCore_ctrs (c : Nat) (x : Core) : (setCore s c x).ctrs = s.ctrs := rfl
@[simp] theorem setCore_reports (c : Nat) (x : Core) : (setCore s c x).reports = s.reports := rfl
@[simp] theorem setCore_host (c : Nat) (x : Core) : (setCore s c x).host = s.host := rfl

/-! `modCore` -/

@[simp] theorem modCore_sched (c : Nat) (f : Core → Core) : (modCore s c f).sched = s.sched := rfl
@[simp] theorem modCore_cur (c : Nat) (f : Core → Core) : (modCore s c f).cur = s.cur := rfl
@[simp] theorem modCore_clk (c : Nat) (f : Core → Core) : (modCore s c f).clk = s.clk := rfl
@[simp] theorem modCore_mem (c : Nat) (f : Core → Core) : (modCore s c f).mem = s.mem := rfl
@[simp] theorem modCore_bad (c : Nat) (f : Core → Core) : (modCore s c f).bad = s.bad := rfl
@[simp] theorem modCore_flips (c : Nat) (f : Core → Core) : (modCore s c f).flips = s.flips := rfl
@[simp] theorem modCore_upsets (c : Nat) (f : Core → Core) : (modCore s c f).upsets = s.upsets := rfl
@[simp] theorem modCore_stuck (c : Nat) (f : Core → Core) : (modCore s c f).stuck = s.stuck := rfl
@[simp] theorem modCore_tiles (c : Nat) (f : Core → Core) : (modCore s c f).tiles = s.tiles := rfl
@[simp] theorem modCore_clusters (c : Nat) (f : Core → Core) : (modCore s c f).clusters = s.clusters := rfl
@[simp] theorem modCore_slices (c : Nat) (f : Core → Core) : (modCore s c f).slices = s.slices := rfl
@[simp] theorem modCore_parts (c : Nat) (f : Core → Core) : (modCore s c f).parts = s.parts := rfl
@[simp] theorem modCore_disp (c : Nat) (f : Core → Core) : (modCore s c f).disp = s.disp := rfl
@[simp] theorem modCore_launches (c : Nat) (f : Core → Core) : (modCore s c f).launches = s.launches := rfl
@[simp] theorem modCore_net (c : Nat) (f : Core → Core) : (modCore s c f).net = s.net := rfl
@[simp] theorem modCore_posted (c : Nat) (f : Core → Core) : (modCore s c f).posted = s.posted := rfl
@[simp] theorem modCore_reds (c : Nat) (f : Core → Core) : (modCore s c f).reds = s.reds := rfl
@[simp] theorem modCore_ctrs (c : Nat) (f : Core → Core) : (modCore s c f).ctrs = s.ctrs := rfl
@[simp] theorem modCore_reports (c : Nat) (f : Core → Core) : (modCore s c f).reports = s.reports := rfl
@[simp] theorem modCore_host (c : Nat) (f : Core → Core) : (modCore s c f).host = s.host := rfl

/-! `setTile` -/

@[simp] theorem setTile_sched (t : Nat) (x : Tile) : (setTile s t x).sched = s.sched := rfl
@[simp] theorem setTile_cur (t : Nat) (x : Tile) : (setTile s t x).cur = s.cur := rfl
@[simp] theorem setTile_clk (t : Nat) (x : Tile) : (setTile s t x).clk = s.clk := rfl
@[simp] theorem setTile_mem (t : Nat) (x : Tile) : (setTile s t x).mem = s.mem := rfl
@[simp] theorem setTile_bad (t : Nat) (x : Tile) : (setTile s t x).bad = s.bad := rfl
@[simp] theorem setTile_flips (t : Nat) (x : Tile) : (setTile s t x).flips = s.flips := rfl
@[simp] theorem setTile_upsets (t : Nat) (x : Tile) : (setTile s t x).upsets = s.upsets := rfl
@[simp] theorem setTile_stuck (t : Nat) (x : Tile) : (setTile s t x).stuck = s.stuck := rfl
@[simp] theorem setTile_cores (t : Nat) (x : Tile) : (setTile s t x).cores = s.cores := rfl
@[simp] theorem setTile_clusters (t : Nat) (x : Tile) : (setTile s t x).clusters = s.clusters := rfl
@[simp] theorem setTile_slices (t : Nat) (x : Tile) : (setTile s t x).slices = s.slices := rfl
@[simp] theorem setTile_parts (t : Nat) (x : Tile) : (setTile s t x).parts = s.parts := rfl
@[simp] theorem setTile_disp (t : Nat) (x : Tile) : (setTile s t x).disp = s.disp := rfl
@[simp] theorem setTile_launches (t : Nat) (x : Tile) : (setTile s t x).launches = s.launches := rfl
@[simp] theorem setTile_net (t : Nat) (x : Tile) : (setTile s t x).net = s.net := rfl
@[simp] theorem setTile_posted (t : Nat) (x : Tile) : (setTile s t x).posted = s.posted := rfl
@[simp] theorem setTile_reds (t : Nat) (x : Tile) : (setTile s t x).reds = s.reds := rfl
@[simp] theorem setTile_ctrs (t : Nat) (x : Tile) : (setTile s t x).ctrs = s.ctrs := rfl
@[simp] theorem setTile_reports (t : Nat) (x : Tile) : (setTile s t x).reports = s.reports := rfl
@[simp] theorem setTile_host (t : Nat) (x : Tile) : (setTile s t x).host = s.host := rfl

/-! `modTile` -/

@[simp] theorem modTile_sched (t : Nat) (f : Tile → Tile) : (modTile s t f).sched = s.sched := rfl
@[simp] theorem modTile_cur (t : Nat) (f : Tile → Tile) : (modTile s t f).cur = s.cur := rfl
@[simp] theorem modTile_clk (t : Nat) (f : Tile → Tile) : (modTile s t f).clk = s.clk := rfl
@[simp] theorem modTile_mem (t : Nat) (f : Tile → Tile) : (modTile s t f).mem = s.mem := rfl
@[simp] theorem modTile_bad (t : Nat) (f : Tile → Tile) : (modTile s t f).bad = s.bad := rfl
@[simp] theorem modTile_flips (t : Nat) (f : Tile → Tile) : (modTile s t f).flips = s.flips := rfl
@[simp] theorem modTile_upsets (t : Nat) (f : Tile → Tile) : (modTile s t f).upsets = s.upsets := rfl
@[simp] theorem modTile_stuck (t : Nat) (f : Tile → Tile) : (modTile s t f).stuck = s.stuck := rfl
@[simp] theorem modTile_cores (t : Nat) (f : Tile → Tile) : (modTile s t f).cores = s.cores := rfl
@[simp] theorem modTile_clusters (t : Nat) (f : Tile → Tile) : (modTile s t f).clusters = s.clusters := rfl
@[simp] theorem modTile_slices (t : Nat) (f : Tile → Tile) : (modTile s t f).slices = s.slices := rfl
@[simp] theorem modTile_parts (t : Nat) (f : Tile → Tile) : (modTile s t f).parts = s.parts := rfl
@[simp] theorem modTile_disp (t : Nat) (f : Tile → Tile) : (modTile s t f).disp = s.disp := rfl
@[simp] theorem modTile_launches (t : Nat) (f : Tile → Tile) : (modTile s t f).launches = s.launches := rfl
@[simp] theorem modTile_net (t : Nat) (f : Tile → Tile) : (modTile s t f).net = s.net := rfl
@[simp] theorem modTile_posted (t : Nat) (f : Tile → Tile) : (modTile s t f).posted = s.posted := rfl
@[simp] theorem modTile_reds (t : Nat) (f : Tile → Tile) : (modTile s t f).reds = s.reds := rfl
@[simp] theorem modTile_ctrs (t : Nat) (f : Tile → Tile) : (modTile s t f).ctrs = s.ctrs := rfl
@[simp] theorem modTile_reports (t : Nat) (f : Tile → Tile) : (modTile s t f).reports = s.reports := rfl
@[simp] theorem modTile_host (t : Nat) (f : Tile → Tile) : (modTile s t f).host = s.host := rfl

/-! `setCl` -/

@[simp] theorem setCl_sched (k : Nat) (x : Cluster) : (setCl s k x).sched = s.sched := rfl
@[simp] theorem setCl_cur (k : Nat) (x : Cluster) : (setCl s k x).cur = s.cur := rfl
@[simp] theorem setCl_clk (k : Nat) (x : Cluster) : (setCl s k x).clk = s.clk := rfl
@[simp] theorem setCl_mem (k : Nat) (x : Cluster) : (setCl s k x).mem = s.mem := rfl
@[simp] theorem setCl_bad (k : Nat) (x : Cluster) : (setCl s k x).bad = s.bad := rfl
@[simp] theorem setCl_flips (k : Nat) (x : Cluster) : (setCl s k x).flips = s.flips := rfl
@[simp] theorem setCl_upsets (k : Nat) (x : Cluster) : (setCl s k x).upsets = s.upsets := rfl
@[simp] theorem setCl_stuck (k : Nat) (x : Cluster) : (setCl s k x).stuck = s.stuck := rfl
@[simp] theorem setCl_cores (k : Nat) (x : Cluster) : (setCl s k x).cores = s.cores := rfl
@[simp] theorem setCl_tiles (k : Nat) (x : Cluster) : (setCl s k x).tiles = s.tiles := rfl
@[simp] theorem setCl_slices (k : Nat) (x : Cluster) : (setCl s k x).slices = s.slices := rfl
@[simp] theorem setCl_parts (k : Nat) (x : Cluster) : (setCl s k x).parts = s.parts := rfl
@[simp] theorem setCl_disp (k : Nat) (x : Cluster) : (setCl s k x).disp = s.disp := rfl
@[simp] theorem setCl_launches (k : Nat) (x : Cluster) : (setCl s k x).launches = s.launches := rfl
@[simp] theorem setCl_net (k : Nat) (x : Cluster) : (setCl s k x).net = s.net := rfl
@[simp] theorem setCl_posted (k : Nat) (x : Cluster) : (setCl s k x).posted = s.posted := rfl
@[simp] theorem setCl_reds (k : Nat) (x : Cluster) : (setCl s k x).reds = s.reds := rfl
@[simp] theorem setCl_ctrs (k : Nat) (x : Cluster) : (setCl s k x).ctrs = s.ctrs := rfl
@[simp] theorem setCl_reports (k : Nat) (x : Cluster) : (setCl s k x).reports = s.reports := rfl
@[simp] theorem setCl_host (k : Nat) (x : Cluster) : (setCl s k x).host = s.host := rfl

/-! `modCl` -/

@[simp] theorem modCl_sched (k : Nat) (f : Cluster → Cluster) : (modCl s k f).sched = s.sched := rfl
@[simp] theorem modCl_cur (k : Nat) (f : Cluster → Cluster) : (modCl s k f).cur = s.cur := rfl
@[simp] theorem modCl_clk (k : Nat) (f : Cluster → Cluster) : (modCl s k f).clk = s.clk := rfl
@[simp] theorem modCl_mem (k : Nat) (f : Cluster → Cluster) : (modCl s k f).mem = s.mem := rfl
@[simp] theorem modCl_bad (k : Nat) (f : Cluster → Cluster) : (modCl s k f).bad = s.bad := rfl
@[simp] theorem modCl_flips (k : Nat) (f : Cluster → Cluster) : (modCl s k f).flips = s.flips := rfl
@[simp] theorem modCl_upsets (k : Nat) (f : Cluster → Cluster) : (modCl s k f).upsets = s.upsets := rfl
@[simp] theorem modCl_stuck (k : Nat) (f : Cluster → Cluster) : (modCl s k f).stuck = s.stuck := rfl
@[simp] theorem modCl_cores (k : Nat) (f : Cluster → Cluster) : (modCl s k f).cores = s.cores := rfl
@[simp] theorem modCl_tiles (k : Nat) (f : Cluster → Cluster) : (modCl s k f).tiles = s.tiles := rfl
@[simp] theorem modCl_slices (k : Nat) (f : Cluster → Cluster) : (modCl s k f).slices = s.slices := rfl
@[simp] theorem modCl_parts (k : Nat) (f : Cluster → Cluster) : (modCl s k f).parts = s.parts := rfl
@[simp] theorem modCl_disp (k : Nat) (f : Cluster → Cluster) : (modCl s k f).disp = s.disp := rfl
@[simp] theorem modCl_launches (k : Nat) (f : Cluster → Cluster) : (modCl s k f).launches = s.launches := rfl
@[simp] theorem modCl_net (k : Nat) (f : Cluster → Cluster) : (modCl s k f).net = s.net := rfl
@[simp] theorem modCl_posted (k : Nat) (f : Cluster → Cluster) : (modCl s k f).posted = s.posted := rfl
@[simp] theorem modCl_reds (k : Nat) (f : Cluster → Cluster) : (modCl s k f).reds = s.reds := rfl
@[simp] theorem modCl_ctrs (k : Nat) (f : Cluster → Cluster) : (modCl s k f).ctrs = s.ctrs := rfl
@[simp] theorem modCl_reports (k : Nat) (f : Cluster → Cluster) : (modCl s k f).reports = s.reports := rfl
@[simp] theorem modCl_host (k : Nat) (f : Cluster → Cluster) : (modCl s k f).host = s.host := rfl

/-! `setSet` -/

@[simp] theorem setSet_sched (k n : Nat) (x : BankSet) : (setSet s k n x).sched = s.sched := rfl
@[simp] theorem setSet_cur (k n : Nat) (x : BankSet) : (setSet s k n x).cur = s.cur := rfl
@[simp] theorem setSet_clk (k n : Nat) (x : BankSet) : (setSet s k n x).clk = s.clk := rfl
@[simp] theorem setSet_mem (k n : Nat) (x : BankSet) : (setSet s k n x).mem = s.mem := rfl
@[simp] theorem setSet_bad (k n : Nat) (x : BankSet) : (setSet s k n x).bad = s.bad := rfl
@[simp] theorem setSet_flips (k n : Nat) (x : BankSet) : (setSet s k n x).flips = s.flips := rfl
@[simp] theorem setSet_upsets (k n : Nat) (x : BankSet) : (setSet s k n x).upsets = s.upsets := rfl
@[simp] theorem setSet_stuck (k n : Nat) (x : BankSet) : (setSet s k n x).stuck = s.stuck := rfl
@[simp] theorem setSet_cores (k n : Nat) (x : BankSet) : (setSet s k n x).cores = s.cores := rfl
@[simp] theorem setSet_tiles (k n : Nat) (x : BankSet) : (setSet s k n x).tiles = s.tiles := rfl
@[simp] theorem setSet_slices (k n : Nat) (x : BankSet) : (setSet s k n x).slices = s.slices := rfl
@[simp] theorem setSet_parts (k n : Nat) (x : BankSet) : (setSet s k n x).parts = s.parts := rfl
@[simp] theorem setSet_disp (k n : Nat) (x : BankSet) : (setSet s k n x).disp = s.disp := rfl
@[simp] theorem setSet_launches (k n : Nat) (x : BankSet) : (setSet s k n x).launches = s.launches := rfl
@[simp] theorem setSet_net (k n : Nat) (x : BankSet) : (setSet s k n x).net = s.net := rfl
@[simp] theorem setSet_posted (k n : Nat) (x : BankSet) : (setSet s k n x).posted = s.posted := rfl
@[simp] theorem setSet_reds (k n : Nat) (x : BankSet) : (setSet s k n x).reds = s.reds := rfl
@[simp] theorem setSet_ctrs (k n : Nat) (x : BankSet) : (setSet s k n x).ctrs = s.ctrs := rfl
@[simp] theorem setSet_reports (k n : Nat) (x : BankSet) : (setSet s k n x).reports = s.reports := rfl
@[simp] theorem setSet_host (k n : Nat) (x : BankSet) : (setSet s k n x).host = s.host := rfl

/-! `setUse` -/

@[simp] theorem setUse_sched (k n : Nat) (u : SetUse) : (setUse s k n u).sched = s.sched := rfl
@[simp] theorem setUse_cur (k n : Nat) (u : SetUse) : (setUse s k n u).cur = s.cur := rfl
@[simp] theorem setUse_clk (k n : Nat) (u : SetUse) : (setUse s k n u).clk = s.clk := rfl
@[simp] theorem setUse_mem (k n : Nat) (u : SetUse) : (setUse s k n u).mem = s.mem := rfl
@[simp] theorem setUse_bad (k n : Nat) (u : SetUse) : (setUse s k n u).bad = s.bad := rfl
@[simp] theorem setUse_flips (k n : Nat) (u : SetUse) : (setUse s k n u).flips = s.flips := rfl
@[simp] theorem setUse_upsets (k n : Nat) (u : SetUse) : (setUse s k n u).upsets = s.upsets := rfl
@[simp] theorem setUse_stuck (k n : Nat) (u : SetUse) : (setUse s k n u).stuck = s.stuck := rfl
@[simp] theorem setUse_cores (k n : Nat) (u : SetUse) : (setUse s k n u).cores = s.cores := rfl
@[simp] theorem setUse_tiles (k n : Nat) (u : SetUse) : (setUse s k n u).tiles = s.tiles := rfl
@[simp] theorem setUse_slices (k n : Nat) (u : SetUse) : (setUse s k n u).slices = s.slices := rfl
@[simp] theorem setUse_parts (k n : Nat) (u : SetUse) : (setUse s k n u).parts = s.parts := rfl
@[simp] theorem setUse_disp (k n : Nat) (u : SetUse) : (setUse s k n u).disp = s.disp := rfl
@[simp] theorem setUse_launches (k n : Nat) (u : SetUse) : (setUse s k n u).launches = s.launches := rfl
@[simp] theorem setUse_net (k n : Nat) (u : SetUse) : (setUse s k n u).net = s.net := rfl
@[simp] theorem setUse_posted (k n : Nat) (u : SetUse) : (setUse s k n u).posted = s.posted := rfl
@[simp] theorem setUse_reds (k n : Nat) (u : SetUse) : (setUse s k n u).reds = s.reds := rfl
@[simp] theorem setUse_ctrs (k n : Nat) (u : SetUse) : (setUse s k n u).ctrs = s.ctrs := rfl
@[simp] theorem setUse_reports (k n : Nat) (u : SetUse) : (setUse s k n u).reports = s.reports := rfl
@[simp] theorem setUse_host (k n : Nat) (u : SetUse) : (setUse s k n u).host = s.host := rfl

/-! `setSl` -/

@[simp] theorem setSl_sched (k : Nat) (x : Slice) : (setSl s k x).sched = s.sched := rfl
@[simp] theorem setSl_cur (k : Nat) (x : Slice) : (setSl s k x).cur = s.cur := rfl
@[simp] theorem setSl_clk (k : Nat) (x : Slice) : (setSl s k x).clk = s.clk := rfl
@[simp] theorem setSl_mem (k : Nat) (x : Slice) : (setSl s k x).mem = s.mem := rfl
@[simp] theorem setSl_bad (k : Nat) (x : Slice) : (setSl s k x).bad = s.bad := rfl
@[simp] theorem setSl_flips (k : Nat) (x : Slice) : (setSl s k x).flips = s.flips := rfl
@[simp] theorem setSl_upsets (k : Nat) (x : Slice) : (setSl s k x).upsets = s.upsets := rfl
@[simp] theorem setSl_stuck (k : Nat) (x : Slice) : (setSl s k x).stuck = s.stuck := rfl
@[simp] theorem setSl_cores (k : Nat) (x : Slice) : (setSl s k x).cores = s.cores := rfl
@[simp] theorem setSl_tiles (k : Nat) (x : Slice) : (setSl s k x).tiles = s.tiles := rfl
@[simp] theorem setSl_clusters (k : Nat) (x : Slice) : (setSl s k x).clusters = s.clusters := rfl
@[simp] theorem setSl_parts (k : Nat) (x : Slice) : (setSl s k x).parts = s.parts := rfl
@[simp] theorem setSl_disp (k : Nat) (x : Slice) : (setSl s k x).disp = s.disp := rfl
@[simp] theorem setSl_launches (k : Nat) (x : Slice) : (setSl s k x).launches = s.launches := rfl
@[simp] theorem setSl_net (k : Nat) (x : Slice) : (setSl s k x).net = s.net := rfl
@[simp] theorem setSl_posted (k : Nat) (x : Slice) : (setSl s k x).posted = s.posted := rfl
@[simp] theorem setSl_reds (k : Nat) (x : Slice) : (setSl s k x).reds = s.reds := rfl
@[simp] theorem setSl_ctrs (k : Nat) (x : Slice) : (setSl s k x).ctrs = s.ctrs := rfl
@[simp] theorem setSl_reports (k : Nat) (x : Slice) : (setSl s k x).reports = s.reports := rfl
@[simp] theorem setSl_host (k : Nat) (x : Slice) : (setSl s k x).host = s.host := rfl

/-! `modSl` -/

@[simp] theorem modSl_sched (k : Nat) (f : Slice → Slice) : (modSl s k f).sched = s.sched := rfl
@[simp] theorem modSl_cur (k : Nat) (f : Slice → Slice) : (modSl s k f).cur = s.cur := rfl
@[simp] theorem modSl_clk (k : Nat) (f : Slice → Slice) : (modSl s k f).clk = s.clk := rfl
@[simp] theorem modSl_mem (k : Nat) (f : Slice → Slice) : (modSl s k f).mem = s.mem := rfl
@[simp] theorem modSl_bad (k : Nat) (f : Slice → Slice) : (modSl s k f).bad = s.bad := rfl
@[simp] theorem modSl_flips (k : Nat) (f : Slice → Slice) : (modSl s k f).flips = s.flips := rfl
@[simp] theorem modSl_upsets (k : Nat) (f : Slice → Slice) : (modSl s k f).upsets = s.upsets := rfl
@[simp] theorem modSl_stuck (k : Nat) (f : Slice → Slice) : (modSl s k f).stuck = s.stuck := rfl
@[simp] theorem modSl_cores (k : Nat) (f : Slice → Slice) : (modSl s k f).cores = s.cores := rfl
@[simp] theorem modSl_tiles (k : Nat) (f : Slice → Slice) : (modSl s k f).tiles = s.tiles := rfl
@[simp] theorem modSl_clusters (k : Nat) (f : Slice → Slice) : (modSl s k f).clusters = s.clusters := rfl
@[simp] theorem modSl_parts (k : Nat) (f : Slice → Slice) : (modSl s k f).parts = s.parts := rfl
@[simp] theorem modSl_disp (k : Nat) (f : Slice → Slice) : (modSl s k f).disp = s.disp := rfl
@[simp] theorem modSl_launches (k : Nat) (f : Slice → Slice) : (modSl s k f).launches = s.launches := rfl
@[simp] theorem modSl_net (k : Nat) (f : Slice → Slice) : (modSl s k f).net = s.net := rfl
@[simp] theorem modSl_posted (k : Nat) (f : Slice → Slice) : (modSl s k f).posted = s.posted := rfl
@[simp] theorem modSl_reds (k : Nat) (f : Slice → Slice) : (modSl s k f).reds = s.reds := rfl
@[simp] theorem modSl_ctrs (k : Nat) (f : Slice → Slice) : (modSl s k f).ctrs = s.ctrs := rfl
@[simp] theorem modSl_reports (k : Nat) (f : Slice → Slice) : (modSl s k f).reports = s.reports := rfl
@[simp] theorem modSl_host (k : Nat) (f : Slice → Slice) : (modSl s k f).host = s.host := rfl

/-! `setPart` -/

@[simp] theorem setPart_sched (p : Nat) (x : Part) : (setPart s p x).sched = s.sched := rfl
@[simp] theorem setPart_cur (p : Nat) (x : Part) : (setPart s p x).cur = s.cur := rfl
@[simp] theorem setPart_clk (p : Nat) (x : Part) : (setPart s p x).clk = s.clk := rfl
@[simp] theorem setPart_mem (p : Nat) (x : Part) : (setPart s p x).mem = s.mem := rfl
@[simp] theorem setPart_bad (p : Nat) (x : Part) : (setPart s p x).bad = s.bad := rfl
@[simp] theorem setPart_flips (p : Nat) (x : Part) : (setPart s p x).flips = s.flips := rfl
@[simp] theorem setPart_upsets (p : Nat) (x : Part) : (setPart s p x).upsets = s.upsets := rfl
@[simp] theorem setPart_stuck (p : Nat) (x : Part) : (setPart s p x).stuck = s.stuck := rfl
@[simp] theorem setPart_cores (p : Nat) (x : Part) : (setPart s p x).cores = s.cores := rfl
@[simp] theorem setPart_tiles (p : Nat) (x : Part) : (setPart s p x).tiles = s.tiles := rfl
@[simp] theorem setPart_clusters (p : Nat) (x : Part) : (setPart s p x).clusters = s.clusters := rfl
@[simp] theorem setPart_slices (p : Nat) (x : Part) : (setPart s p x).slices = s.slices := rfl
@[simp] theorem setPart_disp (p : Nat) (x : Part) : (setPart s p x).disp = s.disp := rfl
@[simp] theorem setPart_launches (p : Nat) (x : Part) : (setPart s p x).launches = s.launches := rfl
@[simp] theorem setPart_net (p : Nat) (x : Part) : (setPart s p x).net = s.net := rfl
@[simp] theorem setPart_posted (p : Nat) (x : Part) : (setPart s p x).posted = s.posted := rfl
@[simp] theorem setPart_reds (p : Nat) (x : Part) : (setPart s p x).reds = s.reds := rfl
@[simp] theorem setPart_ctrs (p : Nat) (x : Part) : (setPart s p x).ctrs = s.ctrs := rfl
@[simp] theorem setPart_reports (p : Nat) (x : Part) : (setPart s p x).reports = s.reports := rfl
@[simp] theorem setPart_host (p : Nat) (x : Part) : (setPart s p x).host = s.host := rfl

/-! `modPart` -/

@[simp] theorem modPart_sched (p : Nat) (f : Part → Part) : (modPart s p f).sched = s.sched := rfl
@[simp] theorem modPart_cur (p : Nat) (f : Part → Part) : (modPart s p f).cur = s.cur := rfl
@[simp] theorem modPart_clk (p : Nat) (f : Part → Part) : (modPart s p f).clk = s.clk := rfl
@[simp] theorem modPart_mem (p : Nat) (f : Part → Part) : (modPart s p f).mem = s.mem := rfl
@[simp] theorem modPart_bad (p : Nat) (f : Part → Part) : (modPart s p f).bad = s.bad := rfl
@[simp] theorem modPart_flips (p : Nat) (f : Part → Part) : (modPart s p f).flips = s.flips := rfl
@[simp] theorem modPart_upsets (p : Nat) (f : Part → Part) : (modPart s p f).upsets = s.upsets := rfl
@[simp] theorem modPart_stuck (p : Nat) (f : Part → Part) : (modPart s p f).stuck = s.stuck := rfl
@[simp] theorem modPart_cores (p : Nat) (f : Part → Part) : (modPart s p f).cores = s.cores := rfl
@[simp] theorem modPart_tiles (p : Nat) (f : Part → Part) : (modPart s p f).tiles = s.tiles := rfl
@[simp] theorem modPart_clusters (p : Nat) (f : Part → Part) : (modPart s p f).clusters = s.clusters := rfl
@[simp] theorem modPart_slices (p : Nat) (f : Part → Part) : (modPart s p f).slices = s.slices := rfl
@[simp] theorem modPart_disp (p : Nat) (f : Part → Part) : (modPart s p f).disp = s.disp := rfl
@[simp] theorem modPart_launches (p : Nat) (f : Part → Part) : (modPart s p f).launches = s.launches := rfl
@[simp] theorem modPart_net (p : Nat) (f : Part → Part) : (modPart s p f).net = s.net := rfl
@[simp] theorem modPart_posted (p : Nat) (f : Part → Part) : (modPart s p f).posted = s.posted := rfl
@[simp] theorem modPart_reds (p : Nat) (f : Part → Part) : (modPart s p f).reds = s.reds := rfl
@[simp] theorem modPart_ctrs (p : Nat) (f : Part → Part) : (modPart s p f).ctrs = s.ctrs := rfl
@[simp] theorem modPart_reports (p : Nat) (f : Part → Part) : (modPart s p f).reports = s.reports := rfl
@[simp] theorem modPart_host (p : Nat) (f : Part → Part) : (modPart s p f).host = s.host := rfl

/-! `setLaunch` -/

@[simp] theorem setLaunch_sched (k : Nat) (l : Launch) : (setLaunch s k l).sched = s.sched := rfl
@[simp] theorem setLaunch_cur (k : Nat) (l : Launch) : (setLaunch s k l).cur = s.cur := rfl
@[simp] theorem setLaunch_clk (k : Nat) (l : Launch) : (setLaunch s k l).clk = s.clk := rfl
@[simp] theorem setLaunch_mem (k : Nat) (l : Launch) : (setLaunch s k l).mem = s.mem := rfl
@[simp] theorem setLaunch_bad (k : Nat) (l : Launch) : (setLaunch s k l).bad = s.bad := rfl
@[simp] theorem setLaunch_flips (k : Nat) (l : Launch) : (setLaunch s k l).flips = s.flips := rfl
@[simp] theorem setLaunch_upsets (k : Nat) (l : Launch) : (setLaunch s k l).upsets = s.upsets := rfl
@[simp] theorem setLaunch_stuck (k : Nat) (l : Launch) : (setLaunch s k l).stuck = s.stuck := rfl
@[simp] theorem setLaunch_cores (k : Nat) (l : Launch) : (setLaunch s k l).cores = s.cores := rfl
@[simp] theorem setLaunch_tiles (k : Nat) (l : Launch) : (setLaunch s k l).tiles = s.tiles := rfl
@[simp] theorem setLaunch_clusters (k : Nat) (l : Launch) : (setLaunch s k l).clusters = s.clusters := rfl
@[simp] theorem setLaunch_slices (k : Nat) (l : Launch) : (setLaunch s k l).slices = s.slices := rfl
@[simp] theorem setLaunch_parts (k : Nat) (l : Launch) : (setLaunch s k l).parts = s.parts := rfl
@[simp] theorem setLaunch_disp (k : Nat) (l : Launch) : (setLaunch s k l).disp = s.disp := rfl
@[simp] theorem setLaunch_net (k : Nat) (l : Launch) : (setLaunch s k l).net = s.net := rfl
@[simp] theorem setLaunch_posted (k : Nat) (l : Launch) : (setLaunch s k l).posted = s.posted := rfl
@[simp] theorem setLaunch_reds (k : Nat) (l : Launch) : (setLaunch s k l).reds = s.reds := rfl
@[simp] theorem setLaunch_ctrs (k : Nat) (l : Launch) : (setLaunch s k l).ctrs = s.ctrs := rfl
@[simp] theorem setLaunch_reports (k : Nat) (l : Launch) : (setLaunch s k l).reports = s.reports := rfl
@[simp] theorem setLaunch_host (k : Nat) (l : Launch) : (setLaunch s k l).host = s.host := rfl

/-! `dropLaunch` -/

@[simp] theorem dropLaunch_sched (k : Nat) : (dropLaunch s k).sched = s.sched := rfl
@[simp] theorem dropLaunch_cur (k : Nat) : (dropLaunch s k).cur = s.cur := rfl
@[simp] theorem dropLaunch_clk (k : Nat) : (dropLaunch s k).clk = s.clk := rfl
@[simp] theorem dropLaunch_mem (k : Nat) : (dropLaunch s k).mem = s.mem := rfl
@[simp] theorem dropLaunch_bad (k : Nat) : (dropLaunch s k).bad = s.bad := rfl
@[simp] theorem dropLaunch_flips (k : Nat) : (dropLaunch s k).flips = s.flips := rfl
@[simp] theorem dropLaunch_upsets (k : Nat) : (dropLaunch s k).upsets = s.upsets := rfl
@[simp] theorem dropLaunch_stuck (k : Nat) : (dropLaunch s k).stuck = s.stuck := rfl
@[simp] theorem dropLaunch_cores (k : Nat) : (dropLaunch s k).cores = s.cores := rfl
@[simp] theorem dropLaunch_tiles (k : Nat) : (dropLaunch s k).tiles = s.tiles := rfl
@[simp] theorem dropLaunch_clusters (k : Nat) : (dropLaunch s k).clusters = s.clusters := rfl
@[simp] theorem dropLaunch_slices (k : Nat) : (dropLaunch s k).slices = s.slices := rfl
@[simp] theorem dropLaunch_parts (k : Nat) : (dropLaunch s k).parts = s.parts := rfl
@[simp] theorem dropLaunch_disp (k : Nat) : (dropLaunch s k).disp = s.disp := rfl
@[simp] theorem dropLaunch_net (k : Nat) : (dropLaunch s k).net = s.net := rfl
@[simp] theorem dropLaunch_posted (k : Nat) : (dropLaunch s k).posted = s.posted := rfl
@[simp] theorem dropLaunch_reds (k : Nat) : (dropLaunch s k).reds = s.reds := rfl
@[simp] theorem dropLaunch_ctrs (k : Nat) : (dropLaunch s k).ctrs = s.ctrs := rfl
@[simp] theorem dropLaunch_reports (k : Nat) : (dropLaunch s k).reports = s.reports := rfl
@[simp] theorem dropLaunch_host (k : Nat) : (dropLaunch s k).host = s.host := rfl

/-! `modDie` -/

@[simp] theorem modDie_sched (d : Nat) (f : Die → Die) : (modDie s d f).sched = s.sched := rfl
@[simp] theorem modDie_cur (d : Nat) (f : Die → Die) : (modDie s d f).cur = s.cur := rfl
@[simp] theorem modDie_clk (d : Nat) (f : Die → Die) : (modDie s d f).clk = s.clk := rfl
@[simp] theorem modDie_mem (d : Nat) (f : Die → Die) : (modDie s d f).mem = s.mem := rfl
@[simp] theorem modDie_bad (d : Nat) (f : Die → Die) : (modDie s d f).bad = s.bad := rfl
@[simp] theorem modDie_flips (d : Nat) (f : Die → Die) : (modDie s d f).flips = s.flips := rfl
@[simp] theorem modDie_upsets (d : Nat) (f : Die → Die) : (modDie s d f).upsets = s.upsets := rfl
@[simp] theorem modDie_stuck (d : Nat) (f : Die → Die) : (modDie s d f).stuck = s.stuck := rfl
@[simp] theorem modDie_cores (d : Nat) (f : Die → Die) : (modDie s d f).cores = s.cores := rfl
@[simp] theorem modDie_tiles (d : Nat) (f : Die → Die) : (modDie s d f).tiles = s.tiles := rfl
@[simp] theorem modDie_clusters (d : Nat) (f : Die → Die) : (modDie s d f).clusters = s.clusters := rfl
@[simp] theorem modDie_slices (d : Nat) (f : Die → Die) : (modDie s d f).slices = s.slices := rfl
@[simp] theorem modDie_parts (d : Nat) (f : Die → Die) : (modDie s d f).parts = s.parts := rfl
@[simp] theorem modDie_disp (d : Nat) (f : Die → Die) : (modDie s d f).disp = s.disp := rfl
@[simp] theorem modDie_launches (d : Nat) (f : Die → Die) : (modDie s d f).launches = s.launches := rfl
@[simp] theorem modDie_net (d : Nat) (f : Die → Die) : (modDie s d f).net = s.net := rfl
@[simp] theorem modDie_posted (d : Nat) (f : Die → Die) : (modDie s d f).posted = s.posted := rfl
@[simp] theorem modDie_reds (d : Nat) (f : Die → Die) : (modDie s d f).reds = s.reds := rfl
@[simp] theorem modDie_ctrs (d : Nat) (f : Die → Die) : (modDie s d f).ctrs = s.ctrs := rfl
@[simp] theorem modDie_reports (d : Nat) (f : Die → Die) : (modDie s d f).reports = s.reports := rfl

/-! `modIsland` -/

@[simp] theorem modIsland_sched (i : Nat) (f : Island → Island) : (modIsland s i f).sched = s.sched := rfl
@[simp] theorem modIsland_cur (i : Nat) (f : Island → Island) : (modIsland s i f).cur = s.cur := rfl
@[simp] theorem modIsland_clk (i : Nat) (f : Island → Island) : (modIsland s i f).clk = s.clk := rfl
@[simp] theorem modIsland_mem (i : Nat) (f : Island → Island) : (modIsland s i f).mem = s.mem := rfl
@[simp] theorem modIsland_bad (i : Nat) (f : Island → Island) : (modIsland s i f).bad = s.bad := rfl
@[simp] theorem modIsland_flips (i : Nat) (f : Island → Island) : (modIsland s i f).flips = s.flips := rfl
@[simp] theorem modIsland_upsets (i : Nat) (f : Island → Island) : (modIsland s i f).upsets = s.upsets := rfl
@[simp] theorem modIsland_stuck (i : Nat) (f : Island → Island) : (modIsland s i f).stuck = s.stuck := rfl
@[simp] theorem modIsland_cores (i : Nat) (f : Island → Island) : (modIsland s i f).cores = s.cores := rfl
@[simp] theorem modIsland_tiles (i : Nat) (f : Island → Island) : (modIsland s i f).tiles = s.tiles := rfl
@[simp] theorem modIsland_clusters (i : Nat) (f : Island → Island) : (modIsland s i f).clusters = s.clusters := rfl
@[simp] theorem modIsland_slices (i : Nat) (f : Island → Island) : (modIsland s i f).slices = s.slices := rfl
@[simp] theorem modIsland_parts (i : Nat) (f : Island → Island) : (modIsland s i f).parts = s.parts := rfl
@[simp] theorem modIsland_disp (i : Nat) (f : Island → Island) : (modIsland s i f).disp = s.disp := rfl
@[simp] theorem modIsland_launches (i : Nat) (f : Island → Island) : (modIsland s i f).launches = s.launches := rfl
@[simp] theorem modIsland_net (i : Nat) (f : Island → Island) : (modIsland s i f).net = s.net := rfl
@[simp] theorem modIsland_posted (i : Nat) (f : Island → Island) : (modIsland s i f).posted = s.posted := rfl
@[simp] theorem modIsland_reds (i : Nat) (f : Island → Island) : (modIsland s i f).reds = s.reds := rfl
@[simp] theorem modIsland_ctrs (i : Nat) (f : Island → Island) : (modIsland s i f).ctrs = s.ctrs := rfl
@[simp] theorem modIsland_reports (i : Nat) (f : Island → Island) : (modIsland s i f).reports = s.reports := rfl

/-! `setTask` -/

@[simp] theorem setTask_sched (t : Task) : (setTask s t).sched = s.sched := rfl
@[simp] theorem setTask_cur (t : Task) : (setTask s t).cur = s.cur := rfl
@[simp] theorem setTask_clk (t : Task) : (setTask s t).clk = s.clk := rfl
@[simp] theorem setTask_mem (t : Task) : (setTask s t).mem = s.mem := rfl
@[simp] theorem setTask_bad (t : Task) : (setTask s t).bad = s.bad := rfl
@[simp] theorem setTask_flips (t : Task) : (setTask s t).flips = s.flips := rfl
@[simp] theorem setTask_upsets (t : Task) : (setTask s t).upsets = s.upsets := rfl
@[simp] theorem setTask_stuck (t : Task) : (setTask s t).stuck = s.stuck := rfl
@[simp] theorem setTask_tiles (t : Task) : (setTask s t).tiles = s.tiles := rfl
@[simp] theorem setTask_clusters (t : Task) : (setTask s t).clusters = s.clusters := rfl
@[simp] theorem setTask_slices (t : Task) : (setTask s t).slices = s.slices := rfl
@[simp] theorem setTask_parts (t : Task) : (setTask s t).parts = s.parts := rfl
@[simp] theorem setTask_disp (t : Task) : (setTask s t).disp = s.disp := rfl
@[simp] theorem setTask_launches (t : Task) : (setTask s t).launches = s.launches := rfl
@[simp] theorem setTask_net (t : Task) : (setTask s t).net = s.net := rfl
@[simp] theorem setTask_posted (t : Task) : (setTask s t).posted = s.posted := rfl
@[simp] theorem setTask_reds (t : Task) : (setTask s t).reds = s.reds := rfl
@[simp] theorem setTask_ctrs (t : Task) : (setTask s t).ctrs = s.ctrs := rfl
@[simp] theorem setTask_reports (t : Task) : (setTask s t).reports = s.reports := rfl
@[simp] theorem setTask_host (t : Task) : (setTask s t).host = s.host := rfl

/-! `modTask` -/

@[simp] theorem modTask_sched (f : Task → Task) : (modTask s f).sched = s.sched := rfl
@[simp] theorem modTask_cur (f : Task → Task) : (modTask s f).cur = s.cur := rfl
@[simp] theorem modTask_clk (f : Task → Task) : (modTask s f).clk = s.clk := rfl
@[simp] theorem modTask_mem (f : Task → Task) : (modTask s f).mem = s.mem := rfl
@[simp] theorem modTask_bad (f : Task → Task) : (modTask s f).bad = s.bad := rfl
@[simp] theorem modTask_flips (f : Task → Task) : (modTask s f).flips = s.flips := rfl
@[simp] theorem modTask_upsets (f : Task → Task) : (modTask s f).upsets = s.upsets := rfl
@[simp] theorem modTask_stuck (f : Task → Task) : (modTask s f).stuck = s.stuck := rfl
@[simp] theorem modTask_tiles (f : Task → Task) : (modTask s f).tiles = s.tiles := rfl
@[simp] theorem modTask_clusters (f : Task → Task) : (modTask s f).clusters = s.clusters := rfl
@[simp] theorem modTask_slices (f : Task → Task) : (modTask s f).slices = s.slices := rfl
@[simp] theorem modTask_parts (f : Task → Task) : (modTask s f).parts = s.parts := rfl
@[simp] theorem modTask_disp (f : Task → Task) : (modTask s f).disp = s.disp := rfl
@[simp] theorem modTask_launches (f : Task → Task) : (modTask s f).launches = s.launches := rfl
@[simp] theorem modTask_net (f : Task → Task) : (modTask s f).net = s.net := rfl
@[simp] theorem modTask_posted (f : Task → Task) : (modTask s f).posted = s.posted := rfl
@[simp] theorem modTask_reds (f : Task → Task) : (modTask s f).reds = s.reds := rfl
@[simp] theorem modTask_ctrs (f : Task → Task) : (modTask s f).ctrs = s.ctrs := rfl
@[simp] theorem modTask_reports (f : Task → Task) : (modTask s f).reports = s.reports := rfl
@[simp] theorem modTask_host (f : Task → Task) : (modTask s f).host = s.host := rfl

/-! `setCtx` -/

@[simp] theorem setCtx_sched (x : Ctx) : (setCtx s x).sched = s.sched := rfl
@[simp] theorem setCtx_cur (x : Ctx) : (setCtx s x).cur = s.cur := rfl
@[simp] theorem setCtx_clk (x : Ctx) : (setCtx s x).clk = s.clk := rfl
@[simp] theorem setCtx_mem (x : Ctx) : (setCtx s x).mem = s.mem := rfl
@[simp] theorem setCtx_bad (x : Ctx) : (setCtx s x).bad = s.bad := rfl
@[simp] theorem setCtx_flips (x : Ctx) : (setCtx s x).flips = s.flips := rfl
@[simp] theorem setCtx_upsets (x : Ctx) : (setCtx s x).upsets = s.upsets := rfl
@[simp] theorem setCtx_stuck (x : Ctx) : (setCtx s x).stuck = s.stuck := rfl
@[simp] theorem setCtx_tiles (x : Ctx) : (setCtx s x).tiles = s.tiles := rfl
@[simp] theorem setCtx_clusters (x : Ctx) : (setCtx s x).clusters = s.clusters := rfl
@[simp] theorem setCtx_slices (x : Ctx) : (setCtx s x).slices = s.slices := rfl
@[simp] theorem setCtx_parts (x : Ctx) : (setCtx s x).parts = s.parts := rfl
@[simp] theorem setCtx_disp (x : Ctx) : (setCtx s x).disp = s.disp := rfl
@[simp] theorem setCtx_launches (x : Ctx) : (setCtx s x).launches = s.launches := rfl
@[simp] theorem setCtx_net (x : Ctx) : (setCtx s x).net = s.net := rfl
@[simp] theorem setCtx_posted (x : Ctx) : (setCtx s x).posted = s.posted := rfl
@[simp] theorem setCtx_reds (x : Ctx) : (setCtx s x).reds = s.reds := rfl
@[simp] theorem setCtx_ctrs (x : Ctx) : (setCtx s x).ctrs = s.ctrs := rfl
@[simp] theorem setCtx_reports (x : Ctx) : (setCtx s x).reports = s.reports := rfl
@[simp] theorem setCtx_host (x : Ctx) : (setCtx s x).host = s.host := rfl

/-! `modCtx` -/

@[simp] theorem modCtx_sched (f : Ctx → Ctx) : (modCtx s f).sched = s.sched := rfl
@[simp] theorem modCtx_cur (f : Ctx → Ctx) : (modCtx s f).cur = s.cur := rfl
@[simp] theorem modCtx_clk (f : Ctx → Ctx) : (modCtx s f).clk = s.clk := rfl
@[simp] theorem modCtx_mem (f : Ctx → Ctx) : (modCtx s f).mem = s.mem := rfl
@[simp] theorem modCtx_bad (f : Ctx → Ctx) : (modCtx s f).bad = s.bad := rfl
@[simp] theorem modCtx_flips (f : Ctx → Ctx) : (modCtx s f).flips = s.flips := rfl
@[simp] theorem modCtx_upsets (f : Ctx → Ctx) : (modCtx s f).upsets = s.upsets := rfl
@[simp] theorem modCtx_stuck (f : Ctx → Ctx) : (modCtx s f).stuck = s.stuck := rfl
@[simp] theorem modCtx_tiles (f : Ctx → Ctx) : (modCtx s f).tiles = s.tiles := rfl
@[simp] theorem modCtx_clusters (f : Ctx → Ctx) : (modCtx s f).clusters = s.clusters := rfl
@[simp] theorem modCtx_slices (f : Ctx → Ctx) : (modCtx s f).slices = s.slices := rfl
@[simp] theorem modCtx_parts (f : Ctx → Ctx) : (modCtx s f).parts = s.parts := rfl
@[simp] theorem modCtx_disp (f : Ctx → Ctx) : (modCtx s f).disp = s.disp := rfl
@[simp] theorem modCtx_launches (f : Ctx → Ctx) : (modCtx s f).launches = s.launches := rfl
@[simp] theorem modCtx_net (f : Ctx → Ctx) : (modCtx s f).net = s.net := rfl
@[simp] theorem modCtx_posted (f : Ctx → Ctx) : (modCtx s f).posted = s.posted := rfl
@[simp] theorem modCtx_reds (f : Ctx → Ctx) : (modCtx s f).reds = s.reds := rfl
@[simp] theorem modCtx_ctrs (f : Ctx → Ctx) : (modCtx s f).ctrs = s.ctrs := rfl
@[simp] theorem modCtx_reports (f : Ctx → Ctx) : (modCtx s f).reports = s.reports := rfl
@[simp] theorem modCtx_host (f : Ctx → Ctx) : (modCtx s f).host = s.host := rfl

/-! `setDet` -/

@[simp] theorem setDet_sched (d : Det) : (setDet s d).sched = s.sched := rfl
@[simp] theorem setDet_cur (d : Det) : (setDet s d).cur = s.cur := rfl
@[simp] theorem setDet_clk (d : Det) : (setDet s d).clk = s.clk := rfl
@[simp] theorem setDet_mem (d : Det) : (setDet s d).mem = s.mem := rfl
@[simp] theorem setDet_bad (d : Det) : (setDet s d).bad = s.bad := rfl
@[simp] theorem setDet_flips (d : Det) : (setDet s d).flips = s.flips := rfl
@[simp] theorem setDet_upsets (d : Det) : (setDet s d).upsets = s.upsets := rfl
@[simp] theorem setDet_stuck (d : Det) : (setDet s d).stuck = s.stuck := rfl
@[simp] theorem setDet_tiles (d : Det) : (setDet s d).tiles = s.tiles := rfl
@[simp] theorem setDet_clusters (d : Det) : (setDet s d).clusters = s.clusters := rfl
@[simp] theorem setDet_slices (d : Det) : (setDet s d).slices = s.slices := rfl
@[simp] theorem setDet_parts (d : Det) : (setDet s d).parts = s.parts := rfl
@[simp] theorem setDet_disp (d : Det) : (setDet s d).disp = s.disp := rfl
@[simp] theorem setDet_launches (d : Det) : (setDet s d).launches = s.launches := rfl
@[simp] theorem setDet_net (d : Det) : (setDet s d).net = s.net := rfl
@[simp] theorem setDet_posted (d : Det) : (setDet s d).posted = s.posted := rfl
@[simp] theorem setDet_reds (d : Det) : (setDet s d).reds = s.reds := rfl
@[simp] theorem setDet_ctrs (d : Det) : (setDet s d).ctrs = s.ctrs := rfl
@[simp] theorem setDet_reports (d : Det) : (setDet s d).reports = s.reports := rfl
@[simp] theorem setDet_host (d : Det) : (setDet s d).host = s.host := rfl

/-! `orFlags` -/

@[simp] theorem orFlags_sched (f : Flags) : (orFlags s f).sched = s.sched := rfl
@[simp] theorem orFlags_cur (f : Flags) : (orFlags s f).cur = s.cur := rfl
@[simp] theorem orFlags_clk (f : Flags) : (orFlags s f).clk = s.clk := rfl
@[simp] theorem orFlags_mem (f : Flags) : (orFlags s f).mem = s.mem := rfl
@[simp] theorem orFlags_bad (f : Flags) : (orFlags s f).bad = s.bad := rfl
@[simp] theorem orFlags_flips (f : Flags) : (orFlags s f).flips = s.flips := rfl
@[simp] theorem orFlags_upsets (f : Flags) : (orFlags s f).upsets = s.upsets := rfl
@[simp] theorem orFlags_stuck (f : Flags) : (orFlags s f).stuck = s.stuck := rfl
@[simp] theorem orFlags_tiles (f : Flags) : (orFlags s f).tiles = s.tiles := rfl
@[simp] theorem orFlags_clusters (f : Flags) : (orFlags s f).clusters = s.clusters := rfl
@[simp] theorem orFlags_slices (f : Flags) : (orFlags s f).slices = s.slices := rfl
@[simp] theorem orFlags_parts (f : Flags) : (orFlags s f).parts = s.parts := rfl
@[simp] theorem orFlags_disp (f : Flags) : (orFlags s f).disp = s.disp := rfl
@[simp] theorem orFlags_launches (f : Flags) : (orFlags s f).launches = s.launches := rfl
@[simp] theorem orFlags_net (f : Flags) : (orFlags s f).net = s.net := rfl
@[simp] theorem orFlags_posted (f : Flags) : (orFlags s f).posted = s.posted := rfl
@[simp] theorem orFlags_reds (f : Flags) : (orFlags s f).reds = s.reds := rfl
@[simp] theorem orFlags_ctrs (f : Flags) : (orFlags s f).ctrs = s.ctrs := rfl
@[simp] theorem orFlags_reports (f : Flags) : (orFlags s f).reports = s.reports := rfl
@[simp] theorem orFlags_host (f : Flags) : (orFlags s f).host = s.host := rfl

/-! `writeReg` -/

@[simp] theorem writeReg_sched (r : Reg) (v : Line) (lat : Nat) (ilk : Bool) : (writeReg s r v lat ilk).sched = s.sched := rfl
@[simp] theorem writeReg_cur (r : Reg) (v : Line) (lat : Nat) (ilk : Bool) : (writeReg s r v lat ilk).cur = s.cur := rfl
@[simp] theorem writeReg_clk (r : Reg) (v : Line) (lat : Nat) (ilk : Bool) : (writeReg s r v lat ilk).clk = s.clk := rfl
@[simp] theorem writeReg_mem (r : Reg) (v : Line) (lat : Nat) (ilk : Bool) : (writeReg s r v lat ilk).mem = s.mem := rfl
@[simp] theorem writeReg_bad (r : Reg) (v : Line) (lat : Nat) (ilk : Bool) : (writeReg s r v lat ilk).bad = s.bad := rfl
@[simp] theorem writeReg_flips (r : Reg) (v : Line) (lat : Nat) (ilk : Bool) : (writeReg s r v lat ilk).flips = s.flips := rfl
@[simp] theorem writeReg_upsets (r : Reg) (v : Line) (lat : Nat) (ilk : Bool) : (writeReg s r v lat ilk).upsets = s.upsets := rfl
@[simp] theorem writeReg_stuck (r : Reg) (v : Line) (lat : Nat) (ilk : Bool) : (writeReg s r v lat ilk).stuck = s.stuck := rfl
@[simp] theorem writeReg_tiles (r : Reg) (v : Line) (lat : Nat) (ilk : Bool) : (writeReg s r v lat ilk).tiles = s.tiles := rfl
@[simp] theorem writeReg_clusters (r : Reg) (v : Line) (lat : Nat) (ilk : Bool) : (writeReg s r v lat ilk).clusters = s.clusters := rfl
@[simp] theorem writeReg_slices (r : Reg) (v : Line) (lat : Nat) (ilk : Bool) : (writeReg s r v lat ilk).slices = s.slices := rfl
@[simp] theorem writeReg_parts (r : Reg) (v : Line) (lat : Nat) (ilk : Bool) : (writeReg s r v lat ilk).parts = s.parts := rfl
@[simp] theorem writeReg_disp (r : Reg) (v : Line) (lat : Nat) (ilk : Bool) : (writeReg s r v lat ilk).disp = s.disp := rfl
@[simp] theorem writeReg_launches (r : Reg) (v : Line) (lat : Nat) (ilk : Bool) : (writeReg s r v lat ilk).launches = s.launches := rfl
@[simp] theorem writeReg_net (r : Reg) (v : Line) (lat : Nat) (ilk : Bool) : (writeReg s r v lat ilk).net = s.net := rfl
@[simp] theorem writeReg_posted (r : Reg) (v : Line) (lat : Nat) (ilk : Bool) : (writeReg s r v lat ilk).posted = s.posted := rfl
@[simp] theorem writeReg_reds (r : Reg) (v : Line) (lat : Nat) (ilk : Bool) : (writeReg s r v lat ilk).reds = s.reds := rfl
@[simp] theorem writeReg_ctrs (r : Reg) (v : Line) (lat : Nat) (ilk : Bool) : (writeReg s r v lat ilk).ctrs = s.ctrs := rfl
@[simp] theorem writeReg_reports (r : Reg) (v : Line) (lat : Nat) (ilk : Bool) : (writeReg s r v lat ilk).reports = s.reports := rfl
@[simp] theorem writeReg_host (r : Reg) (v : Line) (lat : Nat) (ilk : Bool) : (writeReg s r v lat ilk).host = s.host := rfl

/-! `modLaunch`, `memWrite`, `writeSLat` and `writeS`, which may change nothing -/

@[simp] theorem modLaunch_sched (k : Nat) (f : Launch → Launch) : (modLaunch s k f).sched = s.sched := by
  unfold modLaunch; split <;> rfl
@[simp] theorem modLaunch_cur (k : Nat) (f : Launch → Launch) : (modLaunch s k f).cur = s.cur := by
  unfold modLaunch; split <;> rfl
@[simp] theorem modLaunch_clk (k : Nat) (f : Launch → Launch) : (modLaunch s k f).clk = s.clk := by
  unfold modLaunch; split <;> rfl
@[simp] theorem modLaunch_mem (k : Nat) (f : Launch → Launch) : (modLaunch s k f).mem = s.mem := by
  unfold modLaunch; split <;> rfl
@[simp] theorem modLaunch_bad (k : Nat) (f : Launch → Launch) : (modLaunch s k f).bad = s.bad := by
  unfold modLaunch; split <;> rfl
@[simp] theorem modLaunch_flips (k : Nat) (f : Launch → Launch) : (modLaunch s k f).flips = s.flips := by
  unfold modLaunch; split <;> rfl
@[simp] theorem modLaunch_upsets (k : Nat) (f : Launch → Launch) : (modLaunch s k f).upsets = s.upsets := by
  unfold modLaunch; split <;> rfl
@[simp] theorem modLaunch_stuck (k : Nat) (f : Launch → Launch) : (modLaunch s k f).stuck = s.stuck := by
  unfold modLaunch; split <;> rfl
@[simp] theorem modLaunch_cores (k : Nat) (f : Launch → Launch) : (modLaunch s k f).cores = s.cores := by
  unfold modLaunch; split <;> rfl
@[simp] theorem modLaunch_tiles (k : Nat) (f : Launch → Launch) : (modLaunch s k f).tiles = s.tiles := by
  unfold modLaunch; split <;> rfl
@[simp] theorem modLaunch_clusters (k : Nat) (f : Launch → Launch) : (modLaunch s k f).clusters = s.clusters := by
  unfold modLaunch; split <;> rfl
@[simp] theorem modLaunch_slices (k : Nat) (f : Launch → Launch) : (modLaunch s k f).slices = s.slices := by
  unfold modLaunch; split <;> rfl
@[simp] theorem modLaunch_parts (k : Nat) (f : Launch → Launch) : (modLaunch s k f).parts = s.parts := by
  unfold modLaunch; split <;> rfl
@[simp] theorem modLaunch_disp (k : Nat) (f : Launch → Launch) : (modLaunch s k f).disp = s.disp := by
  unfold modLaunch; split <;> rfl
@[simp] theorem modLaunch_net (k : Nat) (f : Launch → Launch) : (modLaunch s k f).net = s.net := by
  unfold modLaunch; split <;> rfl
@[simp] theorem modLaunch_posted (k : Nat) (f : Launch → Launch) : (modLaunch s k f).posted = s.posted := by
  unfold modLaunch; split <;> rfl
@[simp] theorem modLaunch_reds (k : Nat) (f : Launch → Launch) : (modLaunch s k f).reds = s.reds := by
  unfold modLaunch; split <;> rfl
@[simp] theorem modLaunch_ctrs (k : Nat) (f : Launch → Launch) : (modLaunch s k f).ctrs = s.ctrs := by
  unfold modLaunch; split <;> rfl
@[simp] theorem modLaunch_reports (k : Nat) (f : Launch → Launch) : (modLaunch s k f).reports = s.reports := by
  unfold modLaunch; split <;> rfl
@[simp] theorem modLaunch_host (k : Nat) (f : Launch → Launch) : (modLaunch s k f).host = s.host := by
  unfold modLaunch; split <;> rfl
@[simp] theorem memWrite_sched (a : Nat) (bs : List Byte) : (memWrite s a bs).sched = s.sched := by
  unfold memWrite; split <;> rfl
@[simp] theorem memWrite_cur (a : Nat) (bs : List Byte) : (memWrite s a bs).cur = s.cur := by
  unfold memWrite; split <;> rfl
@[simp] theorem memWrite_clk (a : Nat) (bs : List Byte) : (memWrite s a bs).clk = s.clk := by
  unfold memWrite; split <;> rfl
@[simp] theorem memWrite_bad (a : Nat) (bs : List Byte) : (memWrite s a bs).bad = s.bad := by
  unfold memWrite; split <;> rfl
@[simp] theorem memWrite_flips (a : Nat) (bs : List Byte) : (memWrite s a bs).flips = s.flips := by
  unfold memWrite; split <;> rfl
@[simp] theorem memWrite_upsets (a : Nat) (bs : List Byte) : (memWrite s a bs).upsets = s.upsets := by
  unfold memWrite; split <;> rfl
@[simp] theorem memWrite_stuck (a : Nat) (bs : List Byte) : (memWrite s a bs).stuck = s.stuck := by
  unfold memWrite; split <;> rfl
@[simp] theorem memWrite_cores (a : Nat) (bs : List Byte) : (memWrite s a bs).cores = s.cores := by
  unfold memWrite; split <;> rfl
@[simp] theorem memWrite_tiles (a : Nat) (bs : List Byte) : (memWrite s a bs).tiles = s.tiles := by
  unfold memWrite; split <;> rfl
@[simp] theorem memWrite_clusters (a : Nat) (bs : List Byte) : (memWrite s a bs).clusters = s.clusters := by
  unfold memWrite; split <;> rfl
@[simp] theorem memWrite_slices (a : Nat) (bs : List Byte) : (memWrite s a bs).slices = s.slices := by
  unfold memWrite; split <;> rfl
@[simp] theorem memWrite_parts (a : Nat) (bs : List Byte) : (memWrite s a bs).parts = s.parts := by
  unfold memWrite; split <;> rfl
@[simp] theorem memWrite_disp (a : Nat) (bs : List Byte) : (memWrite s a bs).disp = s.disp := by
  unfold memWrite; split <;> rfl
@[simp] theorem memWrite_launches (a : Nat) (bs : List Byte) : (memWrite s a bs).launches = s.launches := by
  unfold memWrite; split <;> rfl
@[simp] theorem memWrite_net (a : Nat) (bs : List Byte) : (memWrite s a bs).net = s.net := by
  unfold memWrite; split <;> rfl
@[simp] theorem memWrite_posted (a : Nat) (bs : List Byte) : (memWrite s a bs).posted = s.posted := by
  unfold memWrite; split <;> rfl
@[simp] theorem memWrite_reds (a : Nat) (bs : List Byte) : (memWrite s a bs).reds = s.reds := by
  unfold memWrite; split <;> rfl
@[simp] theorem memWrite_ctrs (a : Nat) (bs : List Byte) : (memWrite s a bs).ctrs = s.ctrs := by
  unfold memWrite; split <;> rfl
@[simp] theorem memWrite_reports (a : Nat) (bs : List Byte) : (memWrite s a bs).reports = s.reports := by
  unfold memWrite; split <;> rfl
@[simp] theorem memWrite_host (a : Nat) (bs : List Byte) : (memWrite s a bs).host = s.host := by
  unfold memWrite; split <;> rfl
@[simp] theorem writeSLat_sched (r : BitVec 6) (v : Word) (lat : Nat) (ilk : Bool) : (writeSLat s r v lat ilk).sched = s.sched := by
  unfold writeSLat; split <;> rfl
@[simp] theorem writeSLat_cur (r : BitVec 6) (v : Word) (lat : Nat) (ilk : Bool) : (writeSLat s r v lat ilk).cur = s.cur := by
  unfold writeSLat; split <;> rfl
@[simp] theorem writeSLat_clk (r : BitVec 6) (v : Word) (lat : Nat) (ilk : Bool) : (writeSLat s r v lat ilk).clk = s.clk := by
  unfold writeSLat; split <;> rfl
@[simp] theorem writeSLat_mem (r : BitVec 6) (v : Word) (lat : Nat) (ilk : Bool) : (writeSLat s r v lat ilk).mem = s.mem := by
  unfold writeSLat; split <;> rfl
@[simp] theorem writeSLat_bad (r : BitVec 6) (v : Word) (lat : Nat) (ilk : Bool) : (writeSLat s r v lat ilk).bad = s.bad := by
  unfold writeSLat; split <;> rfl
@[simp] theorem writeSLat_flips (r : BitVec 6) (v : Word) (lat : Nat) (ilk : Bool) : (writeSLat s r v lat ilk).flips = s.flips := by
  unfold writeSLat; split <;> rfl
@[simp] theorem writeSLat_upsets (r : BitVec 6) (v : Word) (lat : Nat) (ilk : Bool) : (writeSLat s r v lat ilk).upsets = s.upsets := by
  unfold writeSLat; split <;> rfl
@[simp] theorem writeSLat_stuck (r : BitVec 6) (v : Word) (lat : Nat) (ilk : Bool) : (writeSLat s r v lat ilk).stuck = s.stuck := by
  unfold writeSLat; split <;> rfl
@[simp] theorem writeSLat_tiles (r : BitVec 6) (v : Word) (lat : Nat) (ilk : Bool) : (writeSLat s r v lat ilk).tiles = s.tiles := by
  unfold writeSLat; split <;> rfl
@[simp] theorem writeSLat_clusters (r : BitVec 6) (v : Word) (lat : Nat) (ilk : Bool) : (writeSLat s r v lat ilk).clusters = s.clusters := by
  unfold writeSLat; split <;> rfl
@[simp] theorem writeSLat_slices (r : BitVec 6) (v : Word) (lat : Nat) (ilk : Bool) : (writeSLat s r v lat ilk).slices = s.slices := by
  unfold writeSLat; split <;> rfl
@[simp] theorem writeSLat_parts (r : BitVec 6) (v : Word) (lat : Nat) (ilk : Bool) : (writeSLat s r v lat ilk).parts = s.parts := by
  unfold writeSLat; split <;> rfl
@[simp] theorem writeSLat_disp (r : BitVec 6) (v : Word) (lat : Nat) (ilk : Bool) : (writeSLat s r v lat ilk).disp = s.disp := by
  unfold writeSLat; split <;> rfl
@[simp] theorem writeSLat_launches (r : BitVec 6) (v : Word) (lat : Nat) (ilk : Bool) : (writeSLat s r v lat ilk).launches = s.launches := by
  unfold writeSLat; split <;> rfl
@[simp] theorem writeSLat_net (r : BitVec 6) (v : Word) (lat : Nat) (ilk : Bool) : (writeSLat s r v lat ilk).net = s.net := by
  unfold writeSLat; split <;> rfl
@[simp] theorem writeSLat_posted (r : BitVec 6) (v : Word) (lat : Nat) (ilk : Bool) : (writeSLat s r v lat ilk).posted = s.posted := by
  unfold writeSLat; split <;> rfl
@[simp] theorem writeSLat_reds (r : BitVec 6) (v : Word) (lat : Nat) (ilk : Bool) : (writeSLat s r v lat ilk).reds = s.reds := by
  unfold writeSLat; split <;> rfl
@[simp] theorem writeSLat_ctrs (r : BitVec 6) (v : Word) (lat : Nat) (ilk : Bool) : (writeSLat s r v lat ilk).ctrs = s.ctrs := by
  unfold writeSLat; split <;> rfl
@[simp] theorem writeSLat_reports (r : BitVec 6) (v : Word) (lat : Nat) (ilk : Bool) : (writeSLat s r v lat ilk).reports = s.reports := by
  unfold writeSLat; split <;> rfl
@[simp] theorem writeSLat_host (r : BitVec 6) (v : Word) (lat : Nat) (ilk : Bool) : (writeSLat s r v lat ilk).host = s.host := by
  unfold writeSLat; split <;> rfl
@[simp] theorem writeS_sched (r : BitVec 6) (v : Word) : (writeS s r v).sched = s.sched := by
  unfold writeS; simp
@[simp] theorem writeS_cur (r : BitVec 6) (v : Word) : (writeS s r v).cur = s.cur := by
  unfold writeS; simp
@[simp] theorem writeS_clk (r : BitVec 6) (v : Word) : (writeS s r v).clk = s.clk := by
  unfold writeS; simp
@[simp] theorem writeS_mem (r : BitVec 6) (v : Word) : (writeS s r v).mem = s.mem := by
  unfold writeS; simp
@[simp] theorem writeS_bad (r : BitVec 6) (v : Word) : (writeS s r v).bad = s.bad := by
  unfold writeS; simp
@[simp] theorem writeS_flips (r : BitVec 6) (v : Word) : (writeS s r v).flips = s.flips := by
  unfold writeS; simp
@[simp] theorem writeS_upsets (r : BitVec 6) (v : Word) : (writeS s r v).upsets = s.upsets := by
  unfold writeS; simp
@[simp] theorem writeS_stuck (r : BitVec 6) (v : Word) : (writeS s r v).stuck = s.stuck := by
  unfold writeS; simp
@[simp] theorem writeS_tiles (r : BitVec 6) (v : Word) : (writeS s r v).tiles = s.tiles := by
  unfold writeS; simp
@[simp] theorem writeS_clusters (r : BitVec 6) (v : Word) : (writeS s r v).clusters = s.clusters := by
  unfold writeS; simp
@[simp] theorem writeS_slices (r : BitVec 6) (v : Word) : (writeS s r v).slices = s.slices := by
  unfold writeS; simp
@[simp] theorem writeS_parts (r : BitVec 6) (v : Word) : (writeS s r v).parts = s.parts := by
  unfold writeS; simp
@[simp] theorem writeS_disp (r : BitVec 6) (v : Word) : (writeS s r v).disp = s.disp := by
  unfold writeS; simp
@[simp] theorem writeS_launches (r : BitVec 6) (v : Word) : (writeS s r v).launches = s.launches := by
  unfold writeS; simp
@[simp] theorem writeS_net (r : BitVec 6) (v : Word) : (writeS s r v).net = s.net := by
  unfold writeS; simp
@[simp] theorem writeS_posted (r : BitVec 6) (v : Word) : (writeS s r v).posted = s.posted := by
  unfold writeS; simp
@[simp] theorem writeS_reds (r : BitVec 6) (v : Word) : (writeS s r v).reds = s.reds := by
  unfold writeS; simp
@[simp] theorem writeS_ctrs (r : BitVec 6) (v : Word) : (writeS s r v).ctrs = s.ctrs := by
  unfold writeS; simp
@[simp] theorem writeS_reports (r : BitVec 6) (v : Word) : (writeS s r v).reports = s.reports := by
  unfold writeS; simp
@[simp] theorem writeS_host (r : BitVec 6) (v : Word) : (writeS s r v).host = s.host := by
  unfold writeS; simp

/-! What a part reads as after it is replaced. -/

theorem getCore_setCore (c c' : Nat) (x : Core) : getCore (setCore s c x) c' = if c = c' then x else getCore s c' := look_put _ _ _ _ _
@[simp] theorem getCore_setCore_same (c : Nat) (x : Core) : getCore (setCore s c x) c = x := look_put_same _ _ _ _
theorem getCore_setCore_other {c c' : Nat} (x : Core) (h : c ≠ c') : getCore (setCore s c x) c' = getCore s c' := look_put_other _ _ _ h
@[simp] theorem getCore_modCore_same (c : Nat) (f : Core → Core) : getCore (modCore s c f) c = f (getCore s c) := look_put_same _ _ _ _
theorem getCore_modCore_other {c c' : Nat} (f : Core → Core) (h : c ≠ c') : getCore (modCore s c f) c' = getCore s c' := look_put_other _ _ _ h
@[simp] theorem getTile_setTile_same (t : Nat) (x : Tile) : getTile (setTile s t x) t = x := look_put_same _ _ _ _
theorem getTile_setTile_other {t t' : Nat} (x : Tile) (h : t ≠ t') : getTile (setTile s t x) t' = getTile s t' := look_put_other _ _ _ h
@[simp] theorem getTile_modTile_same (t : Nat) (f : Tile → Tile) : getTile (modTile s t f) t = f (getTile s t) := look_put_same _ _ _ _
@[simp] theorem getCl_setCl_same (k : Nat) (x : Cluster) : getCl (setCl s k x) k = x := look_put_same _ _ _ _
@[simp] theorem getCl_modCl_same (k : Nat) (f : Cluster → Cluster) : getCl (modCl s k f) k = f (getCl s k) := look_put_same _ _ _ _
theorem getCl_modCl_other {k k' : Nat} (f : Cluster → Cluster) (h : k ≠ k') : getCl (modCl s k f) k' = getCl s k' := look_put_other _ _ _ h
@[simp] theorem getSl_setSl_same (k : Nat) (x : Slice) : getSl (setSl s k x) k = x := look_put_same _ _ _ _
@[simp] theorem getSl_modSl_same (k : Nat) (f : Slice → Slice) : getSl (modSl s k f) k = f (getSl s k) := look_put_same _ _ _ _
@[simp] theorem getPart_setPart_same (p : Nat) (x : Part) : getPart (setPart s p x) p = x := look_put_same _ _ _ _
@[simp] theorem launchAt_setLaunch_same (k : Nat) (l : Launch) : launchAt (setLaunch s k l) k = some l := find_put_same _ _ _
theorem launchAt_setLaunch_other {k k' : Nat} (l : Launch) (h : k ≠ k') : launchAt (setLaunch s k l) k' = launchAt s k' := find_put_other _ _ h
theorem launchAt_modLaunch_same (k : Nat) (f : Launch → Launch) : launchAt (modLaunch s k f) k = (launchAt s k).map f := by
  unfold modLaunch; split <;> simp [*]
@[simp] theorem launchAt_dropLaunch_same (k : Nat) : launchAt (dropLaunch s k) k = none := by simp [launchAt, dropLaunch, find_drop]
/-- Cores are read through `getCore`: equal core maps read alike. -/
theorem getCore_congr {s t : State} (h : t.cores = s.cores) (c : Nat) : getCore t c = getCore s c := by simp [getCore, h]
theorem getTile_congr {s t : State} (h : t.tiles = s.tiles) (k : Nat) : getTile t k = getTile s k := by simp [getTile, h]

/-! The running task. -/

@[simp] theorem taskOf_setTask (t : Task) : taskOf (setTask s t) = t := by simp [taskOf, setTask]
@[simp] theorem taskOf_modTask (f : Task → Task) : taskOf (modTask s f) = f (taskOf s) := by simp [modTask]
@[simp] theorem ctxOf_setCtx (x : Ctx) : ctxOf (setCtx s x) = x := by simp [ctxOf, setCtx]
@[simp] theorem ctxOf_modCtx (f : Ctx → Ctx) : ctxOf (modCtx s f) = f (ctxOf s) := by simp [modCtx]

/-! Memory. -/

/-- Reading a byte after a write: the byte written, or what the address held. -/
theorem memByte_memWrite (a : Nat) (bs : List Byte) (k : Nat) :
    memByte (memWrite s a bs) k = if a ≤ k ∧ k < a + bs.length ∧ k < 2 ^ 40 then bs.getD (k - a) 0 else memByte s k := by
  unfold memWrite memByte
  by_cases h : a < 2 ^ 40
  · rw [if_pos h]
    simp only [look_writeRun, List.length_take]
    by_cases g : a ≤ k ∧ k < a + min (2 ^ 40 - a) bs.length
    · have g' : a ≤ k ∧ k < a + bs.length ∧ k < 2 ^ 40 := by omega
      have e : k - a < 2 ^ 40 - a := by omega
      rw [if_pos g, if_pos g']
      simp only [List.getD_eq_getElem?_getD, List.getElem?_take, e, if_true]; rfl
    · have g' : ¬ (a ≤ k ∧ k < a + bs.length ∧ k < 2 ^ 40) := by omega
      rw [if_neg g, if_neg g']
  · have g' : ¬ (a ≤ k ∧ k < a + bs.length ∧ k < 2 ^ 40) := by omega
    rw [if_neg h, if_neg g']
/-- A write keeps the canonical form of memory. -/
theorem memWrite_wf {s : State} (h : Memory.wf s.mem = true) (a : Nat) (bs : List Byte) : Memory.wf (memWrite s a bs).mem = true := by
  unfold memWrite
  split
  · rename_i ha
    simp only [Memory.wf, Bool.and_eq_true, List.all_eq_true, decide_eq_true_eq] at h ⊢
    refine ⟨canonical_writeRun h.1 _ _, fun e he => ?_⟩
    rcases mem_writeRun he with he | ⟨h1, h2⟩
    · exact h.2 e he
    · simp only [List.length_take] at h2; omega
  · exact h
theorem memMerge_wf {s : State} (h : Memory.wf s.mem = true) (pa : Nat) (d : Line) (m : Mask) : Memory.wf (memMerge s pa d m).mem = true :=
  memWrite_wf h _ _
theorem reset_mem_wf : Memory.wf State.reset.mem = true := rfl
/-- Every listed address is one the device has. -/
theorem wf_below {m : List Host.Cell} (h : Memory.wf m = true) : ∀ e ∈ m, e.1 < 2 ^ 40 := by
  simp only [Memory.wf, Bool.and_eq_true, List.all_eq_true, decide_eq_true_eq] at h
  exact h.2

end Sys2Proof.Machine
end

