-- ==== Sys2Proof/Laws/Issue.lean ====
section
/-! SUPPORT. What an instruction that issues comes to: `issue` said once, so that nothing later unfolds it. -/
namespace Sys2Proof.Machine

theorem taskOf_run {s : State} {t : Task} (h : (getCore s s.cur).run = some t) : taskOf s = t := by simp [taskOf, h]

theorem readyOp_run {op : Nat} {f : Fields} {s : State} (h : readyOp op f s = true) : (getCore s s.cur).run = some (taskOf s) := by
  unfold readyOp at h
  split at h
  · cases h
  · rename_i t ht; rw [ht, taskOf_run ht]

theorem readyOp_parts {op : Nat} {f : Fields} {s : State} (h : readyOp op f s = true) :
    (getCore s s.cur).run = some (taskOf s) ∧ decodeCheck (taskOf s) (classOf (idxOf s.cur)) op f = none
      ∧ mustWait s op (effFields (ctxOf s) f) = false ∧ stallShort s op (effFields (ctxOf s) f) = false ∧ (taskOf s).resumed = false := by
  have hr := readyOp_run h
  simp only [readyOp, hr, Bool.and_eq_true, Bool.not_eq_true', Option.isNone_iff_eq_none] at h
  exact ⟨hr, h.1.1.1, h.1.1.2, h.1.2, h.2⟩

theorem loopCheck_other {s : State} {op : Nat} {f : Fields} (h : op ≠ 0x007) : loopCheck s op f = .ok s := by
  unfold loopCheck; split
  · rw [if_neg h]
  · rfl

theorem recheckHeld_none {s : State} (h : (taskOf s).resumed = false) : recheckHeld s = .ok s := by
  simp [recheckHeld, h]

/-- The effect of an instruction that is ready is that of its body. -/
theorem perform_ready {op : Nat} {f : Fields} {body : Body} {s : State} (h : readyOp op f s = true) (hop : op ≠ 0x007) :
    perform s op (effFields (ctxOf s) f) body =
      (body s).map fun p => (match p.2 with
        | .over => p.1
        | _ => holdUnits p.1 op (effFields (ctxOf s) f), p.2) := by
  obtain ⟨-, -, hw, hs, hr⟩ := readyOp_parts h
  simp only [perform, loopCheck_other hop, recheckHeld_none hr, hw, hs, bind, Except.bind, Bool.false_eq_true, if_false]
  cases body s with
  | error e => rfl
  | ok p => obtain ⟨s', fl⟩ := p; cases fl <;> rfl

/-- An instruction that is ready and whose body has an effect completes with it, and control goes on. -/
theorem issue_next {op : Nat} {f : Fields} {body : Body} {s s' : State} {fl : Flow} (h : readyOp op f s = true) (hop : op ≠ 0x007)
    (hb : body s = .ok (s', fl)) (hfl : fl ≠ .over) :
    issue op f body s = .next (finish (holdUnits s' op (effFields (ctxOf s) f)) op (stallOf f) fl) := by
  obtain ⟨hr, hd, -⟩ := readyOp_parts h
  have hp := perform_ready (body := body) h hop
  unfold issue
  rw [hr]
  simp only [hd]
  rw [show (taskOf s).ctx = ctxOf s from rfl, hp, hb]
  cases fl <;> first | rfl | exact absurd rfl hfl

/-- An instruction that is ready and ends its task. -/
theorem issue_over {op : Nat} {f : Fields} {body : Body} {s s' : State} (h : readyOp op f s = true) (hop : op ≠ 0x007)
    (hb : body s = .ok (s', .over)) :
    issue op f body s = .next (match (taskOf s).slot with
      | some k => settle s' k
      | none => s') := by
  obtain ⟨hr, hd, -⟩ := readyOp_parts h
  have hp := perform_ready (body := body) h hop
  unfold issue
  rw [hr]
  simp only [hd]
  rw [show (taskOf s).ctx = ctxOf s from rfl, hp, hb]
  cases (taskOf s).slot <;> rfl

/-- An instruction that is ready and whose body raises a trap or fault takes it. -/
theorem issue_trap {op : Nat} {f : Fields} {body : Body} {s s' : State} {i : TrapInfo} (h : readyOp op f s = true) (hop : op ≠ 0x007)
    (hb : body s = .error (.trap i s')) : issue op f body s = .next (trapAt s' i) := by
  obtain ⟨hr, hd, -⟩ := readyOp_parts h
  have hp := perform_ready (body := body) h hop
  unfold issue
  rw [hr]
  simp only [hd]
  rw [show (taskOf s).ctx = ctxOf s from rfl, hp, hb]
  rfl

/-- A word that fails a decode check takes the trap of the first it fails (R220). -/
theorem issue_refused {op : Nat} {f : Fields} {body : Body} {s : State} {code : Nat} (hr : (getCore s s.cur).run = some (taskOf s))
    (hd : decodeCheck (taskOf s) (classOf (idxOf s.cur)) op f = some code) : issue op f body s = .next (trapAt s { code := code }) := by
  unfold issue
  rw [hr]
  simp only [hd]

/-- A sequential effect. -/
theorem seqBody_ok {g : State → Res State} {s s' : State} (h : g s = .ok s') : seqBody g s = .ok (s', .seq) := by
  simp [seqBody, h, Except.map]

end Sys2Proof.Machine
end

