-- ==== Sys2Proof/Laws/Complete.lean ====
section
/-! SUPPORT. What completing an instruction leaves: the core, its task and its store. -/
namespace Sys2Proof.Machine

/-! Going on. -/

theorem setCore_setCore (s : State) (c : Nat) (x y : Core) : setCore (setCore s c x) c y = setCore s c y := by
  simp only [setCore]
  congr 1
  simp only [put]
  have hb : ∀ m : List (Nat × Core), below c (below c m ++ ((c, x) :: above (c + 1) m)) = below c m := by
    intro m
    simp only [below, above, List.filter_append, List.filter_filter, List.filter_cons, Nat.lt_irrefl, decide_false, Bool.and_self]
    have : (m.filter fun e => decide (e.1 < c) && decide (c + 1 ≤ e.1)) = [] := by
      apply List.filter_eq_nil_iff.mpr; intro e _; simp; omega
    simp [this] <;> (intros; omega)
  have ha : ∀ m : List (Nat × Core), above (c + 1) (below c m ++ ((c, x) :: above (c + 1) m)) = above (c + 1) m := by
    intro m
    simp only [below, above, List.filter_append, List.filter_filter, List.filter_cons, Bool.and_self]
    have : (m.filter fun e => decide (c + 1 ≤ e.1) && decide (e.1 < c)) = [] := by
      apply List.filter_eq_nil_iff.mpr; intro e _; simp; omega
    simp [this] <;> (intros; omega)
  rw [hb, ha]

/-- What completing an instruction makes of the core that runs, as one replacement; the context is the one control leaves. -/
theorem finish_goes (s : State) (op stall : Nat) (f : Fields) (fl : Flow) (hfl : fl = .seq ∨ (∃ b, fl = .branch b) ∨ ∃ p, fl = .jump p) :
    ∃ k, finish (holdUnits s op f) op stall fl = setCore s s.cur k ∧ (CoreKept (getCore s s.cur) k ∧ k.wait = none)
      ∧ k.store = (getCore s s.cur).store
      ∧ k.run = some { taskOf s with
          ctx := advance (if takesFormat op then { ctxOf s with status := setPP (ctxOf s).status false } else ctxOf s) fl } := by
  have e : ∀ x : Core → Core, getCore (modCore s s.cur x) s.cur = x (getCore s s.cur) := fun x => getCore_modCore_same _ _ _
  rcases hfl with rfl | ⟨b, rfl⟩ | ⟨p, rfl⟩ <;>
  · simp only [finish, holdUnits, modCtx, setCtx, modTask, setTask, modCore, setCore_setCore, getCore_setCore_same, setCore_cur, taskOf, ctxOf]
    exact ⟨_, rfl, ⟨rfl, rfl⟩, rfl, rfl⟩

/-! A scalar register written. -/

theorem frameReg_scalar (k : Core) (wp n : Nat) : (frameReg k wp ⟨false, n⟩).setWidth 64 = look 0 k.store (wp / 8 + n) := by
  simp [frameReg, regWord]

/-- What a scalar write makes of the core that runs. -/
theorem writeSLat_core (s : State) (d : BitVec 6) (v : Word) (lat : Nat) (ilk : Bool) (h : d.toNat < 32) :
    ∃ k, writeSLat s d v lat ilk = setCore s s.cur k ∧ CoreKept (getCore s s.cur) k ∧ k.run = (getCore s s.cur).run
      ∧ k.store = writeOne 0 (getCore s s.cur).store (regWord (taskOf s).wp ⟨false, d.toNat⟩) v := by
  simp only [writeSLat, if_pos h, writeReg, modCore]
  refine ⟨_, rfl, ?_⟩
  split <;> simp [CoreKept, frameSetReg]

theorem setCore_self_run {s : State} {k : Core} {t : Task} (h : k.run = some t) : taskOf (setCore s s.cur k) = t := by simp [taskOf, h]

/-- An instruction whose body writes one scalar register and goes on. -/
theorem wroteScalar {s : State} {op st : Nat} {f : Fields} {d : BitVec 6} {v : Word} {lat : Nat} {ilk : Bool}
    (hf : takesFormat op = false) :
    WroteScalar s (finish (holdUnits (writeSLat s d v lat ilk) op f) op st .seq) d v := by
  by_cases hd : d.toNat < 32
  · obtain ⟨k, e, hk, hrun, hst⟩ := writeSLat_core s d v lat ilk hd
    obtain ⟨k', e', hk', hst', hrun'⟩ := finish_goes (writeSLat s d v lat ilk) op st f .seq (.inl rfl)
    have ht : taskOf (writeSLat s d v lat ilk) = taskOf s := by rw [e]; simp [taskOf, hrun]
    have hx : ctxOf (writeSLat s d v lat ilk) = ctxOf s := by simp [ctxOf, ht]
    have hc : (writeSLat s d v lat ilk).cur = s.cur := by simp
    have hg : getCore (writeSLat s d v lat ilk) s.cur = k := by rw [e]; simp
    rw [hc] at e' hk' hst'
    rw [hg] at hk' hst'
    rw [ht, hx, hf] at hrun'
    rw [e', e, setCore_setCore]
    refine ⟨⟨by simp, ?_⟩, ?_, ?_, ?_⟩
    · simp only [getCore_setCore_same, CoreKept] at *
      exact ⟨by rw [hk'.1, hk], hk'.2⟩
    · intro w hw
      simp only [getCore_setCore_same, hst', hst, look_writeOne]
      simp only [scalarWords, hd, decide_true, Bool.true_and, beq_eq_false_iff_ne] at hw
      rw [if_neg (fun x => hw x.symm)]
    · have hwp : (taskOf (setCore s s.cur k')).wp = (taskOf s).wp := by rw [setCore_self_run hrun']
      rw [scalarOf, if_pos hd, frameReg_scalar, hwp, if_pos hd]
      simp [hst', hst, look_writeOne, regWord]
    · rw [setCore_self_run hrun']; rfl
  · obtain ⟨k', e', hk', hst', hrun'⟩ := finish_goes s op st f .seq (.inl rfl)
    have e : writeSLat s d v lat ilk = s := by simp [writeSLat, hd]
    rw [e, e']
    rw [hf] at hrun'
    refine ⟨⟨by simp, by simpa using hk'⟩, fun w _ => by simp [hst'], by simp [scalarOf, hd], ?_⟩
    rw [setCore_self_run hrun']; rfl

/-- An instruction that changes nothing but where control is. -/
theorem wentOn {s : State} {op st : Nat} {f : Fields} (hf : takesFormat op = false) :
    WentOn s (finish (holdUnits s op f) op st .seq) (advance (ctxOf s) .seq) := by
  obtain ⟨k', e', hk', hst', hrun'⟩ := finish_goes s op st f .seq (.inl rfl)
  rw [hf] at hrun'
  rw [e']
  exact ⟨⟨by simp, by simpa using hk'⟩, fun w _ => by simp [hst'], by rw [setCore_self_run hrun']; rfl⟩

end Sys2Proof.Machine
end

