-- ==== Sys2Proof/Laws/Fetch.lean ====
section
/-! SUPPORT. What a translation and a fetch change: the tables' A and D bits in memory, the home slice's caches, and what reading a line
corrects and counts. -/
namespace Sys2Proof.Machine

/-- A state kept but for memory and its codes, the home slices, the dies' counters and recorders, the mark of a step that meets a die
that has stopped, and, where a line of memory holds an uncorrectable error, the records that wait for a partition's ring. -/
def PathOnly (s t : State) : Prop :=
  t = { s with mem := t.mem, bad := t.bad, flips := t.flips, stuck := t.stuck, slices := t.slices, host := t.host, parts := t.parts }
    ∧ (s.bad = [] → t.bad = [] ∧ t.parts = s.parts)

/-- A state that keeps the codes of memory and the partitions. -/
theorem PathOnly.same {s t : State}
    (h : t = { s with mem := t.mem, bad := t.bad, flips := t.flips, stuck := t.stuck, slices := t.slices, host := t.host, parts := t.parts })
    (b : t.bad = s.bad) (p : t.parts = s.parts) : PathOnly s t := ⟨h, fun e => ⟨b.trans e, p⟩⟩
/-- Where a line of memory holds an error, records may come to wait. -/
theorem PathOnly.parts {s t u : State} (h : PathOnly s t) (g : u = { t with parts := u.parts }) (b : s.bad ≠ []) : PathOnly s u :=
  ⟨by rw [g, h.1], fun e => absurd e b⟩
theorem PathOnly.refl (s : State) : PathOnly s s := .same rfl rfl rfl
theorem PathOnly.trans {s t u : State} (h : PathOnly s t) (g : PathOnly t u) : PathOnly s u := by
  obtain ⟨h1, h2⟩ := h
  obtain ⟨g1, g2⟩ := g
  exact ⟨by rw [g1, h1], fun e => ⟨(g2 (h2 e).1).1, (g2 (h2 e).1).2.trans (h2 e).2⟩⟩
/-- A fold of steps that keep to the path keeps to it. -/
theorem PathOnly.foldl {α : Type} (f : State → α → State) (hf : ∀ s x, PathOnly s (f s x)) (l : List α) (s : State) : PathOnly s (l.foldl f s) := by
  induction l generalizing s with
  | nil => exact .refl s
  | cons x l ih => exact (hf s x).trans (ih _)
theorem PathOnly.ite {s t u : State} (c : Prop) [Decidable c] (h : PathOnly s t) (g : PathOnly s u) : PathOnly s (if c then t else u) := by
  split <;> assumption
theorem pathOnly_modSl (s : State) (h : Nat) (f : Slice → Slice) : PathOnly s (modSl s h f) := .same rfl rfl rfl
theorem pathOnly_modDie (s : State) (d : Nat) (f : Die → Die) : PathOnly s (modDie s d f) := .same rfl rfl rfl
theorem pathOnly_meets (s : State) (d : Nat) : PathOnly s (meets s d) := .ite _ (.same rfl rfl rfl) (.refl s)
theorem pathOnly_memWrite (s : State) (a : Nat) (bs : List Byte) : PathOnly s (memWrite s a bs) := .ite _ (.same rfl rfl rfl) (.refl s)
theorem pathOnly_recEvent (s : State) (d kind part cid : Nat) (a b : Word) : PathOnly s (recEvent s d kind part cid a b) :=
  .ite _ (.refl s) (pathOnly_modDie _ _ _)
theorem pathOnly_corrected (s : State) (d unit cid : Nat) (a : Word) : PathOnly s (corrected s d unit cid a) :=
  .ite _ (pathOnly_modDie _ _ _) (((pathOnly_modDie _ _ _).trans (pathOnly_recEvent _ _ _ _ _ _ _)).trans (pathOnly_modDie _ _ _))
theorem pathOnly_fixLine (s : State) (pa : Nat) : PathOnly s (fixLine s pa) :=
  .ite _ (PathOnly.trans (.same rfl rfl rfl) (pathOnly_corrected _ _ _ _ _)) (.refl s)
theorem pathOnly_recFault (s : State) (cid part : Nat) (r : FRec) : PathOnly s (recFault s cid part r) := pathOnly_recEvent _ _ _ _ _ _ _
theorem pathOnly_ueEvent (s : State) (d part cid cause : Nat) (a : Word) : PathOnly s (ueEvent s d part cid cause a) :=
  (pathOnly_modDie _ _ _).trans (pathOnly_recEvent _ _ _ _ _ _ _)
theorem pathOnly_linesRead (s : State) (a n : Nat) : PathOnly s (linesRead s a n) :=
  by
  unfold linesRead
  split
  · exact .refl s
  · refine (PathOnly.foldl _ (fun u i => ?_) _ s)
    dsimp only
    refine (pathOnly_fixLine u (a / 128 * 128 + 128 * i)).trans ?_
    split
    · rename_i _ h
      exact ((pathOnly_ueEvent _ _ _ _ _ _).trans (pathOnly_recFault _ _ _ _)).parts rfl fun e => by simp [lineBad, e] at h
    · exact .refl _
theorem pathOnly_recoded (s : State) (a n : Nat) : PathOnly s (recoded s a n) :=
  .ite _ (.refl s) ⟨rfl, fun h => by simp [h]⟩
theorem pathOnly_physWrite (s : State) (a : Nat) (bs : List Byte) : PathOnly s (physWrite s a bs) :=
  ((pathOnly_linesRead _ _ _).trans (pathOnly_recoded _ _ _)).trans (pathOnly_memWrite _ _ _)

theorem readPte_ok {s t : State} {h a : Nat} {e : Word} (g : readPte s h a = (t, .ok e)) : PathOnly s t := by
  unfold readPte at g
  dsimp only at g
  split at g
  · cases g
  · split at g
    · cases g
    · exact (Prod.mk.inj g).1 ▸ (pathOnly_fixLine _ _).trans (pathOnly_meets _ _)

theorem walkFrom_ok (n : Nat) {s t : State} {h va lvl a : Nat} {seen : List (Nat × Word)} {r : Nat × Word × Nat × List (Nat × Word)}
    (g : walkFrom n s h va lvl a seen = (t, .ok r)) : PathOnly s t := by
  induction n generalizing s lvl a seen with
  | zero => cases g
  | succ n ih =>
    unfold walkFrom at g
    cases hr : readPte s h a with
    | mk s' e =>
      rw [hr] at g
      cases e with
      | error e => cases g
      | ok e =>
        have hp := readPte_ok hr
        dsimp only at g
        split at g
        · cases g
        · split at g
          · exact (Prod.mk.inj g).1 ▸ hp
          · exact hp.trans (ih g)

theorem walk_ok {s t : State} {p h va : Nat} {r : Nat × Word × Nat × List (Nat × Word)} (g : walk s p h va = (t, .ok r)) : PathOnly s t := by
  unfold walk at g
  dsimp only at g
  split at g
  · exact walkFrom_ok _ g
  · split at g <;> exact walkFrom_ok _ g

/-- A translation that succeeds changes what the path keeps alone. -/
theorem translate_ok {s t : State} {p h va : Nat} {k : Acc} {x : Xl} (g : translate s p h va k = (t, .ok x)) : PathOnly s t := by
  unfold translate at g
  dsimp only at g
  refine (pathOnly_meets s (dieOf h)).trans ?_
  split at g
  · cases g
  · split at g
    · split at g
      · cases g
      · exact (Prod.mk.inj g).1 ▸ pathOnly_modSl _ _ _
    · cases hw : walk (meets s (dieOf h)) p h va with
      | mk s' e =>
        rw [hw] at g
        cases e with
        | error e => cases g
        | ok r =>
          have hp := walk_ok hw
          obtain ⟨a, e, lvl, seen⟩ := r
          simp only at g
          split at g
          · cases g
          · have f := congrArg Prod.fst g
            simp only [apply_ite Prod.fst, ite_self] at f
            rw [← f]
            exact hp.trans (((PathOnly.ite _ (.refl _) (pathOnly_physWrite _ _ _)).trans (pathOnly_modSl _ _ _)).trans (pathOnly_modSl _ _ _))

theorem xlate_ok {s t : State} {p h va lg : Nat} {k : Acc} {aux : Word} {x : Xl} (g : xlate s p h va k lg aux = .ok (t, x)) : PathOnly s t := by
  unfold xlate at g
  cases ht : translate s p h va k with
  | mk s' e =>
    rw [ht] at g
    cases e with
    | error e => cases e <;> cases g
    | ok y => exact (Prod.mk.inj (Except.ok.inj g)).1 ▸ translate_ok ht

/-- A fetch that succeeds, where no line of memory carries an uncorrectable error, changes what the path keeps alone. -/
theorem codeWord_ok {s t : State} {va w : Word} (hb : s.bad = []) (g : codeWord s va = .ok (t, w)) : PathOnly s t := by
  unfold codeWord at g
  simp only [bind, Except.bind, pure, Except.pure] at g
  split at g
  · cases g
  · rename_i v hv
    obtain ⟨u, x⟩ := v
    have hu : PathOnly s u := xlate_ok hv
    have hf := (hu.trans (pathOnly_meets _ (bitsOf x.pa 15 12 / 4))).trans (pathOnly_fixLine _ x.pa)
    have hl : lineBad (fixLine (meets u (bitsOf x.pa 15 12 / 4)) x.pa) x.pa = false := by simp [lineBad, (hf.2 hb).1]
    have hr (n l : Nat) (w : List Consumer) : PathOnly s (readBad (meets u (bitsOf x.pa 15 12 / 4)) n x.pa l w) := by
      unfold readBad
      simp only [hl, Bool.false_eq_true, if_false]
      exact hf
    split at g <;> exact (Prod.mk.inj (Except.ok.inj g)).1 ▸ hr _ _ _

end Sys2Proof.Machine
end

