-- ==== Sys2Proof/Laws/PerInstr.lean ====
section
/-! SUPPORT. For each instruction: its encoding carries the opcode that the opcode map gives it (R206, R218). -/
open Sys2Proof Sys2Proof.Machine
namespace Sys2Proof.Laws.Opcode

/-- The word of an instruction has its opcode in bits [63:55]; an event has no word. -/
def Statement (i : Instr) : Prop := ∀ op g, view i = some (op, g) → opcodeOf (encodeFields op g) = op

/-- A format that carries nine opcode bits of its own. -/
def common : Fields → Bool
  | .hint _ => false
  | .raw _ => false
  | .pool _ => false
  | _ => true
theorem extract_append {a b : Nat} (x : BitVec a) (y : BitVec b) (lo n : Nat) (h : b ≤ lo) :
    (x ++ y).extractLsb' lo n = x.extractLsb' (lo - b) n := by
  apply BitVec.eq_of_toNat_eq
  simp only [BitVec.extractLsb'_toNat, BitVec.toNat_append, Nat.shiftRight_or_distrib]
  rw [Nat.shiftRight_eq_div_pow y.toNat, Nat.div_eq_of_lt (Nat.lt_of_lt_of_le y.isLt (Nat.pow_le_pow_right (by omega) h)), Nat.or_zero,
    Nat.shiftLeft_eq, Nat.shiftRight_eq_div_pow, Nat.shiftRight_eq_div_pow]
  obtain ⟨k, rfl⟩ := Nat.exists_eq_add_of_le h
  rw [Nat.pow_add, ← Nat.div_div_eq_div_mul, Nat.mul_div_cancel _ (Nat.two_pow_pos b), Nat.add_sub_cancel_left]
theorem opcodeOf_common {op : Nat} {g : Fields} (h : op < 512) (c : common g = true) : opcodeOf (encodeFields op g) = op := by
  cases g with
  | hint f => cases c
  | raw f => cases c
  | pool f => cases c
  | _ f =>
    simp only [encodeFields, opcodeOf]
    repeat rw [extract_append _ _ _ _ (by decide)]
    simp [Nat.mod_eq_of_lt h]
theorem opcodeOf_hint (op : Nat) (f : FmtHint) : opcodeOf (encodeFields op (.hint f)) = 0x1F0 + f.op.toNat := by
  simp only [encodeFields, opcodeOf]
  repeat rw [extract_append _ _ _ _ (by decide)]
  generalize f.op = o
  revert o
  decide
theorem opcodeOf_raw (op : Nat) (f : FmtRaw) : opcodeOf (encodeFields op (.raw f)) = f.op.toNat := by
  simp only [encodeFields, opcodeOf]
  repeat rw [extract_append _ _ _ _ (by decide)]
  simp
theorem opcodeOf_pool (op : Nat) (f : FmtPool) : opcodeOf (encodeFields op (.pool f)) = 0x03F := by
  simp only [encodeFields, opcodeOf]
  repeat rw [extract_append _ _ _ _ (by decide)]
  rfl
theorem of_common {i : Instr} {op : Nat} {g : Fields} (h : view i = some (op, g)) (n : op < 512) (c : common g = true) : Statement i := by
  intro op' g' h'; rw [h] at h'; cases h'; exact opcodeOf_common n c
theorem of_event {i : Instr} (h : view i = none) : Statement i := by
  intro op g h'; rw [h] at h'; cases h'

theorem nop (f : FmtS) : Statement (.nop f) := of_common rfl (by decide) rfl
theorem hint (f : FmtHint) : Statement (.hint f) := by
  intro op g h; cases h; exact opcodeOf_hint _ _
theorem br (f : FmtB) : Statement (.br f) := of_common rfl (by decide) rfl
theorem jmp (f : FmtB) : Statement (.jmp f) := of_common rfl (by decide) rfl
theorem jmpr (f : FmtB) : Statement (.jmpr f) := of_common rfl (by decide) rfl
theorem call (f : FmtB) : Statement (.call f) := of_common rfl (by decide) rfl
theorem ret (f : FmtB) : Statement (.ret f) := of_common rfl (by decide) rfl
theorem rep (f : FmtI) : Statement (.rep f) := of_common rfl (by decide) rfl
theorem endTask (f : FmtS) : Statement (.endTask f) := of_common rfl (by decide) rfl
theorem fmt (f : FmtI) : Statement (.fmt f) := of_common rfl (by decide) rfl
theorem trapOp (f : FmtI) : Statement (.trapOp f) := of_common rfl (by decide) rfl
theorem brk (f : FmtS) : Statement (.brk f) := of_common rfl (by decide) rfl
theorem csrr (f : FmtI) : Statement (.csrr f) := of_common rfl (by decide) rfl
theorem csrw (f : FmtI) : Statement (.csrw f) := of_common rfl (by decide) rfl
theorem timeOp (f : FmtS) : Statement (.timeOp f) := of_common rfl (by decide) rfl
theorem resume (f : FmtS) : Statement (.resume f) := of_common rfl (by decide) rfl
theorem abandon (f : FmtS) : Statement (.abandon f) := of_common rfl (by decide) rfl
theorem wpset (f : FmtS) : Statement (.wpset f) := of_common rfl (by decide) rfl
theorem eret (f : FmtS) : Statement (.eret f) := of_common rfl (by decide) rfl
theorem bmapw (f : FmtS) : Statement (.bmapw f) := of_common rfl (by decide) rfl
theorem ctxsave (f : FmtS) : Statement (.ctxsave f) := of_common rfl (by decide) rfl
theorem ctxload (f : FmtS) : Statement (.ctxload f) := of_common rfl (by decide) rfl
theorem unfsave (f : FmtS) : Statement (.unfsave f) := of_common rfl (by decide) rfl
theorem unfload (f : FmtS) : Statement (.unfload f) := of_common rfl (by decide) rfl
theorem halt (f : FmtS) : Statement (.halt f) := of_common rfl (by decide) rfl
theorem add (f : FmtS) : Statement (.add f) := of_common rfl (by decide) rfl
theorem sub (f : FmtS) : Statement (.sub f) := of_common rfl (by decide) rfl
theorem mul (f : FmtS) : Statement (.mul f) := of_common rfl (by decide) rfl
theorem mulh (f : FmtS) : Statement (.mulh f) := of_common rfl (by decide) rfl
theorem mulhu (f : FmtS) : Statement (.mulhu f) := of_common rfl (by decide) rfl
theorem divOp (f : FmtS) : Statement (.divOp f) := of_common rfl (by decide) rfl
theorem divu (f : FmtS) : Statement (.divu f) := of_common rfl (by decide) rfl
theorem remOp (f : FmtS) : Statement (.remOp f) := of_common rfl (by decide) rfl
theorem remu (f : FmtS) : Statement (.remu f) := of_common rfl (by decide) rfl
theorem andOp (f : FmtS) : Statement (.andOp f) := of_common rfl (by decide) rfl
theorem orOp (f : FmtS) : Statement (.orOp f) := of_common rfl (by decide) rfl
theorem xorOp (f : FmtS) : Statement (.xorOp f) := of_common rfl (by decide) rfl
theorem andn (f : FmtS) : Statement (.andn f) := of_common rfl (by decide) rfl
theorem shl (f : FmtS) : Statement (.shl f) := of_common rfl (by decide) rfl
theorem shr (f : FmtS) : Statement (.shr f) := of_common rfl (by decide) rfl
theorem sar (f : FmtS) : Statement (.sar f) := of_common rfl (by decide) rfl
theorem rot (f : FmtS) : Statement (.rot f) := of_common rfl (by decide) rfl
theorem minOp (f : FmtS) : Statement (.minOp f) := of_common rfl (by decide) rfl
theorem maxOp (f : FmtS) : Statement (.maxOp f) := of_common rfl (by decide) rfl
theorem minu (f : FmtS) : Statement (.minu f) := of_common rfl (by decide) rfl
theorem maxu (f : FmtS) : Statement (.maxu f) := of_common rfl (by decide) rfl
theorem setOp (f : FmtS) : Statement (.setOp f) := of_common rfl (by decide) rfl
theorem sel (f : FmtS) : Statement (.sel f) := of_common rfl (by decide) rfl
theorem clz (f : FmtS) : Statement (.clz f) := of_common rfl (by decide) rfl
theorem ctz (f : FmtS) : Statement (.ctz f) := of_common rfl (by decide) rfl
theorem popc (f : FmtS) : Statement (.popc f) := of_common rfl (by decide) rfl
theorem bfx (f : FmtS) : Statement (.bfx f) := of_common rfl (by decide) rfl
theorem bfi (f : FmtS) : Statement (.bfi f) := of_common rfl (by decide) rfl
theorem addImm (f : FmtI) : Statement (.addImm f) := of_common rfl (by decide) rfl
theorem subImm (f : FmtI) : Statement (.subImm f) := of_common rfl (by decide) rfl
theorem mulImm (f : FmtI) : Statement (.mulImm f) := of_common rfl (by decide) rfl
theorem mulhImm (f : FmtI) : Statement (.mulhImm f) := of_common rfl (by decide) rfl
theorem mulhuImm (f : FmtI) : Statement (.mulhuImm f) := of_common rfl (by decide) rfl
theorem divImm (f : FmtI) : Statement (.divImm f) := of_common rfl (by decide) rfl
theorem divuImm (f : FmtI) : Statement (.divuImm f) := of_common rfl (by decide) rfl
theorem remImm (f : FmtI) : Statement (.remImm f) := of_common rfl (by decide) rfl
theorem remuImm (f : FmtI) : Statement (.remuImm f) := of_common rfl (by decide) rfl
theorem andImm (f : FmtI) : Statement (.andImm f) := of_common rfl (by decide) rfl
theorem orImm (f : FmtI) : Statement (.orImm f) := of_common rfl (by decide) rfl
theorem xorImm (f : FmtI) : Statement (.xorImm f) := of_common rfl (by decide) rfl
theorem andnImm (f : FmtI) : Statement (.andnImm f) := of_common rfl (by decide) rfl
theorem shlImm (f : FmtI) : Statement (.shlImm f) := of_common rfl (by decide) rfl
theorem shrImm (f : FmtI) : Statement (.shrImm f) := of_common rfl (by decide) rfl
theorem sarImm (f : FmtI) : Statement (.sarImm f) := of_common rfl (by decide) rfl
theorem rotImm (f : FmtI) : Statement (.rotImm f) := of_common rfl (by decide) rfl
theorem minImm (f : FmtI) : Statement (.minImm f) := of_common rfl (by decide) rfl
theorem maxImm (f : FmtI) : Statement (.maxImm f) := of_common rfl (by decide) rfl
theorem minuImm (f : FmtI) : Statement (.minuImm f) := of_common rfl (by decide) rfl
theorem maxuImm (f : FmtI) : Statement (.maxuImm f) := of_common rfl (by decide) rfl
theorem setImm (f : FmtI) : Statement (.setImm f) := of_common rfl (by decide) rfl
theorem selImm (f : FmtI) : Statement (.selImm f) := of_common rfl (by decide) rfl
theorem clzImm (f : FmtI) : Statement (.clzImm f) := of_common rfl (by decide) rfl
theorem ctzImm (f : FmtI) : Statement (.ctzImm f) := of_common rfl (by decide) rfl
theorem popcImm (f : FmtI) : Statement (.popcImm f) := of_common rfl (by decide) rfl
theorem bfxImm (f : FmtI) : Statement (.bfxImm f) := of_common rfl (by decide) rfl
theorem bfiImm (f : FmtI) : Statement (.bfiImm f) := of_common rfl (by decide) rfl
theorem movi (f : FmtI) : Statement (.movi f) := of_common rfl (by decide) rfl
theorem movhi (f : FmtI) : Statement (.movhi f) := of_common rfl (by decide) rfl
theorem lit (f : FmtI) : Statement (.lit f) := of_common rfl (by decide) rfl
theorem boxr (f : FmtK) : Statement (.boxr f) := of_common rfl (by decide) rfl
theorem boxn (f : FmtK) : Statement (.boxn f) := of_common rfl (by decide) rfl
theorem pathOp (f : FmtK) : Statement (.pathOp f) := of_common rfl (by decide) rfl
theorem splitOp (f : FmtK) : Statement (.splitOp f) := of_common rfl (by decide) rfl
theorem splitf (f : FmtK) : Statement (.splitf f) := of_common rfl (by decide) rfl
theorem prune (f : FmtK) : Statement (.prune f) := of_common rfl (by decide) rfl
theorem leafOp (f : FmtK) : Statement (.leafOp f) := of_common rfl (by decide) rfl
theorem fitq (f : FmtK) : Statement (.fitq f) := of_common rfl (by decide) rfl
theorem ruleq (f : FmtK) : Statement (.ruleq f) := of_common rfl (by decide) rfl
theorem ld (f : FmtM) : Statement (.ld f) := of_common rfl (by decide) rfl
theorem st (f : FmtM) : Statement (.st f) := of_common rfl (by decide) rfl
theorem lds (f : FmtM) : Statement (.lds f) := of_common rfl (by decide) rfl
theorem sts (f : FmtM) : Statement (.sts f) := of_common rfl (by decide) rfl
theorem ldq (f : FmtM) : Statement (.ldq f) := of_common rfl (by decide) rfl
theorem stq (f : FmtM) : Statement (.stq f) := of_common rfl (by decide) rfl
theorem gather (f : FmtM) : Statement (.gather f) := of_common rfl (by decide) rfl
theorem scatter (f : FmtM) : Statement (.scatter f) := of_common rfl (by decide) rfl
theorem pref (f : FmtM) : Statement (.pref f) := of_common rfl (by decide) rfl
theorem flush (f : FmtM) : Statement (.flush f) := of_common rfl (by decide) rfl
theorem inval (f : FmtM) : Statement (.inval f) := of_common rfl (by decide) rfl
theorem fence (f : FmtM) : Statement (.fence f) := of_common rfl (by decide) rfl
theorem aadd (f : FmtM) : Statement (.aadd f) := of_common rfl (by decide) rfl
theorem amin (f : FmtM) : Statement (.amin f) := of_common rfl (by decide) rfl
theorem amax (f : FmtM) : Statement (.amax f) := of_common rfl (by decide) rfl
theorem aand (f : FmtM) : Statement (.aand f) := of_common rfl (by decide) rfl
theorem aor (f : FmtM) : Statement (.aor f) := of_common rfl (by decide) rfl
theorem axor (f : FmtM) : Statement (.axor f) := of_common rfl (by decide) rfl
theorem axchg (f : FmtM) : Statement (.axchg f) := of_common rfl (by decide) rfl
theorem acas (f : FmtM) : Statement (.acas f) := of_common rfl (by decide) rfl
theorem aaddn (f : FmtE) : Statement (.aaddn f) := of_common rfl (by decide) rfl
theorem postedAtomic (n : Nat) : Statement (.postedAtomic n) := of_event rfl
theorem give (f : FmtE) : Statement (.give f) := of_common rfl (by decide) rfl
theorem detach (c : Nat) : Statement (.detach c) := of_event rfl
theorem giveRes (f : FmtE) : Statement (.giveRes f) := of_common rfl (by decide) rfl
theorem giveRel (f : FmtE) : Statement (.giveRel f) := of_common rfl (by decide) rfl
theorem bmapr (f : FmtS) : Statement (.bmapr f) := of_common rfl (by decide) rfl
theorem tload (f : FmtM) : Statement (.tload f) := of_common rfl (by decide) rfl
theorem tstore (f : FmtM) : Statement (.tstore f) := of_common rfl (by decide) rfl
theorem tstoreCol (f : FmtM) : Statement (.tstoreCol f) := of_common rfl (by decide) rfl
theorem sems (f : FmtE) : Statement (.sems f) := of_common rfl (by decide) rfl
theorem semw (f : FmtE) : Statement (.semw f) := of_common rfl (by decide) rfl
theorem qstat (f : FmtE) : Statement (.qstat f) := of_common rfl (by decide) rfl
theorem ctrwait (f : FmtE) : Statement (.ctrwait f) := of_common rfl (by decide) rfl
theorem ctrtrig (f : FmtE) : Statement (.ctrtrig f) := of_common rfl (by decide) rfl
theorem arrive (f : FmtE) : Statement (.arrive f) := of_common rfl (by decide) rfl
theorem send (f : FmtE) : Statement (.send f) := of_common rfl (by decide) rfl
theorem sendc (f : FmtE) : Statement (.sendc f) := of_common rfl (by decide) rfl
theorem sendt (f : FmtE) : Statement (.sendt f) := of_common rfl (by decide) rfl
theorem reply (f : FmtE) : Statement (.reply f) := of_common rfl (by decide) rfl
theorem recvp (f : FmtE) : Statement (.recvp f) := of_common rfl (by decide) rfl
theorem recvx (f : FmtE) : Statement (.recvx f) := of_common rfl (by decide) rfl
theorem tagset (f : FmtE) : Statement (.tagset f) := of_common rfl (by decide) rfl
theorem tagr (f : FmtE) : Statement (.tagr f) := of_common rfl (by decide) rfl
theorem grpset (f : FmtE) : Statement (.grpset f) := of_common rfl (by decide) rfl
theorem grpfree (f : FmtE) : Statement (.grpfree f) := of_common rfl (by decide) rfl
theorem groupBusy (c : Nat) : Statement (.groupBusy c) := of_event rfl
theorem mcast (f : FmtE) : Statement (.mcast f) := of_common rfl (by decide) rfl
theorem wrq (f : FmtE) : Statement (.wrq f) := of_common rfl (by decide) rfl
theorem xcopy (f : FmtE) : Statement (.xcopy f) := of_common rfl (by decide) rfl
theorem xcompact (f : FmtE) : Statement (.xcompact f) := of_common rfl (by decide) rfl
theorem xfill (f : FmtE) : Statement (.xfill f) := of_common rfl (by decide) rfl
theorem xred (f : FmtE) : Statement (.xred f) := of_common rfl (by decide) rfl
theorem xstat (f : FmtE) : Statement (.xstat f) := of_common rfl (by decide) rfl
theorem copyOperation (e : Nat) : Statement (.copyOperation e) := of_event rfl
theorem compactOperation (e : Nat) : Statement (.compactOperation e) := of_event rfl
theorem fillOperation (e : Nat) : Statement (.fillOperation e) := of_event rfl
theorem reduceOperation (n : Nat) : Statement (.reduceOperation n) := of_event rfl
theorem vadd (f : FmtV) : Statement (.vadd f) := of_common rfl (by decide) rfl
theorem vsub (f : FmtV) : Statement (.vsub f) := of_common rfl (by decide) rfl
theorem vmul (f : FmtV) : Statement (.vmul f) := of_common rfl (by decide) rfl
theorem vfma (f : FmtV) : Statement (.vfma f) := of_common rfl (by decide) rfl
theorem vfms (f : FmtV) : Statement (.vfms f) := of_common rfl (by decide) rfl
theorem vdiv (f : FmtV) : Statement (.vdiv f) := of_common rfl (by decide) rfl
theorem vsqrt (f : FmtV) : Statement (.vsqrt f) := of_common rfl (by decide) rfl
theorem vrcp (f : FmtV) : Statement (.vrcp f) := of_common rfl (by decide) rfl
theorem vrsq (f : FmtV) : Statement (.vrsq f) := of_common rfl (by decide) rfl
theorem vexp2 (f : FmtV) : Statement (.vexp2 f) := of_common rfl (by decide) rfl
theorem vlog2 (f : FmtV) : Statement (.vlog2 f) := of_common rfl (by decide) rfl
theorem vmin (f : FmtV) : Statement (.vmin f) := of_common rfl (by decide) rfl
theorem vmax (f : FmtV) : Statement (.vmax f) := of_common rfl (by decide) rfl
theorem vabs (f : FmtV) : Statement (.vabs f) := of_common rfl (by decide) rfl
theorem vneg (f : FmtV) : Statement (.vneg f) := of_common rfl (by decide) rfl
theorem vcmp (f : FmtV) : Statement (.vcmp f) := of_common rfl (by decide) rfl
theorem vsel (f : FmtV) : Statement (.vsel f) := of_common rfl (by decide) rfl
theorem vand (f : FmtV) : Statement (.vand f) := of_common rfl (by decide) rfl
theorem vor (f : FmtV) : Statement (.vor f) := of_common rfl (by decide) rfl
theorem vxor (f : FmtV) : Statement (.vxor f) := of_common rfl (by decide) rfl
theorem vshl (f : FmtV) : Statement (.vshl f) := of_common rfl (by decide) rfl
theorem vshr (f : FmtV) : Statement (.vshr f) := of_common rfl (by decide) rfl
theorem vsar (f : FmtV) : Statement (.vsar f) := of_common rfl (by decide) rfl
theorem vcvt (f : FmtV) : Statement (.vcvt f) := of_common rfl (by decide) rfl
theorem vred (f : FmtV) : Statement (.vred f) := of_common rfl (by decide) rfl
theorem vscan (f : FmtV) : Statement (.vscan f) := of_common rfl (by decide) rfl
theorem vtopk (f : FmtV) : Statement (.vtopk f) := of_common rfl (by decide) rfl
theorem vidx (f : FmtV) : Statement (.vidx f) := of_common rfl (by decide) rfl
theorem vmov (f : FmtV) : Statement (.vmov f) := of_common rfl (by decide) rfl
theorem vbcast (f : FmtV) : Statement (.vbcast f) := of_common rfl (by decide) rfl
theorem vins (f : FmtV) : Statement (.vins f) := of_common rfl (by decide) rfl
theorem vext (f : FmtV) : Statement (.vext f) := of_common rfl (by decide) rfl
theorem tshape (f : FmtX) : Statement (.tshape f) := of_common rfl (by decide) rfl
theorem tzero (f : FmtX) : Statement (.tzero f) := of_common rfl (by decide) rfl
theorem mma (f : FmtX) : Statement (.mma f) := of_common rfl (by decide) rfl
theorem passStart (t : Nat) : Statement (.passStart t) := of_event rfl
theorem passDeliver (t : Nat) : Statement (.passDeliver t) := of_event rfl
theorem acczero (f : FmtX) : Statement (.acczero f) := of_common rfl (by decide) rfl
theorem accrd (f : FmtX) : Statement (.accrd f) := of_common rfl (by decide) rfl
theorem accwr (f : FmtX) : Statement (.accwr f) := of_common rfl (by decide) rfl
theorem accepi (f : FmtX) : Statement (.accepi f) := of_common rfl (by decide) rfl
theorem sclwait (f : FmtX) : Statement (.sclwait f) := of_common rfl (by decide) rfl
theorem sclsend (f : FmtE) : Statement (.sclsend f) := of_common rfl (by decide) rfl
theorem taskStart (c : Nat) : Statement (.taskStart c) := of_event rfl
theorem leafSteal (c : Nat) : Statement (.leafSteal c) := of_event rfl
theorem taskOverrun (c : Nat) : Statement (.taskOverrun c) := of_event rfl
theorem parkTimeout (c : Nat) (h : BitVec 32) : Statement (.parkTimeout c h) := of_event rfl
theorem handlerParcel (n : Nat) : Statement (.handlerParcel n) := of_event rfl
theorem carriedCodeParcel (n : Nat) : Statement (.carriedCodeParcel n) := of_event rfl
theorem taggedDataParcel (n : Nat) : Statement (.taggedDataParcel n) := of_event rfl
theorem channelParcel (n : Nat) : Statement (.channelParcel n) := of_event rfl
theorem scaleParcel (n : Nat) : Statement (.scaleParcel n) := of_event rfl
theorem systemParcel (n : Nat) : Statement (.systemParcel n) := of_event rfl
theorem faultParcel (n : Nat) : Statement (.faultParcel n) := of_event rfl
theorem launchParcel (n : Nat) : Statement (.launchParcel n) := of_event rfl
theorem queueSubmit (n : Nat) : Statement (.queueSubmit n) := of_event rfl
theorem admission (p q : Nat) : Statement (.admission p q) := of_event rfl
theorem regionTake (k : Nat) : Statement (.regionTake k) := of_event rfl
theorem sliceEnd (k : Nat) : Statement (.sliceEnd k) := of_event rfl
theorem quiescence (k : Nat) : Statement (.quiescence k) := of_event rfl
theorem saveComplete (k : Nat) : Statement (.saveComplete k) := of_event rfl
theorem restore (k : Nat) (shift : Shift) : Statement (.restore k shift) := of_event rfl
theorem boxReload (k cl : Nat) : Statement (.boxReload k cl) := of_event rfl
theorem boxRetire (k : Nat) (name : Word) : Statement (.boxRetire k name) := of_event rfl
theorem replayStart (k : Nat) : Statement (.replayStart k) := of_event rfl
theorem recordDeferredWrite (n : Nat) : Statement (.recordDeferredWrite n) := of_event rfl
theorem faultRingWrite (p : Nat) (dbg : Bool) : Statement (.faultRingWrite p dbg) := of_event rfl
theorem ringInterruptTimer (n : Nat) : Statement (.ringInterruptTimer n) := of_event rfl
theorem setFree (cl set : Nat) : Statement (.setFree cl set) := of_event rfl
theorem coalesceReply (cl line : Nat) : Statement (.coalesceReply cl line) := of_event rfl
theorem xinvCommand (p : Nat) : Statement (.xinvCommand p) := of_event rfl
theorem patrolScrub (scrub : Scrub) : Statement (.patrolScrub scrub) := of_event rfl
theorem flitReplay (link : Nat) : Statement (.flitReplay link) := of_event rfl
theorem wearUpdate (island : Nat) (drift : BitVec 16) (hours : Nat) : Statement (.wearUpdate island drift hours) := of_event rfl
theorem thermalThrottle (island : Nat) (temp : BitVec 16) : Statement (.thermalThrottle island temp) := of_event rfl
theorem thermalTrip (die : Nat) (temp : BitVec 16) : Statement (.thermalTrip die temp) := of_event rfl
theorem pointChangeDone (island : Nat) : Statement (.pointChangeDone island) := of_event rfl
theorem coldReset (boot : BootInput) : Statement (.coldReset boot) := of_event rfl
theorem warmReset (boot : BootInput) : Statement (.warmReset boot) := of_event rfl
theorem goOp (boot : BootInput) : Statement (.goOp boot) := of_event rfl
theorem linkDown (link : Nat) : Statement (.linkDown link) := of_event rfl
theorem semaphoreAcquire (n : Nat) (a b : Bool) : Statement (.semaphoreAcquire n a b) := of_event rfl
theorem partitionReady (p : Nat) : Statement (.partitionReady p) := of_event rfl
theorem unassignedOpcode (f : FmtRaw) : Statement (.unassignedOpcode f) := by
  intro op g h; cases h; exact opcodeOf_raw _ _
theorem poolHeaderWord (f : FmtPool) : Statement (.poolHeaderWord f) := by
  intro op g h; cases h; exact opcodeOf_pool _ _
theorem boxReachesSpurEngine (n : Nat) : Statement (.boxReachesSpurEngine n) := of_event rfl
theorem leafResetEnd (t : Nat) : Statement (.leafResetEnd t) := of_event rfl
theorem linkActive (link : Nat) : Statement (.linkActive link) := of_event rfl
theorem peerPortExchange (peer : PeerInput) : Statement (.peerPortExchange peer) := of_event rfl
theorem linkRetrain : Statement .linkRetrain := of_event rfl
theorem semaphoreRelease : Statement .semaphoreRelease := of_event rfl
theorem cfgWrite : Statement .cfgWrite := of_event rfl
theorem partitionCreate : Statement .partitionCreate := of_event rfl
theorem partitionDestroy : Statement .partitionDestroy := of_event rfl
theorem islandPointWrite : Statement .islandPointWrite := of_event rfl
theorem attgo : Statement .attgo := of_event rfl
theorem thaw : Statement .thaw := of_event rfl
theorem injectLaunch : Statement .injectLaunch := of_event rfl
theorem injectHandler : Statement .injectHandler := of_event rfl
theorem injectTaggedData : Statement .injectTaggedData := of_event rfl
theorem injectSystem : Statement .injectSystem := of_event rfl
theorem injectAbort : Statement .injectAbort := of_event rfl
theorem hostRead : Statement .hostRead := of_event rfl
theorem hostWrite : Statement .hostWrite := of_event rfl

end Sys2Proof.Laws.Opcode
end

