-- ==== Sys2Proof/Tests/Slice0.lean ====
section
/-! SUPPORT. Tests: words of the spec's encodings, a refused term for each check of WellFormed, single steps whose results the
spec gives, and for every statement a state that meets its hypotheses. -/
open Sys2Proof Sys2Proof.Machine Sys2Proof.Say
namespace Sys2Proof.Tests
set_option Elab.async false

/-! ## States -/

/-- Device memory with one 32 MiB page of partition 0 mapped where it lies. -/
def paged : State := { placeWord State.reset 0x0080000000000000#64 with cores := [], sched := {} }
/-- A launch of one axis, two rules and one leaf, whose code lies at 0x20000 and whose fault handler 64 bytes on. -/
def launch (w0 : Word) : Launch :=
  { (default : Launch) with
    hdr := (((List.replicate 32 (0 : Word)).set 0 (0x1#64 <<< 52 ||| 0x2#64 <<< 47 ||| 0x1#64 <<< 38 ||| w0)).set 1 0x20000#64).set 30 0x40#64
    leaves := [List.replicate 8 (0 : Word)]
    state := .running
    region := ⟨0, 0, 0, 0⟩
    slice := 1000
    budget := 1000 }
/-- A task in frame 0 of a core. -/
def task (c : Nat) (k : TaskKind) : Task :=
  { handle := mkHandle c 0 1, wp := frameBase c 0, kind := k, slot := if k = .system then none else some 0
    ctx := { pc := 0x20000, budget := 1000, status := if k = .system then 0x0080000000000000#64 else 0 } }
/-- Scalar registers of frame 0. -/
def regs (c : Nat) (l : List (Nat × Word)) : NMap Word := l.map fun q => (frameBase c 0 / 8 + q.1, q.2)
/-- A core of cluster 0 that runs a task of a kind, with registers as given, set 1 attached to its handle 1, in the launch of slot 0. -/
def at_ (c : Nat) (k : TaskKind) (l : List (Nat × Word)) : State :=
  { paged with
    cur := c
    cores := [(c, { run := some (task c k), store := regs c l, bmap := [(1, bmEntry false 0 1)], holders := [(1, .task (mkHandle c 0 1))] })]
    clusters := [(0, { part := some 0, holder := some 0, sets := [(1, { use := .attached c 1 })] })]
    launches := [(0, launch 0)] }
/-- The lines of memory from 0x100000 on stand in the core's L1: a read is served at once. -/
def atOnce (s : State) : State := modCore s s.cur fun k => { k with
  l1 := (List.range 48).map fun i =>
    { line := 0x2000 + i, pa := 0x100000 + 128 * i, data := memLine s (0x100000 + 128 * i), dirty := 0, wr := false, rd := true, stamps := [], hc := false } }
/-- The state an outcome gives, where it is a next state. -/
def after (o : Host.Outcome State Fault Refusal) : State :=
  match o with
  | .next t => t
  | _ => State.reset
/-- The instruction a word decodes to. -/
def word (w : Word) : Option Instr :=
  match decodeWord w with
  | .ok i => some i
  | .error _ => none
def ok {α : Type} (r : Res α) : Bool := r.isOk
/-- The code of the newest record of a core's parked task. -/
def parkedCode (s : State) (c : Nat) : Option Nat := (getCore s c).parked.head?.map fun t => recCode t.frec

def fS : FmtS := { stall := 0, d := 4, a := 2, b := 3, c := 5, amod := 0x504, lw := 0, sub := 0 }
def fI : FmtI := { stall := 0, d := 4, a := 2, sub := 0, imm := 0 }
def fB : FmtB := { stall := 0, cond := 0, a := 2, b := 3, offs := 5 }
def fM : FmtM := { stall := 0, d := 4, a := 2, b := 3, sp := 0, ord := 0, sco := 0, sz := 3, sx := 0, hf := 0, hnd := 0, disp := 0 }
def fV : FmtV := { stall := 0, d := 4, a := 2, b := 3, c := 5, amod := 0x504, fmt := 0xA, fmt2 := 0, sub := 0, sat := 0 }
def fX : FmtX := { stall := 0, d := 4, a := 2, ta := 1, tb := 2, acc := 0, imm8 := 5, sub := 0 }
def fK : FmtK := { stall := 0, d := 4, a := 2, mask := 1, axis := 0, mode := 0, lr := 0, rr := 0, join := 31, leaf := 0, sub := 0 }
def fE : FmtE := { stall := 0, d := 4, a := 2, b := 3, c := 5, tag := 0x21, core := 0, sub := 0, hnd := 1, ic := 0 }

/-! ## Words of the spec (R220, R233, R254, R284, R310, R333), by family -/

theorem test_decode_control : word 0x0380000100008001#64 = some (.rep { stall := 0, d := 0, a := 0, sub := 1, imm := 0x8001 })
    ∧ word 0x028003E00000000C#64 = some (.call { stall := 0, cond := 0, a := 0, b := 31, offs := 12 })
    ∧ word 0x01800000FFFFFFFD#64 = some (.jmp { stall := 0, cond := 0, a := 0, b := 0, offs := 0xFFFFFFFD })
    ∧ word 0x048000000066A680#64 = some (.fmt { stall := 0, d := 0, a := 0, sub := 0, imm := 0x66A680 }) := by decide +kernel
theorem test_decode_system : word 0x1080040000000000#64 = some
    (.eret { stall := 0, d := 0, a := 4, b := 0, c := 0, amod := 0, lw := 0, sub := 0 }) := by decide +kernel
theorem test_decode_scalar : word 0x400145000000003F#64 = some (.addImm { stall := 0, d := 5, a := 5, sub := 0, imm := 63 })
    ∧ word 0x200102FC05046000#64 = some (.add { stall := 0, d := 4, a := 2, b := 63, c := 0, amod := 0x504, lw := 3, sub := 0 }) := by
  decide +kernel
theorem test_decode_box :
    word 0x6180000028004000#64 = some (.splitOp
      { stall := 0, d := 0, a := 0, mask := 0, axis := 1, mode := 1, lr := 0, rr := 0, join := 1, leaf := 0, sub := 0 })
    ∧ word 0x620000030007C000#64 = some (.splitf
      { stall := 0, d := 0, a := 0, mask := 3, axis := 0, mode := 0, lr := 0, rr := 0, join := 31, leaf := 0, sub := 0 }) := by decide +kernel
theorem test_decode_memory :
    word 0x81818B0096000000#64 = some (.sts
      { stall := 0, d := 6, a := 11, b := 0, sp := 0, ord := 2, sco := 1, sz := 3, sx := 0, hf := 0, hnd := 0, disp := 0 })
    ∧ word 0x94007F0140800000#64 = some (.tload
      { stall := 0, d := 1, a := 63, b := 0, sp := 1, ord := 1, sco := 0, sz := 0, sx := 0, hf := 1, hnd := 0, disp := 0 }) := by decide +kernel
theorem test_decode_parcel :
    word 0x9000000000218010#64 = some (.give
      { stall := 0, d := 0, a := 0, b := 0, c := 0, tag := 0x21, core := 8, sub := 0, hnd := 1, ic := 0 })
    ∧ word 0xB580040050440100#64 = some (.recvp
      { stall := 0, d := 0, a := 4, b := 0, c := 5, tag := 0x44, core := 0, sub := 1, hnd := 0, ic := 0 })
    ∧ word 0xB180080020000008#64 = some (.ctrwait
      { stall := 0, d := 0, a := 8, b := 0, c := 2, tag := 0, core := 0, sub := 0, hnd := 0, ic := 1 }) := by decide +kernel
theorem test_decode_engine : word 0xC000060000000000#64 = some (.xcopy
    { stall := 0, d := 0, a := 6, b := 0, c := 0, tag := 0, core := 0, sub := 0, hnd := 0, ic := 0 }) := by decide +kernel
theorem test_decode_vector :
    word 0xD19050441000A000#64 = some (.vfma
      { stall := 1, d := 1, a := 16, b := 17, c := 1, amod := 0, fmt := 10, fmt2 := 0, sub := 0, sat := 0 })
    ∧ word 0xDB8081000000A620#64 = some (.vcvt
      { stall := 0, d := 2, a := 1, b := 0, c := 0, amod := 0, fmt := 10, fmt2 := 6, sub := 1, sat := 0 }) := by decide +kernel
theorem test_decode_matrix :
    word 0xF100004E00000000#64 = some (.mma { stall := 0, d := 0, a := 0, ta := 2, tb := 3, acc := 1, imm8 := 0, sub := 0 })
    ∧ word 0xF200C0020A000000#64 = some (.accrd { stall := 0, d := 3, a := 0, ta := 0, tb := 0, acc := 1, imm8 := 5, sub := 0 })
    ∧ word 0xF381000002000000#64 = some (.sclwait { stall := 0, d := 4, a := 0, ta := 0, tb := 0, acc := 0, imm8 := 1, sub := 0 }) := by
  decide +kernel

/-! ## Terms that WellFormed refuses -/

theorem test_refused_field : (Instr.nop fS).wellFormed = true ∧ (Instr.sems { fE with hnd := 8 }).wellFormed = false := by decide +kernel
theorem test_refused_lane : (Instr.add { fS with lw := 5 }).wellFormed = false ∧ (Instr.ld { fM with sp := 3 }).wellFormed = false
    ∧ (Instr.vadd { fV with fmt := 13 }).wellFormed = false ∧ (Instr.tshape { fX with a := 40 }).wellFormed = false
    ∧ (Instr.pathOp { fK with sub := 3 }).wellFormed = false ∧ (Instr.give { fE with sub := 1 }).wellFormed = false
    ∧ (Instr.giveRes { fE with sub := 0 }).wellFormed = false ∧ (Instr.giveRel { fE with sub := 3 }).wellFormed = false := by decide +kernel
theorem test_refused_event : [Instr.detach 9, .groupBusy 9216, .copyOperation 1152, .compactOperation 1152, .fillOperation 1152, .passStart 2304,
    .passDeliver 2304, .taskStart 9216, .leafSteal 4, .taskOverrun 9, .parkTimeout 9 0, .admission 8 0, .regionTake 1024, .sliceEnd 1024,
    .quiescence 1024, .saveComplete 1024, .restore 1024 ⟨0, 0⟩, .boxReload 0 576, .boxRetire 1024 0, .replayStart 1024, .faultRingWrite 8 false,
    .setFree 0 8, .coalesceReply 576 0, .xinvCommand 8, .flitReplay 18, .wearUpdate 24 0 0, .thermalThrottle 24 0, .thermalTrip 24 0,
    .pointChangeDone 24, .linkDown 18, .linkActive 18, .semaphoreAcquire 32 true true, .semaphoreAcquire 0 false false, .partitionReady 8,
    .leafResetEnd 2304, .patrolScrub { (default : Scrub) with stack := 16 }, .peerPortExchange { (default : PeerInput) with part := 8 }].all (fun i => !i.wellFormed) = true := by decide +kernel

/-! ## Every statement's hypotheses are met: decoding, the step, scalar instructions -/

/-- The add of R220 placed at the pc of a core whose turn is next. -/
def placed : State := placeWord State.reset 0x200102FC05046000#64
theorem test_step_system : (nextTurn placed).1 = .issue 8 ∧ mayIssue (nextTurn placed).2 8 = true ∧ (taskOf placed).kind = .system
    ∧ (taskOf placed).mmxNext = none
    ∧ ((codeWord { (nextTurn placed).2 with cur := 8 } (taskOf placed).ctx.pc).toOption.map (·.2)) = some 0x200102FC05046000#64
    ∧ word 0x200102FC05046000#64 = some (.add { stall := 0, d := 4, a := 2, b := 63, c := 0, amod := 0x504, lw := 3, sub := 0 })
    ∧ (taskOf (after (step placed))).ctx.pc = 0x20008#64 := by decide +kernel
/-- A carried-code task at its second payload word. -/
def carrying : State :=
  { at_ 8 .handler [] with
    cores := [(8, { run := some { task 8 .carried with code := [0, 0x200102FC05046000#64], ctx := { pc := 8, budget := 1000 } } })]
    sched := { turns := [.issue 8] } }
theorem test_step_carried : (nextTurn carrying).1 = .issue 8 ∧ mayIssue (nextTurn carrying).2 8 = true ∧ (taskOf carrying).ctx.budget ≠ 0#32
    ∧ (taskOf carrying).mmxNext = none ∧ ((taskOf carrying).code.take 8)[(taskOf carrying).ctx.pc.toNat / 8]? = some 0x200102FC05046000#64
    ∧ (taskOf (after (step carrying))).ctx.pc = 16#64 := by decide +kernel
theorem test_encode_add : encode (.add { stall := 0, d := 4, a := 2, b := 63, c := 0, amod := 0x504, lw := 3, sub := 0 })
    = some 0x200102FC05046000#64 := by decide +kernel
theorem test_memory_step : Memory.wf placed.mem = true ∧ Memory.wf (after (step placed)).mem = true := by decide +kernel
theorem test_checks : view (.wpset fS) = some (0x020, .s fS) ∧ decodeCheck (task 8 .handler) .c 0x020 (.s fS) = some 1
    ∧ (getCore (at_ 8 .handler []) 8).run = some (taskOf (at_ 8 .handler [])) ∧ (Instr.unassignedOpcode { stall := 0, op := 0 }).wellFormed = true
    ∧ parkedCode (after (exec (.wpset fS) (at_ 8 .handler []))) 8 = some 1
    ∧ parkedCode (after (exec (.poolHeaderWord { params := 0, count := 4 }) (at_ 8 .handler []))) 8 = some 7 := by decide +kernel
theorem test_scalar_ready : aluRows.all (fun row => ready (row.reg fS) (at_ 8 .handler []) && ready (row.imm fI) (at_ 8 .handler [])) = true := by
  decide +kernel
theorem test_counts_ready : countRows.all (fun row => ready (row.1 fS) (at_ 8 .handler []) && ready (row.2.1 fI) (at_ 8 .handler []))
    ∧ [Instr.bfx fS, .bfi fS, .bfxImm fI, .bfiImm fI, .movi fI, .movhi fI].all (fun i => ready i (at_ 8 .handler [])) := by decide +kernel
/-- R239's signed quotient truncates toward zero, and the remainder keeps the dividend's sign. -/
theorem test_div : readS (after (exec (.divOp fS) (at_ 8 .handler [(2, -7), (3, 2)]))) 4 = -3
    ∧ readS (after (exec (.remOp fS) (at_ 8 .handler [(2, -7), (3, 2)]))) 4 = -1 := by decide +kernel
/-- The rearranged lanes of R240's neighbour, R76: lane i of the first source is lane AMOD[3i+2:3i]. -/
theorem test_add_wraps : readS (after (exec (.add { fS with amod := 0xFFF }) (at_ 8 .handler [(2, -1), (3, 2)]))) 4 = 1
    ∧ readS (after (exec (.addImm { fI with sub := 1, imm := 1 }) (at_ 8 .handler [(2, 0x00000001FFFFFFFF#64)]))) 4 = 0x0000000200000000#64 := by
  decide +kernel
theorem test_lit : ready (.lit { fI with imm := 1 }) (at_ 8 .handler []) = true ∧ ready (.lit { fI with imm := -1 }) carrying = true
    ∧ ok (codeWord (at_ 8 .handler []) ((ctxOf (at_ 8 .handler [])).pc + 8 * (1#32).signExtend 64)) = true
    ∧ scalarOf (after (exec (.lit { fI with imm := 0 }) carrying)) 4 = 0x200102FC05046000#64 := by decide +kernel
theorem test_nop : Plain (at_ 8 .handler []) ∧ (taskOf (at_ 8 .handler [])).kind ≠ .carried ∧ stPP (ctxOf (at_ 8 .handler [])).status = false
    ∧ stPP (ctxOf (after (exec (.fmt { fI with imm := 0x66A680 }) (at_ 8 .handler [])))).status = true := by
  refine ⟨⟨?_, ?_⟩, ?_⟩ <;> decide +kernel
theorem test_nop_prefixed : parkedCode (after (exec (.nop fS) (after (exec (.fmt { fI with imm := 0x66A680 }) (at_ 8 .handler []))))) 8 = some 6 := by
  decide +kernel

/-! ## Control -/

theorem test_branches_ready : [Instr.br fB, .jmp fB, .jmpr fB, .ret fB, .call fB].all (fun i => ready i (at_ 8 .handler [])) = true := by decide +kernel
/-- call writes pc + 24, and the target is 8 × OFFS from the call (R227); the first slot follows (R80). -/
theorem test_call : (ctxOf (after (exec (.call fB) (at_ 8 .handler [])))).btgt = 0x20028#64
    ∧ readS (after (exec (.call fB) (at_ 8 .handler []))) 3 = 0x20018#64 ∧ stDS (ctxOf (after (exec (.call fB) (at_ 8 .handler [])))).status = 1 := by
  decide +kernel
/-- The contexts of the clauses: no slot, first slot, second slot; at LE with counts 0, 1 and 2, and elsewhere. -/
theorem test_contexts : stDS (0 : Word) = 0 ∧ stDS (setDS 0 1 false) = 1 ∧ stDS (setDS 0 2 true) = 2 ∧ stTKN (setDS 0 2 true) = true
    ∧ stDS (setDS 0 2 false) = 2 ∧ stTKN (setDS 0 2 false) = false
    ∧ (advance { pc := 64, le := 64, ls := 8, lc := 2 } .seq).pc = 8 ∧ (advance { pc := 64, le := 64, ls := 8, lc := 1 } .seq).pc = 72
    ∧ (advance { pc := 64, le := 64, ls := 8, lc := 1, btgt := 400, status := setDS 0 2 true } .seq).pc = 400 := by decide +kernel
/-- rep 8, 2 of R254; and with a branch in the word at LE (the word of R254 at 0x20010). -/
theorem test_rep : readyOp 0x007 (.i { fI with sub := 1, imm := 0x8001 }) (at_ 8 .handler []) = true
    ∧ ((repCheck (at_ 8 .handler []) { fI with sub := 1, imm := 0x8001 }).toOption.map (·.2)) = some false
    ∧ ((repCheck { at_ 8 .system [] with mem := (memWriteWord paged 0x20010 0x01800000FFFFFFFD#64).mem } { fI with sub := 1, imm := 0x8001 }).toOption.map
        (·.2)) = some true
    ∧ (ctxOf (after (exec (.rep { fI with sub := 1, imm := 0x8001 }) (at_ 8 .handler [])))).le = 0x20010#64
    ∧ (ctxOf (after (exec (.rep { fI with sub := 1, imm := 0x8001 }) (at_ 8 .handler [])))).lc = 8#64 := by decide +kernel
theorem test_csr_ready : [Instr.fmt { fI with imm := 0x66A680 }, .csrr fI, .csrr { fI with imm := 10 }, .timeOp fS, .csrw fI, .csrw { fI with imm := 9 }].all
      (fun i => ready i (at_ 8 .handler [])) = true
    ∧ [Instr.csrr { fI with imm := 0x102 }, .csrr { fI with imm := 0x200 }, .csrr { fI with imm := 0x2FF }, .csrw { fI with imm := 0x100 },
        .csrw { fI with imm := 0x102 }, .csrw { fI with imm := 0x2FF }, .wpset fS].all (fun i => ready i (at_ 8 .system [])) = true
    ∧ classOf (idxOf 4) = .x ∧ classOf (idxOf 8) ≠ .x := by decide +kernel
/-- A csrw of STATUS clears the flags whose bits are one and sets RM (R67, R234). -/
theorem test_csrw_status :
    (ctxOf (after (exec (.csrw fI) { at_ 8 .handler [(2, 0x102#64)] with
      cores := [(8, { run := some { task 8 .handler with ctx := { pc := 0x20000, budget := 9, status := 0x3F0#64 } }, store := regs 8 [(2, 0x102#64)] })] }))).status
      = 0x2F2#64 := by decide +kernel

/-! ## Traps, ends, returns -/

theorem test_trap_ready : ready (.trapOp fI) (at_ 8 .handler []) = true ∧ ready (.brk fS) (at_ 8 .handler []) = true := by decide +kernel
/-- trap has completed: the kept PC is that of the next instruction, and the record's is its own (R91, R232). -/
theorem test_trap : ((getCore (after (exec (.trapOp { fI with imm := 7 }) (at_ 8 .handler []))) 8).parked.head?.map
    fun t => (t.ctx.pc, t.frec.pc, recCode t.frec, t.frec.aux0)) = some (0x20008#64, 0x20000#64, 9, 7#64) := by decide +kernel
theorem test_parks : let s := at_ 8 .handler []
    (taskOf s).slot = some 0 ∧ (launchAt s 0).map (·.state) = some .running ∧ (wbPark s).cur = 8 ∧ (taskOf (wbPark s)).slot = some 0
    ∧ (launchAt (wbPark s) 0).map (fun l => (l.state, faulth l)) = some (.running, 0x40#32)
    ∧ debugOn (wbPark s) (partOf (wbPark s) (cidOf s.cur)) = false := by decide +kernel
theorem test_end : ready (.endTask fS) (at_ 8 .handler []) = true ∧ ok (sendRelease (at_ 8 .handler [])) = true
    ∧ ready (.endTask fS) (at_ 8 .rule []) = true := by decide +kernel
/-- A core with a parked task of the same launch. -/
def parking (k : TaskKind) : State :=
  modCore (at_ 8 k [(2, 0x55#64), (3, 0x80#64)]) 8 fun x => { x with parked := [{ task 8 .handler with handle := 0x55, frame := 1, wp := frameBase 8 1 }] }
theorem test_resume : ready (.resume fS) (parking .fault) = true ∧ ready (.abandon fS) (parking .fault) = true
    ∧ (parkedNamed (parking .fault) 8 0x55).map (·.slot) = some (taskOf (parking .fault)).slot
    ∧ ready (.resume fS) (parking .system) = true ∧ (taskOf (parking .system)).kind = .system
    ∧ parkedNamed (at_ 8 .fault []) 8 0 = none ∧ ready (.resume fS) (at_ 8 .fault []) = true ∧ ready (.abandon fS) (at_ 8 .fault []) = true := by
  decide +kernel
/-- The set of the ending task's handle is released (R104). -/
theorem test_end_sets : ((endRelease (at_ 8 .handler [])).toOption.map fun s =>
      find (getCore s 8).holders 1 == some (Holder.task (taskOf s).handle) && bmV (bmapOf (getCore s 8) 1)
        && bmapOf (getCore (endRunning s) 8) 1 == 0 && (getSet (getCl (endRunning s) 0) 1).use == .clearing 1024) = some true := by decide +kernel
/-- A task that a breakpoint of the debug ring parked is no task to resume (R370). -/
def debugged : State := modCore (parking .handler) 8 fun x => { x with parked := x.parked.map fun p => { p with debug := true } }
theorem test_resume_debug : ready (.resume fS) debugged = true ∧ ready (.abandon fS) debugged = true ∧ (parkedNamed debugged 8 0x55).map (·.debug) = some true
    ∧ (getCore (after (exec (.resume fS) debugged)) 8).parked.map (fun t => recCode t.frec) = [0, 0xC] := by decide +kernel

/-! ## Privileged instructions -/

theorem test_wpset : ready (.wpset fS) (at_ 8 .system [(2, 0x7C00#64)]) = true ∧ frameBase 8 7 = 0x7C00 ∧ frameBase 8 0 ≠ 1
    ∧ (taskOf (after (exec (.wpset fS) (at_ 8 .system [(2, 0x7C00#64)])))).wp = 0x7C00 := by decide +kernel
theorem test_eret : ready (.eret fS) (parking .system) = true ∧ (taskOf (parking .system)).slot = none
    ∧ (readS (parking .system) 2).extractLsb' 0 32 ≠ 0xFFFFFFFF#32 ∧ (parkedNamed (parking .system) 8 0x55).isSome = true
    ∧ ok (sendRelease (resumeParked (parking .system) 8 0x55)) = true
    ∧ ready (.eret fS) (at_ 8 .system [(2, 0xFFFFFFFF#64)]) = true ∧ ok (sendRelease (at_ 8 .system [(2, 0xFFFFFFFF#64)])) = true
    ∧ ready (.eret fS) (at_ 8 .system []) = true ∧ parkedNamed (at_ 8 .system []) 8 0 = none ∧ ready (.halt fS) (at_ 8 .system []) = true := by
  decide +kernel
/-- Handle 15 of A-core 3 given set 7, the reserved core index 4, and handle 1 of the cluster core, which holds set 1. -/
theorem test_bmapw : ready (.bmapw fS) (at_ 8 .system [(2, 0x3F#64), (3, 0x80000007#64)]) = true
    ∧ bmV (bmapOf (getCore (at_ 8 .system []) 3) 15) = false ∧ (getSet (getCl (at_ 8 .system []) 0) 7).use = .free
    ∧ ready (.bmapw fS) (at_ 8 .system [(2, 0x40#64)]) = true ∧ ready (.bmapw fS) (at_ 8 .system [(2, 0x81#64), (3, 0x80000007#64)]) = true
    ∧ bmV (bmapOf (getCore (at_ 8 .system []) 8) 1) = true ∧ (getCore (after (exec (.bmapw fS) (at_ 8 .system [(2, 0x40#64)]))) 8).halted = true := by
  decide +kernel
/-- A tag entry written with EN one is as given but for PEND; with EN zero as given (R153, R330). -/
theorem test_csrw_tag : tagOf (getCore (after (exec (.csrw { fI with imm := 0x210 }) (at_ 8 .system [(2, 0xF123456789ABCDEF#64)]))) 8) 0x10 = 0xB101456789ABCDE8#64
    ∧ tagOf (getCore (after (exec (.csrw { fI with imm := 0x210 }) (at_ 8 .system [(2, 0x7123456789ABCDEF#64)]))) 8) 0x10 = 0x7101456789ABCDE8#64 := by
  decide +kernel
/-- bmapw of the set attached to handle 1 of the cluster core, for handle 15 of A-core 3, with an operation that names the set or none. -/
def moving (busy : Bool) : State :=
  modCl (at_ 8 .system [(2, 0x3F#64), (3, 0x80000001#64)]) 0 fun x =>
    { x with eng0 := if busy then [{ (default : EngOp) with core := 8, handle := 0, sets := [(1, 1)] }] else [] }
theorem test_bmapw_moves : setBusy (moving true) 0 1 = true ∧ setBusy (moving false) 0 1 = false ∧ ready (.bmapw fS) (moving true) = true
    ∧ (getSet (getCl (moving true) 0) 1).use = .attached 8 1 ∧ bmV (bmapOf (getCore (moving true) 3) 15) = false
    ∧ bmapOf (getCore (after (exec (.bmapw fS) (moving false))) 3) 15 = 0x8C000001#32
    ∧ (getCore (after (exec (.bmapw fS) (moving false))) 3).holders = [(15, .task (mkHandle 8 0 1))] := by decide +kernel
theorem test_bmapw_busy : [SetUse.reserved 0 5, .clearing 9, .draining].all (fun u =>
      let s := setUse (at_ 8 .system [(2, 0x3F#64), (3, 0x80000007#64)]) 0 7 u
      ready (.bmapw fS) s && (getSet (getCl s 0) 7).use == u && (getCore (after (exec (.bmapw fS) s)) 8).halted) = true := by decide +kernel
theorem test_records : ready (.ctxsave fS) (parking .system) = true ∧ (parkedIn (parking .system) 0 0x55).map (·.1) = some 8
    ∧ ready (.ctxload fS) (parking .system) = true ∧ ready (.unfsave fS) (parking .system) = true ∧ ready (.unfload fS) (parking .system) = true
    ∧ spurStopped (parking .system) 0x55 = false := by decide +kernel
theorem test_ctxsave_put : ok (recPut (parking .system) 0x80 (taskBytes (parking .system) 8 ((parkedNamed (parking .system) 8 0x55).getD {}))) = true := by
  decide +kernel
theorem test_ctxload_get : let s := atOnce (at_ 8 .system [(2, 0x100000#64)])
    ok (recGet s 0x100000 256) = true ∧ ok (recGet s 0x100000 (256 + frameSize 0)) = true ∧ frameBusy s (recCore 0 (zeros 256)) 0 = false := by
  decide +kernel
/-- Cluster 0's spur engine stopped for slot 0, with nothing held. -/
def stopped : State := modCl (at_ 8 .system [(2, 0#64), (3, 0x100000#64), (5, 1#64)]) 0 fun x => { x with stopped := [0] }
theorem test_unf : ready (.unfsave fS) stopped = true ∧ ready (.unfload fS) stopped = true ∧ spurStopped stopped 0 = true
    ∧ (launchAt stopped 0).map (fun l => (heldBoxes l 0).length) = some 0 ∧ ok (recPut stopped 0x100000 []) = true
    ∧ ok (recGet (atOnce stopped) 0x100000 384) = true := by decide +kernel

/-! ## Boxes and verdicts -/

/-- A box of one axis with the extent given. -/
def box0 (ext : BitVec 32) : Box := { (default : Box) with axes := [⟨0, ext⟩], name := 0, tile := 4 }
/-- A rule task on the root box; GRAIN of axis 0 and the bytes that leaf 0 needs are given. -/
def ruling (ext : BitVec 32) (grain bytes : Word) (l : List (Nat × Word)) : State :=
  let s := modTask (at_ 8 .rule l) fun t => { t with box := some (box0 ext) }
  modLaunch s 0 fun x => { x with
    hdr := (x.hdr.set 10 grain).set 16 0xFF#64
    leaves := [[0, bytes]]
    boxes := [(0, { box := box0 ext, phase := .ruling, cid := 0, seqno := 0 })] }
theorem test_box_reads : let s := ruling 8 1 0 [(2, 1#64)]
    [Instr.boxr fK, .boxr { fK with axis := 1 }, .pathOp fK, .fitq fK, .fitq { fK with leaf := 1 }, .ruleq fK].all (fun i => ready i s) = true
    ∧ (myLaunch s).map (fun x => (naxes x.2, nleaves x.2, nrules x.2)) = some (1, 1, 2)
    ∧ ready (.ruleq fK) (ruling 8 1 0 [(2, 2#64)]) = true ∧ (readS (ruling 8 1 0 [(2, 2#64)]) 2).toNat = 2
    ∧ readS (after (exec (.boxr { fK with sub := 1 }) s)) 4 = 8 ∧ readS (after (exec (.ruleq fK) (ruling 8 1 0 []))) 4 = 0xFF := by decide +kernel
/-- boxn in a task that is no rule task; of an extent above, equal to and below the box's. -/
theorem test_boxn : ready (.boxn fK) (at_ 8 .handler []) = true
    ∧ [9#64, 8#64, 7#64].all (fun v => ready (.boxn fK) (ruling 8 1 0 [(2, v)])) = true
    ∧ (axisOf (myBox (after (exec (.boxn fK) (ruling 8 1 0 [(2, 7#64)])))) 0).ext = 7
    ∧ parkedCode (after (exec (.boxn fK) (ruling 8 1 0 [(2, 9#64)]))) 8 = some 0xB := by decide +kernel
theorem test_verdicts : let s := ruling 8 1 0 []
    (taskOf s).kind = .rule ∧ (taskOf s).slot = some 0 ∧ ((launchAt s 0).map fun l => busyIds s 0 l [(taskOf s).det.id]) = some false
    ∧ ok (sendRelease s) = true ∧ [Instr.prune fK, .leafOp fK, .splitOp fK, .splitf fK].all (fun i => ready i s) = true
    ∧ ((launchAt s 0).map fun l => (setsNeeded l 0 (box0 8), grainOf l 0, modeOfRole (roleOf l 0), 1 &&& (255 - ruleFmask l 0))) = some (0, 1, 0, 0)
    ∧ boxEmpty (box0 8) = false ∧ depthOf (box0 8).name ≠ 58 ∧ (freeSets (getCl s 0)).length = 7 := by decide +kernel
/-- At grain, and where the leaf's sets are not free. -/
theorem test_verdicts_edges : ready (.splitOp fK) (ruling 8 8 0 []) = true ∧ ready (.splitf fK) (ruling 8 1 (BitVec.ofNat 64 (8 * setBytes)) []) = true
    ∧ ((launchAt (ruling 8 8 0 []) 0).map fun l => (grainOf l 0, setsNeeded l (ruleDleaf l 0) (box0 8))) = some (8, 0)
    ∧ ((launchAt (ruling 8 1 (BitVec.ofNat 64 (8 * setBytes)) []) 0).map fun l => (setsNeeded l 0 (box0 8), widest l (box0 8) 1)) = some (8, some 0)
    ∧ ok (sendRelease (ruling 8 8 0 [])) = true := by decide +kernel
theorem test_prune : ((launchAt (after (exec (.prune fK) (ruling 8 1 0 []))) 0).bind fun l => (getBox l 0).map fun b => (b.phase == .ending, b.outcome))
    = some (true, 1) := by decide +kernel
theorem test_no_rule_task : [Instr.splitOp fK, .splitf fK, .prune fK, .leafOp fK].all (fun i => ready i (at_ 8 .handler [])) = true
    ∧ ((launchAt (ruling 8 1 0 []) 0).bind fun l => (getBox l 0).map fun b => b.box.name) = some 0 := by decide +kernel
/-- An empty box is pruned, whatever the verdict (R39); a leaf that never fits has no way out (R35, R251); one at grain is refused. -/
def emptyBox : State := ruling 0 1 0 []
theorem test_verdicts_empty : boxEmpty (myBox emptyBox) = true ∧ [Instr.leafOp fK, .splitOp fK, .splitf fK].all (fun i => ready i emptyBox
      && (((launchAt (after (exec i emptyBox)) 0).bind fun l => (getBox l 0).map fun b => (b.phase, b.outcome)) == some (.ending, 4))) = true := by decide +kernel
def wide (n : Nat) : State := ruling 8 8 (BitVec.ofNat 64 (n * setBytes)) []
theorem test_splitf_refused : ready (.splitf fK) (wide 9) = true ∧ ready (.splitf fK) (wide 8) = true
    ∧ (launchAt (wide 9) 0).map (fun l => (setsNeeded l 0 (myBox (wide 9)), widest l (myBox (wide 9)) 1, ruleDleaf l 0)) = some (9, none, 0)
    ∧ (launchAt (wide 8) 0).map (fun l => (setsNeeded l 0 (myBox (wide 8)), widest l (myBox (wide 8)) 1)) = some (8, none)
    ∧ parkedCode (after (exec (.splitf fK) (wide 9))) 8 = some 0xB
    ∧ ((launchAt (after (exec (.splitf fK) (wide 8))) 0).bind fun l => (getBox l 0).map fun b => (b.phase, b.outcome, b.box.refused)) = some (.leafWait, 3, true) := by
  decide +kernel
/-- A leaf of one set takes the lowest free one; a cut of eight makes four and four (R34, R38, R103). -/
def verdictOf (f : State → State) : Option Launch := launchAt (f (wide 1)) 0
theorem test_leaf_reserved : (launchAt (wide 1) 0).map (fun l => (setsNeeded l 0 (box0 8), (boxesAt l 0).all (fun b => b.phase != .leafWait))) = some (1, true)
    ∧ engineOpen (wide 1) 0 0 = true ∧ (freeSets (getCl (wide 1) 0)).take 1 = [0]
    ∧ ((verdictOf fun s => leafBox s 0 0 0 false false 7 []).bind fun l => (getBox l 0).map fun b => (b.phase, b.sets, b.verdictBy)) = some (.leafReserved, [0], 7)
    ∧ (launchAt (wide 1) 0).map (fun l => (l.boxes.map fun e => (e.1, e.2.box.name.toNat))) = some [(0, 0)] := by decide +kernel
theorem test_cut : ((launchAt (wide 1) 0).map fun l => [false, true].map fun r => childBox l (box0 16) 0 2 1 4 r).map (fun cs =>
      cs.map fun c => (c.name.toNat, c.axes.map (fun a => (a.org, a.ext)), c.rule, c.modes))
    = some [(0x0400000000000000, [(0, 8)], 1, 2), (0x0600000000000000, [(8, 8)], 1, 2)]
    ∧ depthOf (0 : Word) = 0 ∧ pathOf (0 : Word) = 0 ∧ (launchAt (wide 1) 0).map (fun l => decide ((boxesAt l 0).length ≤ 510)) = some true
    ∧ (launchAt (wide 1) 0).map (fun l => grainOf l 0) = some 8 := by decide +kernel

/-! ## Memory -/

/-- Addresses in s2: a core-store offset, a scratchpad address of handle 1, a device address. -/
def coreAt : State := at_ 0 .handler [(2, 0x100#64), (3, 0x200#64), (4, 0x300#64)]
def spAt : State := at_ 0 .handler [(2, 0x10000100#64), (4, 0xABCD#64)]
def devAt : State := at_ 0 .handler [(2, 0x100100#64), (3, 0x200#64), (4, 0x300#64), (5, 7#64)]
/-- A core that holds a line with its permissions. -/
def held : L1Line := { line := 0x2002, pa := 0x100100, data := 0, dirty := 0, wr := true, rd := true, stamps := [], hc := false }
def cached : State := modCore devAt 0 fun k => { k with l1 := [held] }
def mCore : FmtM := { fM with sp := 2 }
def mSp : FmtM := { fM with sp := 1 }
theorem test_loads : ready (.ld mCore) coreAt = true ∧ (effAddr coreAt mCore).2 = .core ∧ ok (coreCheck coreAt (effAddr coreAt mCore).1 8 8) = true
    ∧ ready (.ld mSp) spAt = true ∧ (effAddr spAt mSp).2 = .sp ∧ ok (spCheck spAt (effAddr spAt mSp).1 8 8 false) = true
    ∧ ready (.ld fM) cached = true ∧ (effAddr cached fM).2 = .dev ∧ (effAddr cached fM).1 = 0x100100#64
    ∧ ok (devRead cached 0x100100 8) = true := by decide +kernel
theorem test_stores : ready (.st mCore) coreAt = true ∧ ready (.st mSp) spAt = true ∧ ok (spCheck spAt (effAddr spAt mSp).1 8 8 true) = true
    ∧ ready (.st fM) devAt = true ∧ ok (devWrite devAt 0x100100 (bytesOf 8 (readS devAt 4))) = true := by decide +kernel
/-- A byte stored at the last byte of the general store, and sign-extended back (R258). -/
theorem test_store_byte : let m : FmtM := { mCore with sz := 0, sx := 1 }
    scalarOf (after (exec (.ld { m with d := 5 }) (after (exec (.st m) (at_ 0 .handler [(2, 0x5FFF#64), (4, 0x80#64)]))))) 5
      = 0xFFFFFFFFFFFFFF80#64 := by decide +kernel
theorem test_l1 : (l1Line cached 0x100100).map (fun l => (l.rd, l.wr)) = some (true, true) ∧ 0x100100 % 128 + (zeros 8).length ≤ 128 := by
  decide +kernel
theorem test_access_checks : 0x7FF9 + 8 > storeSize 0 ∧ (2 ^ 16 ≤ (0x10000#64).toNat) ∧ frameBase 0 1 ≠ (taskOf coreAt).wp
    ∧ ((0x63F9#64).toNat < frameBase 0 1 + 256 ∧ frameBase 0 1 < (0x63F9#64).toNat + 8) ∧ (0x5FF8#64).toNat + 8 ≤ generalTop 0
    ∧ ready (.ld { fM with disp := 4 }) devAt = true ∧ ready (.st { fM with disp := 4 }) devAt = true ∧ ready (.lds { fM with disp := 4 }) devAt = true
    ∧ ready (.sts { fM with disp := 4 }) devAt = true ∧ (devAddr devAt { fM with disp := 4 }).toNat % 8 = 4 := by decide +kernel
theorem test_access_page : let s := at_ 0 .handler [(2, 0x2000000000000#64)]
    [Instr.ld fM, .st fM, .lds fM, .sts fM].all (fun i => ready i s && parkedCode (after (exec i s)) 0 == some 0x20) = true
    ∧ (effAddr s fM).2 = .dev ∧ 2 ^ 49 ≤ (effAddr s fM).1.toNat ∧ 2 ^ 49 ≤ (devAddr s fM).toNat := by decide +kernel
/-- Bytes that a resumed task holds back lie over the line that its L1 holds anew (R184). -/
theorem test_held_over : let s := modTask cached fun t => { t with held := [{ line := 0x2002, data := 0xFF00#1024, mask := 2, stamp := 0 }] }
    byteAt (heldOver s held) 1 = 0xFF#8 ∧ byteAt (heldOver s held) 0 = 0 ∧ byteAt (heldOver s { held with dirty := 3 }) 1 = 0 := by decide +kernel
/-- A tile whose load queue 0 is full, and whose store queue 0 holds one line. -/
def queues : State := setTile (at_ 0 .handler [(2, 0x10000100#64)]) 0 { lq := [(0, List.replicate 8 0)], sq := [(0, [5])] }
def mLq : FmtM := { mSp with d := 16, sz := 5 }
def mSq : FmtM := { mSp with d := 20, sz := 5 }
theorem test_queues : ready (.ldq mLq) spAt = true ∧ ok (spaceRead spAt (effAddr spAt mLq).1 (effAddr spAt mLq).2 128) = true
    ∧ (look [] (getTile spAt 0).lq 0).length < 8 ∧ ready (.ldq mLq) queues = true
    ∧ ok (spaceRead queues (effAddr queues mLq).1 (effAddr queues mLq).2 128) = true ∧ 8 ≤ (look [] (getTile queues 0).lq 0).length
    ∧ ready (.stq mSq) queues = true ∧ ok (stqCheck queues (effAddr queues mSq).1 (effAddr queues mSq).2) = true
    ∧ look [] (getTile queues 0).sq 0 = [5] ∧ ok (spaceWrite queues (effAddr queues mSq).1 (effAddr queues mSq).2 (bytesOf 128 (5 : Line))) = true
    ∧ ready (.stq mSq) spAt = true ∧ ok (stqCheck spAt (effAddr spAt mSq).1 (effAddr spAt mSq).2) = true ∧ look [] (getTile spAt 0).sq 0 = [] := by
  decide +kernel
theorem test_gather : ready (.gather mSp) (at_ 0 .handler [(2, 0x10000100#64), (3, 0x200#64), (4, 0x300#64)]) = true
    ∧ ready (.scatter mSp) (at_ 0 .handler [(2, 0x10000100#64), (3, 0x200#64), (4, 0x300#64)]) = true
    ∧ ((gatherList (at_ 0 .handler [(2, 0x10000100#64), (3, 0x200#64), (4, 0x300#64)]) mSp 16).toOption) = some (0x300, List.replicate 16 0)
    ∧ ok (spaceRead (at_ 0 .handler [(2, 0x10000100#64)]) 0x10000100#64 .sp 8) = true := by decide +kernel
/-- gather puts the elements its list names into the block in order (R260). -/
theorem test_gather_effect :
    let s := modCore (at_ 0 .handler [(2, 0x400#64), (3, 0x200#64), (4, 0x300#64)]) 0 fun k =>
      { k with store := [(0x40, 0x0000000200000001#64), (0x80, 0x2222222211111111#64), (0x81, 0x33333333#64)] ++ k.store }
    storeByte (getCore (after (exec (.gather { mCore with sz := 2 }) s)) 0) 0x304 = 0x33#8 := by decide +kernel
theorem test_cache_control : [Instr.pref fM, .flush fM, .inval fM, .fence fM, .fence { fM with sz := 0 }, .fence { fM with sz := 1 }, .fence { fM with sz := 2 }].all
      (fun i => ready i cached) = true ∧ (devAddr cached fM).toNat < 2 ^ 49 ∧ cached.posted = [] ∧ ok (flushOne cached (devAddr cached fM)) = true
    ∧ ready (.pref fM) (at_ 0 .handler [(2, 0x2000000000000#64)]) = true ∧ 2 ^ 49 ≤ (devAddr (at_ 0 .handler [(2, 0x2000000000000#64)]) fM).toNat
    ∧ ok (acquire cached .dev) = true ∧ ok (release cached .dev) = true ∧ ok (acquireFrom cached (takeRel [] (slotOr cached) 0 .dev)) = true := by
  decide +kernel
theorem test_strong : ready (.lds fM) devAt = true ∧ ready (.sts fM) devAt = true ∧ ready (.sts { fM with ord := 2, sco := 1 }) devAt = true
    ∧ ordRel { fM with ord := 2, sco := 1 } = some .dev ∧ (taskOf devAt).det.arm = none
    ∧ ok (do let s ← ownLine (ownPosted devAt 0x2002) 0x2002; let r ← strongAt s 0x100100 8 .read 0; observe r.1 [] (ordAcq fM)) = true
    ∧ ok (do let s ← ownLine (ownPosted devAt 0x2002) 0x2002; strongAt s 0x100100 8 .write 0) = true
    ∧ ok (do let s ← ownLine (ownPosted devAt 0x2002) 0x2002; let s ← release s .dev; strongAt s 0x100100 8 .write 0) = true := by decide +kernel
/-- A strong store is seen by the next strong load (R187, R259). -/
theorem test_strong_value : scalarOf (after (exec (.lds { fM with d := 6 }) (after (exec (.sts fM) devAt)))) 6 = 0x300#64 := by decide +kernel
theorem test_atomics : atomics.all (fun r => ready (r.1 fM) devAt && ready (r.1 { fM with d := 63 }) devAt) = true
    ∧ (getCore devAt 0).wait = none ∧ ordAcq { fM with d := 63 } = none ∧ ordRel fM = none
    ∧ ok (do let (s, x) ← xlate devAt 0 (homeOf devAt 0 0x2002) 0x100100 .atomic 3; let s ← ownLine (ownPosted s 0x2002) 0x2002
             let s ← ownRelease s (ordRel fM); let s ← acqReady s (ordAcq fM)
             if isInval s 0 fM x then raise s 0 else atomicNow s 0 fM 0x100100 8 (taskOf s).det (carried (taskOf s).det (ordRel fM))) = true
    ∧ ready (.aaddn fE) devAt = true
    ∧ ok (do let (s, _) ← xlate devAt 0 (homeOf devAt 0 0x2002) 0x100100 .atomic 3; let u ← ownLine (ownPosted s 0x2002) 0x2002; release u .dev) = true := by
  decide +kernel
/-- An atomic minimum is signed, and returns the old value (R264). -/
theorem test_amin : atomicNew 1 32 0x80000000 1 0 = 0x80000000 ∧ atomicNew 2 32 0x80000000 1 0 = 1
    ∧ (let t := after (exec (.aadd fM) (after (exec (.sts fM) devAt)))
       scalarOf t 4 = 0x300#64 ∧ scalarOf (after (exec (.lds { fM with d := 7 }) t)) 7 = 0x500#64) := by decide +kernel
/-- Two posted atomics on two lines. -/
def posting : State := after (exec (.aadd { fM with d := 63, disp := 128 }) (after (exec (.aadd { fM with d := 63 }) devAt)))
theorem test_posted : (posting.posted.map (·.addr)) = [0x100100, 0x100180]
    ∧ (posting.posted.take 1).all (fun e => e.addr / 128 != 0x100180 / 128) = true ∧ windowOpen posting 0 0x2003 = false := by decide +kernel
theorem test_fences : ok (acqFits (ownAll cached) (taskOf (ownAll cached)).det.seen (some .dev)) = true ∧ fenceScope (ownAll cached) .dev = .dev
    ∧ ok (release (ownAll cached) .dev) = true ∧ ok (wbAll (armFence (bumpEpoch cached) .dev)) = true
    ∧ isOwn posting (posting.posted.headD { (default : Posted) with core := 99 }) = true ∧ ready (.fence { fM with sz := 3 }) posting = true := by decide +kernel

/-! ## The memory instructions complete -/

theorem test_quiet : Quiet devAt ∧ Quiet (at_ 0 .handler []) := by
  refine ⟨⟨?_, ?_, ?_, ?_⟩, ⟨?_, ?_, ?_, ?_⟩⟩ <;> decide +kernel
theorem test_strong_premises : (devAddr devAt fM).toNat = 0x100100 ∧ 0x100100 < 2 ^ 49
    ∧ (translate devAt (myPart devAt) (homeAt devAt 0x100100) 0x100100 .read).2.isOk = true
    ∧ (translate devAt (myPart devAt) (homeAt devAt 0x100100) 0x100100 .write).2.isOk = true
    ∧ (detectMine devAt (taskOf devAt).det.epoch (0x100100 / 128) (maskRange (0x100100 % 128) 8) false true).isOk = true
    ∧ (detectMine devAt (taskOf devAt).det.epoch (0x100100 / 128) (maskRange (0x100100 % 128) 8) true true).isOk = true
    ∧ (taskOf devAt).det.acq.length + (relOf devAt (myPart devAt) (0x100100 / 128)).length ≤ 31
    ∧ (getSl devAt (homeAt devAt 0x100100)).windows = [] ∧ relScope (taskOf devAt).det (ordRel { fM with ord := 2, sco := 2 }) = some .sys
    ∧ devAt.slices = [] := by decide +kernel
/-- The line kept at its home slice by a strong store; flush and inval find it clean in an L1 that does not hold it. -/
theorem test_kept : let s := after (exec (.sts fM) devAt)
    (keptAt s 0x100100).map (fun d => byteAt d.data 1) = some 3#8 ∧ ready (.lds fM) s = true
    ∧ [Instr.flush fM, .inval fM, .pref fM, .fence fM].all (fun i => (ctxOf (after (exec i devAt))).pc == 0x20008#64) = true := by decide +kernel
/-- Two neighbouring lines held in the L1; a ldq of 128 bytes that lie in both, and a stq of a whole line (R113, R261). -/
def twoLines (l : List (Nat × Word)) : State :=
  modCore (at_ 0 .handler l) 0 fun k => { k with l1 := [{ held with data := 5#1024 <<< 128 }, { held with line := 0x2003, pa := 0x100180 }] }
theorem test_ldq_lines : let s := twoLines [(2, 0x100110#64)]
    (List.range 128).all (fun j => (spaceByte s 0x100110#64 .dev 128 j).isSome) = true
    ∧ look [] (getTile (after (exec (.ldq { fM with d := 16, sz := 5 }) s)) 0).lq 0 = [5]
    ∧ (spaceByte spAt (effAddr spAt mLq).1 .sp 128 7).isSome = true ∧ (spaceByte coreAt 0x100#64 .core 128 7).isSome = true := by decide +kernel
theorem test_stq_line : let s := setTile (twoLines [(2, 0x100100#64)]) 0 { sq := [(0, [77])] }
    ready (.stq { fM with d := 20, sz := 5 }) s = true ∧ (translate s (myPart s) (homeAt s 0x100100) 0x100100 .write).2.isOk = true
    ∧ (l1Line s 0x100100).map (·.wr) = some true
    ∧ (l1Line (after (exec (.stq { fM with d := 20, sz := 5 }) s)) 0x100100).map (·.data) = some 77 := by decide +kernel
/-- The sixteen elements of 8 bytes that a list of zeros names, in a set and in a line of the L1. -/
theorem test_gather_lines : let s := twoLines [(2, 0x100100#64), (3, 0x200#64), (4, 0x300#64)]
    ready (.gather fM) s = true ∧ ready (.scatter fM) s = true ∧ (effAddr s fM).2 = .dev ∧ (gatherList s fM 16).toOption = some (0x300, List.replicate 16 0)
    ∧ (List.range 16).all (fun i => (elemAddr s fM (List.replicate 16 0) i).toNat == 0x100100 && (spaceByte s (elemAddr s fM (List.replicate 16 0) i) .dev 8 7).isSome) = true
    ∧ (ctxOf (after (exec (.gather fM) s))).pc = 0x20008#64 ∧ (ctxOf (after (exec (.scatter fM) s))).pc = 0x20008#64 := by decide +kernel
/-- A dirty line whose page is writable, with one stamp, and kept at its home slice. -/
def dirtied : State :=
  modCore (after (exec (.sts fM) devAt)) 0 fun k => { k with l1 := [{ held with data := 9, dirty := 1, stamps := [(1, 0)] }] }
theorem test_flush_dirty : (l1Line dirtied 0x100100).map (fun l => (l.dirty, l.stamps, l.hc)) = some (1, [(1, 0)], false)
    ∧ (taskOf dirtied).held = [] ∧ windowOpen dirtied (myPart dirtied) 0x2002 = false ∧ (detectMine dirtied 0 0x2002 1 true false).isOk = true
    ∧ (partWord dirtied (myPart dirtied) 6).toNat / 128 ≠ held.pa / 128 ∧ (keptAt dirtied 0x100100).isSome = true
    ∧ (keptAt (after (exec (.flush fM) dirtied)) 0x100100).map (fun d => (byteAt d.data 0, d.dirty)) = some (9#8, 0xFF#128) := by decide +kernel

/-! ## Sets, tiles, semaphores, counters -/

theorem test_give : ready (.give { fE with core := 3 }) (at_ 8 .handler []) = true
    ∧ (giveHandle (at_ 8 .handler []) fE).toOption = some (1, bmEntry false 0 1) ∧ ready (.giveRes { fE with sub := 1 }) (at_ 8 .handler []) = true
    ∧ ready (.giveRel { fE with sub := 2 }) (at_ 8 .handler []) = true ∧ bmV (bmapOf (getCore (at_ 8 .handler []) 8) 2) = false
    ∧ ready (.give { fE with hnd := 2 }) (at_ 8 .handler []) = true ∧ ready (.bmapr fS) (at_ 8 .handler []) = true := by decide +kernel
/-- A give of handle 1 to A-core 3 waits for its drain. -/
def givingTo (target : BitVec 4) : State := after (exec (.give { fE with core := target }) (at_ 8 .handler []))
theorem test_detach : (match (getCore (givingTo 3) 8).wait with
      | some (.giving h e t _ _ _) => some (h, bmSet e, t)
      | _ => none) = some (1, 1, 3)
    ∧ drainBusy (givingTo 3) 8 1 = false ∧ freeHandle (getCore (detachCore (givingTo 3) 8 1) 3) = some 0
    ∧ bmapOf (getCore (after (exec (.detach 8) (givingTo 3))) 3) 0 = bmEntry false 1 1
    ∧ (match (getCore (givingTo 4) 8).wait with
      | some (.giving _ _ t _ _ _) => some t
      | _ => none) = some 4 := by decide +kernel
/-- An engine operation of the task on the set holds the give. -/
def givingBusy : State := modCl (givingTo 3) 0 fun x =>
  { x with eng0 := [{ (default : EngOp) with core := 8, handle := mkHandle 8 0 1, sets := [(1, 1)] }] }
theorem test_detach_waits : drainBusy givingBusy 8 1 = true ∧ (getCore givingBusy 8).wait = (getCore (givingTo 3) 8).wait := by decide +kernel
/-- A lower core's give to the same target goes first, and so does a leaf that starts there in the cycle (R103, R110). -/
def contended : State := modCore (givingTo 3) 1 fun k => { k with wait := (getCore (givingTo 3) 8).wait, bmap := [(1, bmEntry false 0 2)] }
def leafDue : State := modCore (givingTo 3) 3 fun k => { k with runq := [{ (default : QTask) with kind := .leafA, slot := some 0, cls := 1, box := some (box0 8) }] }
theorem test_give_order : giveTurn (givingTo 3) 8 3 = true ∧ leafFirst (givingTo 3) 3 = false ∧ giveTurn contended 8 3 = false ∧ drainBusy contended 1 1 = false
    ∧ after (exec (.detach 8) contended) = contended ∧ leafFirst leafDue 3 = true ∧ (after (exec (.detach 8) (givingTo 3))).net = []
    ∧ (getCore (after (exec (.detach 8) (givingTo 3))) 3).inbox.length = 1 := by decide +kernel
def tl : FmtM := { fM with d := 1, a := 63, sp := 1, ord := 1, hf := 1, hnd := 1, sz := 0 }
/-- A tile whose t1 has two rows of eight FP8 elements. -/
def tiled (c : Nat) (l : List (Nat × Word)) : State := setTile (at_ c .leafA l) 0 { shapes := [(1, 0x00080201#32)] }
theorem test_tile_transfers : [Instr.tload tl, .tstore tl, .tstoreCol { tl with b := 1 }].all (fun i => ready i (tiled 0 [])) = true
    ∧ resetWait (getTile (tiled 0 []) 0) = false
    ∧ ok (tilePlaces (tiled 0 []) tl (shRows (shapeOf (getTile (tiled 0 []) 0) 1)) (rowBytes (getTile (tiled 0 []) 0) 1) true) = true
    ∧ ok (tilePlaces (tiled 0 []) tl (shRows (shapeOf (getTile (tiled 0 []) 0) 1)) (rowBytes (getTile (tiled 0 []) 0) 1) false) = true
    ∧ ok (tilePlaces (tiled 0 []) tl (shCols (shapeOf (getTile (tiled 0 []) 0) 1)) 2 true) = true := by decide +kernel
/-- They wait for a leaf reset (R116, R269). -/
def tiledDue : State := setTile (at_ 0 .leafA []) 0 { shapes := [(1, 0x00080201#32)], resetDue := true }
theorem test_tile_transfers_wait : [Instr.tload tl, .tstore tl, .tstoreCol { tl with b := 1 }].all (fun i =>
    ready i tiledDue && after (exec i tiledDue) == tiledDue) = true ∧ resetWait (getTile tiledDue 0) = true := by decide +kernel
/-- A tile in a leaf reset, and one whose reset ends now. -/
def resetting : State := setTile (at_ 4 .leafX []) 0 { resetEnd := some 0 }
theorem test_tile_shape : ready (.tshape fX) (at_ 4 .leafX [(2, 0x00406001#64)]) = true ∧ ready (.tshape fX) (at_ 4 .leafX []) = true
    ∧ ready (.tzero fX) (at_ 4 .leafX []) = true ∧ (getTile resetting 0).resetEnd = some 0 ∧ 0 ≤ cycOfCl resetting 0
    ∧ resetWait (getTile resetting 0) = true
    ∧ [Instr.tshape fX, .tzero fX, .acczero fX, .accrd fX, .accwr fX, .sclwait fX].all (fun i => ready i resetting) = true
    ∧ parkedCode (after (exec (.tshape fX) (at_ 4 .leafX []))) 4 = some 0x15 := by decide +kernel
/-- An mma and an accepi under their prefixes, on a tile in a leaf reset: the fmt word of R254, and one that converts to FP16. -/
def prefixed (s : State) (p : BitVec 32) : State := after (exec (.fmt { fI with imm := p }) s)
theorem test_tile_prefixed : ready (.mma fX) { prefixed resetting 0x66A680 with clk := { cyc := [(0, 9)] } } = true
    ∧ ready (.accepi fX) { prefixed resetting 0xAA9280 with clk := { cyc := [(0, 9)] } } = true := by decide +kernel
def sem (v : BitVec 8) : State := setTile (at_ 4 .leafX []) 0 { sems := [(1, v)] }
theorem test_semaphores : [0#8, 1#8, 255#8].all (fun v => ready (.sems fE) (sem v) && ready (.semw fE) (sem v)) = true
    ∧ (getTile (sem 0) 0).waiting = none ∧ (getTile (sem 0) 0).running = []
    ∧ classOf (idxOf 4) = .x ∧ look 0 (getTile (after (exec (.sems fE) (sem 254))) 0).sems 1 = 255#8
    ∧ (getTile (after (exec (.semw fE) (sem 0))) 0).sems = [(1, 0)] := by decide +kernel
/-- The tile's other core, whose code is the word given at its pc, goes first: to a semaphore of one, and to a full one (R270). -/
def contending (w : Word) (v : BitVec 8) : State :=
  modLaunch (modCore (sem v) 0 fun k => { k with run := some (task 0 .leafA) }) 0 fun l => { l with code := (List.range 8).map fun i => (0x20000 + i, byteAt w i) }
theorem test_semaphore_order : word 0xB081020C50210010#64 = some (.semw fE) ∧ word 0xB001020C50210010#64 = some (.sems fE)
    ∧ semLater (contending 0xB081020C50210010#64 1) 1 1 = true ∧ semLater (contending 0xB001020C50210010#64 255) 255 1 = true
    ∧ ready (.semw fE) (contending 0xB081020C50210010#64 1) = true := by decide +kernel
/-- A pass over t1 and t2 into accumulator 0. -/
def pass12 (pfx : BitVec 32) : Pass := { acc := 0, ta := 1, tb := 2, pfx := pfx, owner := 0 }
def passing : State := setTile (at_ 4 .leafX []) 0 { waiting := some (pass12 0) }
theorem test_sems_waits : ready (.sems fE) passing = true ∧ (getTile passing 0).waiting.isSome = true := by decide +kernel
theorem test_qstat : [0#4, 2, 3, 4].all (fun n => ready (.qstat { fE with sub := n }) (at_ 0 .leafA [])) = true
    ∧ ready (.qstat { fE with sub := 1 }) (at_ 4 .leafX []) = true := by decide +kernel
/-- A counter at 0x100 of the core store that reads 5. -/
def counting (l : List (Nat × Word)) : State := modCore (at_ 8 .handler ((2, 0x100#64) :: l)) 8 fun k => { k with store := (0x20, 5#64) :: k.store }
theorem test_counters : let s := counting [(5, 5#64)]
    [Instr.ctrwait fE, .ctrtrig fE, .arrive fE].all (fun i => ready i s) = true ∧ (refCheck s (readS s 2) 8 8 false).toOption = some (.store 8 0x100)
    ∧ ctrValue s (.store 8 0x100) = 5#64 ∧ ok (refCheck s (readS s 2) 8 8 true) = true ∧ ok (acquire s .dev) = true
    ∧ ok (acquireFrom s (observed s (.store 8 0x100) 5)) = true ∧ ready (.ctrwait fE) (counting [(5, 6#64)]) = true
    ∧ tagTenant (tagOf (getCore s 8) 0x21) = tenantOf s ∧ (getCore s 8).trigs = []
    ∧ [Instr.ctrwait fE, .ctrtrig fE, .arrive fE].all (fun i => ready i (at_ 8 .handler [(2, 0x100000000#64)])) = true := by decide +kernel
/-- An entry of another tenant, and a core with eight triggers. -/
def trig : Trig := { slot := 0, ctr := 0x100#64, val := 5, tag := 0x21, set := none, parent := 0, acq := [] }
theorem test_triggers : let s := modCore (counting [(5, 5#64)]) 8 fun k => { k with trigs := List.replicate 8 trig }
    ready (.ctrtrig fE) s = true ∧ (getCore s 8).trigs.length = 8
    ∧ tagTenant (tagOf (getCore (modCore s 8 fun k => { k with tags := [(0x21, 0x0040000000000000#64)] }) 8) 0x21) = 1
    ∧ (let u := modCore (counting []) 8 fun k => { k with trigs := [trig] }
       (getCore u 8).trigs = [trig] ∧ (ctrValue u (trigLoc 8 trig)).toNat = 5 ∧ (getCore (fireTrigs u 8) 8).trigs = []) := by decide +kernel
/-- A trigger of a tag enabled or not, with room in the run queue or none (R153, R168). -/
def trigged (en : Bool) (n : Nat) : State := modCore (counting []) 8 fun k =>
  { k with trigs := [trig], tags := [(0x21, if en then 0x8000000000000040#64 else 0x40#64)], runq := List.replicate n default }
theorem test_trigger_queue : (getCore (fireTrigs (trigged true 0) 8) 8).runq.length = 1 ∧ (getCore (fireTrigs (trigged true 32) 8) 8).inbox.length = 1
    ∧ bit (tagOf (getCore (fireTrigs (trigged false 0) 8) 8) 0x21) 62 = true ∧ (getCore (trigged true 32) 8).inbox = [] := by decide +kernel
theorem test_arrive : ctrValue (after (exec (.arrive fE) (counting [(5, 3#64)]))) (.store 8 0x100) = 8#64 := by decide +kernel

/-! ## Parcels, tags, groups -/

theorem test_sending : let s := at_ 8 .handler [(4, 0#64), (5, 15#64)]
    [Instr.send fE, .sendc fE, .sendt fE, .reply fE].all (fun i => ready i s) = true ∧ (readC s fE).toNat = 15 ∧ ok (sendRelease s) = true
    ∧ [Instr.send fE, .sendc fE, .sendt fE, .reply fE].all (fun i => ready i (at_ 8 .handler [(5, 16#64)])) = true
    ∧ ready (.send { fE with sub := 8 }) (at_ 8 .system []) = true ∧ (taskOf (at_ 8 .system [])).kind = .system
    ∧ ready (.reply fE) (at_ 8 .rule []) = true
    ∧ ((after (exec (.send fE) (at_ 8 .handler [(4, 0x421#64), (5, 2#64), (16, 7#64), (17, 9#64)]))).net.map fun p => (hY p.hdr, hX p.hdr, hCore p.hdr, p.payload))
      = [(1, 1, 1, [7, 9])] := by decide +kernel
def parcel (kind : Nat) (tag : BitVec 12) (core : Nat) (payload : List Word) : Parcel :=
  { hdr := mkHdr kind tag core 0 0 payload.length none 0, payload := payload, src := 1, srcPart := some 0 }
def receiving (o : List Parcel) : State := modCl (at_ 8 .handler [(2, 0x100#64), (5, 0x200#64)]) 0 fun x => { x with overflow := o }
theorem test_recvp : ready (.recvp { fE with sub := 1 }) (receiving [parcel 2 0x21 8 [7]]) = true
    ∧ ok (refCheck (receiving []) 0x100#64 128 16 true) = true ∧ ok (refCheck (receiving []) 0x200#64 8 8 true) = true
    ∧ addressed 8 0x21 (parcel 2 0x21 8 [7]) = true
    ∧ admits { slot := 0, tag := 0x21, src := none, buf := 0x100#64, ctr := 0x200#64, set := none, ctrSet := none } (parcel 2 0x21 8 [7]) = true
    ∧ ready (.recvp { fE with sub := 1 }) (receiving []) = true
    ∧ ready (.recvp { fE with sub := 1 }) (modCore (receiving []) 8 fun k =>
        { k with recvs := List.replicate 16 { slot := 0, tag := 0, src := none, buf := 0, ctr := 0, set := none, ctrSet := none } }) = true := by decide +kernel
theorem test_recvx : ready (.recvx fE) (receiving [parcel 2 0x21 8 [7]]) = true ∧ (getCore (receiving []) 8).wait = none
    ∧ ready (.recvx fE) (receiving []) = true
    ∧ ok (acquire (modCore (receiving [parcel 2 0x21 8 [7]]) 8 fun k => { k with wait := none }) .dev) = true
    ∧ scalarOf (after (exec (.recvx fE) (receiving [parcel 2 0x21 8 [7]]))) 16 = 7
    ∧ ready (.recvx fE) (modCore (receiving []) 8 fun k => { k with wait := some (.recv 0x21 (some (parcel 2 0x21 8 [7]))) }) = true := by decide +kernel
theorem test_tags : ready (.tagset { fE with sub := 3 }) (at_ 8 .handler []) = true ∧ ready (.tagr fE) (at_ 8 .handler []) = true
    ∧ tagDenied (at_ 8 .handler []) 0x21 = false
    ∧ (let s := modCore (at_ 8 .handler []) 8 fun k => { k with tags := [(0x21, 0x0040000000000000#64)] }
       tagDenied s 0x21 = true ∧ ready (.tagset fE) s = true ∧ ready (.tagr fE) s = true) := by decide +kernel
/-- Parcels that the inbox holds, when tagset with pend enables tag 0x21: two for that tag, carried code, one for a tag not enabled. -/
def heldParcels : State := modCore (at_ 8 .handler []) 8 fun k =>
  { k with inbox := [parcel 0 0x21 8 [7], parcel 1 0 8 [9], parcel 0 0x22 8 [1], parcel 0 0x21 8 [3]], tags := [(0x21, 0x40#64)] }
theorem test_tagset_order : let t := after (exec (.tagset { fE with sub := 3 }) heldParcels)
    ready (.tagset { fE with sub := 3 }) heldParcels = true ∧ (getCore t 8).inbox.length = 1
    ∧ (getCore t 8).runq.map (fun q => (q.kind, (q.regs.drop 3).map (·.2))) = [(.handler, [7]), (.carried, []), (.handler, [3]), (.handler, [])] := by decide +kernel
/-- Group 255 installed, with the A-core 0 and the cluster core of cluster 0 as members. -/
def grouped (l : List (Nat × Word)) : State := setGroup (at_ 8 .handler ((2, 255#64) :: l)) 0 255 { members := [0, 8], gen := 3, installed := true }
theorem test_groups : let s := grouped [(5, 1#64), (16, 4#64)]
    ready (.grpfree fE) s = true ∧ ready (.mcast fE) s = true ∧ drainCount s 0 255 = 0 ∧ (groupAt s 0 255).installed = true
    ∧ ok (sendRelease s) = true ∧ (after (exec (.mcast fE) s)).net.map (fun p => (hCore p.hdr, hGen p.hdr, p.payload)) = [(0, 3, [4]), (8, 3, [4])]
    ∧ [Instr.grpset fE, .grpfree fE, .mcast fE].all (fun i => ready i (at_ 8 .handler [(2, 256#64)])) = true := by decide +kernel
/-- A descriptor at 0x100000 that lists the A-core 0. -/
def listing : State := atOnce { at_ 8 .handler [(2, 255#64), (3, 0x100000#64)] with mem := (memWriteWord paged 0x100000 1#64).mem }
theorem test_grpset : ready (.grpset fE) listing = true ∧ drainCount listing 0 255 = 0
    ∧ (groupAt (after (exec (.grpset fE) listing)) 0 255).members = [0] ∧ (groupAt (after (exec (.grpset fE) listing)) 0 255).gen = 1 := by decide +kernel
/-- Lists that are none: empty, too long, with a member that is no core, or twice the same; and bad addresses. -/
def badList (n m : Word) : State := atOnce (memWriteWord (memWriteWord listing 0x100000 n) 0x100008 m)
theorem test_grpset_bad : [(0#64, 0#64), (257, 0), (1, 9), (2, 0)].all (fun q => let s := badList q.1 q.2
      ok (descriptorRead (stallOver s) 0x100000#64) && parkedCode (after (exec (.grpset fE) s)) 8 == some 0x32) = true
    ∧ ok (descriptorRead (stallOver listing) 0x100000#64) = true
    ∧ [(0x2000000000000#64, 0x20), (0x100004#64, 0x12)].all (fun q => parkedCode (after (exec (.grpset fE) (at_ 8 .handler [(2, 255#64), (3, q.1)]))) 8 == some q.2) = true := by
  decide +kernel
/-- A parcel of the group is still under way. -/
def draining : State := { grouped [(3, 0x100000#64)] with net := [{ parcel 0 0x21 0 [] with hdr := mkHdr 0 0x21 0 0 0 0 (some (255, 3)) 0 }] }
theorem test_group_waits : [Instr.grpset fE, .grpfree fE].all (fun i => ready i draining && drainCount draining (myPart draining) 255 == 1
      && (match (getCore (after (exec i draining)) 8).wait with | some (.group 0 255) => true | _ => false)
      && after (exec i (after (exec i draining))) == after (exec i draining)) = true := by decide +kernel
theorem test_group_busy : let s := { modCore (grouped []) 8 (fun k => { k with wait := some (.group 0 255) }) with
      clk := { cyc := [(0, 65536)] }, net := [{ parcel 0 0x21 0 [] with hdr := mkHdr 0 0x21 0 0 0 0 (some (255, 3)) 0 }] }
    (getCore s 8).wait = some (.group 0 255) ∧ cycOf s 8 = 65536 ∧ drainCount s (partOf s (cidOf 8)) 255 = 1 ∧ (getCore s 8).run.isSome = true
    ∧ parkedCode (after (exec (.groupBusy 8) s)) 8 = some 0x31 := by decide +kernel
/-- A wrq of eight bytes from 0x300 of the core store to 0x100100, with and without a counter; and of none and 4097. -/
def writing (n ctr : Word) : State :=
  modCore (at_ 8 .handler [(2, 0x100#64), (4, 8#64)]) 8 fun k =>
    { k with store := [(0x20, 0x300#64), (0x21, 0x100100#64), (0x22, n), (0x23, ctr), (0x60, 0x55#64)] ++ k.store }
theorem test_wrq : ready (.wrq fE) (writing 8 0) = true ∧ ready (.wrq fE) (writing 8 0x200#64) = true ∧ ready (.wrq fE) (writing 0 0) = true
    ∧ ready (.wrq fE) (writing 4097 0) = true ∧ (taskOf (writing 8 0)).committed = 0 ∧ ok (refCheck (writing 8 0) 0x100#64 32 8 false) = true
    ∧ ok (refCheck (writing 8 0) 0x300#64 8 (wrqAlign 0x300#64 8) false) = true ∧ ok (refCheck (writing 8 0) 0x200#64 8 8 true) = true
    ∧ (after (exec (.wrq fE) (writing 8 0))).net.map (·.payload) = [[0x100100#64, 8#64]]
    ∧ ctrValue (after (exec (.wrq fE) (writing 8 0x200#64))) (.store 8 0x200) = 1#64 := by decide +kernel

/-! ## Engines and reductions -/

/-- A descriptor, 64-byte aligned, at the start of set 1, from its words; register s2 refers to it. -/
def described (k : TaskKind) (w : List Word) : State :=
  locWrite (at_ 0 k [(2, 0x8000000010000000#64)]) none (.set 0 1 0) (wordsBytes (w ++ List.replicate (16 - w.length) 0))
/-- One dimension of 8-byte elements of set 1, from offset 0x200 to offset 0x300 (R163). -/
def copyWords : List Word :=
  [0x0060500000000000#64, 0x10000200#64, 0x10000300#64, 0x77#64, 0, 0, 0, 0, 0x0000000200000002#64, 0, 8, 8]
/-- The engine accepts the one parcel in flight. -/
def taken (s : State) : State := engineAccepts s 0
theorem test_issue : engines.all (fun r => ready (r.1 fE) (described .handler copyWords)
      && (r.2.1 == .compact || (recordSets (described .handler copyWords) (namedBy r.2.1 0x8000000010000000#64 (copyWords.take 8))).isOk)) = true
    ∧ (descHead (described .handler copyWords) .copy 0x8000000010000000#64).toOption.map (fun r => r.2.take 4) = some (copyWords.take 4)
    ∧ (recordSets (described .handler copyWords) (namedBy .copy 0x8000000010000000#64 copyWords)).toOption = some [(1, 1), (1, 1), (1, 1)]
    ∧ ok (sendRelease (described .handler copyWords)) = true ∧ ready (.xstat fE) (described .handler copyWords) = true
    ∧ (engQueue (taken (after (exec (.xcopy fE) (described .handler copyWords)))) 0 0).map (fun o => (o.no, o.core)) = [(1, 0)]
    ∧ sentTo (after (exec (.xcopy fE) (described .handler copyWords))) 0 0 = 1 := by decide +kernel
/-- The command parcel may be accepted. -/
theorem test_command_parcel : let s := after (exec (.xcopy fE) (described .handler copyWords))
    (s.net.head?.map fun p => p.op.isSome && p.part.isNone && p.port.isNone && mayArrive s 0 p && (dropCause s p).isNone && !(hGrp p.hdr)
      && (discardEnded (takeParcel s 0) p).isNone && hCore p.hdr == 0) = some true ∧ (engQueue s 0 0).length = 0 := by decide +kernel
/-- A counter and a status reference with reserved bits. -/
theorem test_issue_range : ready (.xcopy fE) (described .handler [0, 0, 0, 0, 0x8000000100000000#64]) = true
    ∧ ready (.xfill fE) (described .handler [0, 0, 0, 0, 0, 0xC000000000000000#64]) = true
    ∧ parkedCode (after (exec (.xcopy fE) (described .handler [0, 0, 0, 0, 0x8000000100000000#64]))) 0 = some 0x11
    ∧ parkedCode (after (exec (.xfill fE) (described .handler [0, 0, 0, 0, 0, 0xC000000000000000#64]))) 0 = some 0x11 := by decide +kernel
/-- An engine operation at the head of engine 0 of cluster 0, with the element 7 at offset 0x208 of set 1. -/
def queued (i : FmtE → Instr) (w : List Word) : State :=
  taken (after (exec (i fE) (locWrite (described .handler w) none (.set 0 1 0x208) (bytesOf 8 (7 : Word)))))
def fillWords : List Word := [0x0060100000000000#64, 0, 0x10000300#64, 0x77#64, 0, 0, 0, 0, 0x0000000000000002#64, 0, 0, 8]
def setWord (s : State) (o : Nat) : Word := wordOfBytes (locRead s (.set 0 1 o) 8)
theorem test_copy : (engStart (queued .xcopy copyWords) 0 .copy).isSome = true
    ∧ setWord (after (exec (.copyOperation 0) (queued .xcopy copyWords))) 0x308 = 7 := by decide +kernel
theorem test_fill : (engStart (queued .xfill fillWords) 0 .fill).isSome = true
    ∧ setWord (after (exec (.fillOperation 0) (queued .xfill fillWords))) 0x308 = 0x77 := by decide +kernel
/-- The steps of the two runs, as the statement takes them. -/
theorem test_copy_steps : ((engStart (queued .xcopy copyWords) 0 .copy).map fun r =>
      match engDesc r.1 64 with
      | (.ok (r1, h), _) => match engOpen r1 (64 + 32 * (((h.getD 0 0).extractLsb' 56 4).toNat + 1)) with
        | (.ok (r2, w), _) => (copyCheck r2.op w [dimOf w 0] false).isOk && match copyElems r2.op w [dimOf w 0] false with
          | .ok (es, _) => match copyRun r2 es.reverse 8 false (padBytes 0x77 8) with
            | (.ok _, _) => true
            | _ => false
          | _ => false
        | _ => false
      | _ => false) = some true := by decide +kernel
theorem test_copy_refused : (match copyCheck { (default : EngOp) with ref := 5 } (1 :: List.replicate 11 0) [] false with
    | .error (.code c _ a) => some (c, a)
    | _ => none) = some (0x38, 5) := by decide +kernel
def compactWords (d : Word) : List Word := [0x0000500000000000#64, 0x10000200#64, 0x10000300#64, 0, 0, 0, 0, 0, d, 0x0300#64, 0x10000400#64, 0, 0, 0x10000500#64,
  0x10000600#64, 0]
theorem test_compact : (recordSets (described .handler (compactWords 0)) (namedBy .compact 0x8000000010000000#64 (compactWords 0))).isOk = true
    ∧ ((engStart (queued .xcompact (compactWords 0x1000000001#64)) 0 .compact).map fun r =>
      match engOpen r.1 128 with
      | (.ok (r1, w), _) => match runCompact r1 w with
        | (.ok _, _) => 1
        | (.error (.code c _ _), _) => c
        | _ => 0
      | _ => 0) = some 1
    ∧ ((engStart (queued .xcompact (compactWords 0#64)) 0 .compact).map fun r =>
      match engOpen r.1 128 with
      | (.ok (r1, w), _) => match runCompact r1 w with
        | (.error (.code c _ _), _) => c
        | _ => 0
      | _ => 0) = some 0x38 := by decide +kernel
/-- A-core 0 alone is group 5, and reduces two 32-bit integers of set 1 onto themselves. -/
def redWords (n : Word) : List Word := [0x0531400000000000#64, 0x10000200#64, 0x10000300#64, n, 0, 0, 0, 0]
def reducing (n : Word) : State :=
  let s := setGroup (described .handler (redWords n)) 0 5 { members := [0], gen := 1, installed := true }
  taken (after (exec (.xred fE) (locWrite s none (.set 0 1 0x204) (bytesOf 4 (7 : Word)))))
theorem test_reduce : ((engStart (reducing 2) 0 .reduce).map fun r =>
      match engOpen r.1 64 with
      | (.ok (r1, w), _) => (redCheck r1.s r1.op w).isOk && match redPlaces r1.op w true with
        | .ok (_, pages) => match engPages r1.s (engPart r1) pages with
          | (.ok _, _) => true
          | _ => false
        | _ => false
      | _ => false) = some true
    ∧ setWord (after (exec (.reduceOperation 0) (reducing 2))) 0x300 = 0x0000000700000000#64 := by decide +kernel
theorem test_reduce_refused : ((engStart (reducing 0) 0 .reduce).map fun r =>
      match engOpen r.1 64 with
      | (.ok (r1, w), _) => match redCheck r1.s r1.op w with
        | .error (.code c _ _) => c
        | _ => 0
      | _ => 0) = some 0x38 := by decide +kernel
theorem test_red_step : redStep 3 0 0x7FFFFFFF 1 = (0x7FFFFFFF, true) ∧ redStep 3 1 0x80000000 1 = (0x80000000, false) := by decide +kernel
/-- A reduction that waits for peer 1 at step 0, over port 3 with communicator 2, as rank 0 (which receives) or 1 (which sends). -/
def peered (rank : Word) : State :=
  let c : Contrib := { (default : Contrib) with member := 0, op := { (default : EngOp) with head := (redWords 1).set 6 2 } }
  let s := setGroup (at_ 0 .handler []) 0 5 { members := [0], gen := 1, installed := true }
  { s with
    reds := [{ part := 0, g := 5, contribs := [c], value := [1], folded := true }]
    host := { s.host with boot := { s.host.boot with links := [(3, true)], cfg2 := [(16, 0x8004000000000000#64 ||| rank <<< 44), (17, 9), (18, 0x8003#64)] } } }
def fromPeer (ident : Word) : PeerInput := { (default : PeerInput) with part := 0, port := 3, comm := 2, step := 0, ident := ident, values := [4] }
theorem test_peer : (peered 0).reds.head?.map (fun x => (rootContrib (peered 0) x).map fun c => redComm c.op.head) = some (some 2)
    ∧ stepPort (commAt (peered 0) 2) 0 = 3 ∧ look false (peered 0).host.boot.links 3 = true ∧ (commAt (peered 0) 2).ident = 9
    ∧ sendsAt (commAt (peered 0) 2).rank (commAt (peered 0) 2).size 0 = false
    ∧ sendsAt (commAt (peered 1) 2).rank (commAt (peered 1) 2).size 0 = true ∧ (fromPeer 8).ident ≠ (commAt (peered 0) 2).ident := by decide +kernel

/-! ## Vectors -/

/-- X-core 4 with v2 and v3 as given, in the task's frame. -/
def vecs (a b : Word) : State := modCore (at_ 4 .leafX [(2, 5#64), (3, 1#64)]) 4 fun k =>
  { k with store := k.store ++ [(frameBase 4 0 / 8 + 48 + 32, a), (frameBase 4 0 / 8 + 48 + 48, b)] }
theorem test_vector_ready : bitRows.all (fun r => ready (r.ins { fV with fmt := 3 }) (vecs 0 0) && vecReady (vecs 0 0) (r.srcs (effV (ctxOf (vecs 0 0)) fV)) (some 4)) = true
    ∧ arithRows.all (fun r => ready (r.ins fV) (vecs 0 0) && vecReady (vecs 0 0) (r.srcs (effV (ctxOf (vecs 0 0)) fV)) (some 4)) = true
    ∧ [Instr.vadd { fV with fmt := 3, sat := 1 }, .vcmp { fV with fmt := 3 }, .vidx { fV with fmt := 3 }, .vbcast fV, .vins fV, .vext fV,
        .vcvt { fV with fmt2 := 6, sub := 1 }, .vred { fV with fmt := 3 }, .vscan { fV with fmt := 3 }, .vred fV, .vscan fV, .vtopk fV].all
      (fun i => ready i (vecs 0 0)) = true
    ∧ isInt 3 = true ∧ isInt 0xA = false ∧ vecReady (vecs 0 0) [] (some 4) = true ∧ vecReady (vecs 0 0) [2] none = true := by decide +kernel
/-- A source that is an empty load queue. -/
theorem test_vector_waits : ready (.vadd { fV with a := 16 }) (vecs 0 0) = true ∧ vecReady (vecs 0 0) [16, 3] (some 4) = false
    ∧ ready (.vmov { fV with a := 16 }) (vecs 0 0) = true := by decide +kernel
/-- A vector core with its own state, and its tile's, as given. -/
def vecR (f : Core → Core) (g : Tile → Tile) : State := modTile (modCore (at_ 4 .leafX [(2, 5#64)]) 4 f) 0 g
/-- The sources and destinations of R286: a write in flight keeps the old value, a queue and a channel lose what is read, a push waits
for its completion, and a full store queue is waited for. -/
theorem test_vector_sources : (readV (vecR (fun k => { k with wr := [{ vec := true, n := 2, fin := 9, old := 77, ilk := true }] }) id) 2).2 = 77
    ∧ (let r := readV (vecR id fun x => { x with lq := [(1, [5, 6])] }) 17
       r.2 = 5 ∧ look [] (getTile r.1 0).lq 1 = [6])
    ∧ (let r := readV (vecR id fun x => { x with chans := [(3, (List.range 20).map (BitVec.ofNat 64))] }) 27
       (List.range 16).map (fun i => elem 64 i r.2) = List.range 16 ∧ look [] (getTile r.1 0).chans 3 = [16, 17, 18, 19]) := by decide +kernel
theorem test_vector_pushes : (fillPushes 8 { pushes := [{ q := 1, fin := 9, data := 3 }] }).sq = []
    ∧ (fillPushes 9 { pushes := [{ q := 1, fin := 9, data := 3 }] }).sq = [(1, [3])]
    ∧ vecReady (vecR id fun x => { x with sq := [(0, [1, 2, 3, 4, 5])], pushes := List.replicate 3 { q := 0, fin := 9, data := 3 } }) [] (some 20) = false
    ∧ (laneCheck (vecR (fun k => { k with laneErr := [(3, 5)], steer := some 0 }) id) 32 0).2.toNat = 5 * 2 ^ 96
    ∧ (laneCheck (vecR (fun k => { k with laneErr := [(3, 5)], steer := some 0x22 }) id) 32 0).2.toNat = 5 * 2 ^ 64
    ∧ (laneCheck (vecR (fun k => { k with laneErr := [(3, 5)], steer := some 0x23 }) id) 32 0).2 = 0 := by decide +kernel
def noMod : BitVec 12 := 0
/-- A saturating sum of 8-bit integers: 127 and 1 are 127, with SAT (R136, R289, R291). -/
theorem test_vadd_sat :
    let t := after (exec (.vadd { fV with fmt := 1, sat := 1, amod := noMod }) (vecs 0x7F#64 0x01#64))
    elem 8 0 (vectorOf t 4) = 0x7F ∧ (ctxOf t).status = 0x200#64
    ∧ elem 8 0 (vectorOf (after (exec (.vadd { fV with fmt := 1, amod := noMod }) (vecs 0x7F#64 0x01#64))) 4) = 0x80 := by decide +kernel
/-- FP32 1.5 + 2.25 and 1.5 × 2.25 are exact: 3.75 and 3.375. -/
theorem test_vadd_fp : elem 32 0 (vectorOf (after (exec (.vadd { fV with amod := noMod }) (vecs 0x3FC00000#64 0x40100000#64))) 4) = 0x40700000
    ∧ elem 32 0 (vectorOf (after (exec (.vmul { fV with amod := noMod }) (vecs 0x3FC00000#64 0x40100000#64))) 4) = 0x40580000 := by decide +kernel
/-- One divided by zero is an infinity, with DZ (R137, R292). -/
theorem test_vdiv : let t := after (exec (.vdiv { fV with amod := noMod }) (vecs 0x3F800000#64 0))
    elem 32 0 (vectorOf t 4) = 0x7F800000 ∧ (ctxOf t).status.getLsbD 7 = true := by decide +kernel
theorem test_rounding : roundTo 0 false 5 (-1) 0 0 isOdd = (2, true, false) ∧ roundTo 0 false 7 (-1) 0 0 isOdd = (4, true, false)
    ∧ roundTo 2 true 5 (-1) 0 0 isOdd = (2, true, false) ∧ roundTo 3 true 5 (-1) 0 0 isOdd = (3, true, false) := by decide +kernel

/-! ## Matrix -/

def fmted (s : State) : State := prefixed s 0x66A680
def later (s : State) (n : Nat) : State := { s with clk := { cyc := [(0, n)] } }
theorem test_mma : ready (.mma fX) (later (prefixed (at_ 4 .leafX []) 0x66A280) 9) = true
    ∧ (getTile (later (prefixed (at_ 4 .leafX []) 0x66A280) 9) 0).waiting = none
    ∧ ready (.mma fX) (later (prefixed passing 0x66A280) 9) = true ∧ (getTile passing 0).waiting ≠ none := by decide +kernel
def run0 (started : Nat) : Running :=
  { pass := pass12 0x66A280#32
    started := started
    rowsA := 1
    rowsB := 1
    colsA := 2
    colsB := 2
    a := [0x3838#768]
    b := [0x4038#768]
    scaleA := []
    scaleB := [] }
theorem test_pass_start : (getTile passing 0).waiting = some (pass12 0) ∧ pfxSS 0 ≠ 1 ∧ pfxSS 0x66A680 = 1
    ∧ (getTile passing 0).running = [] ∧ sideReady (getTile passing 0) 1 = false
    ∧ (getTile (after (exec (.passStart 0) passing)) 0).running.length = 1
    ∧ (getTile (later (setTile passing 0 { waiting := some (pass12 0), running := [run0 0] }) 95) 0).running = [run0 0] := by decide +kernel
/-- E4M3 (1, 1) · (1, 2) is 3, in FP32 (R145), a hundred cycles after the start (R304). -/
theorem test_pass_deliver : let s := later (setTile (at_ 4 .leafX []) 0 { running := [run0 0] }) 100
    (getTile s 0).running = [run0 0] ∧ (getTile s 0).resetDue = false ∧ cycOfCl s 0 = 100
    ∧ look 0 (getTile (after (exec (.passDeliver 0) s)) 0).acc 0 = 0x40400000#32 := by decide +kernel
/-- The last pass of a tile whose leaf reset waits for it (R116). -/
theorem test_pass_resets : let s := later (setTile (at_ 4 .leafX []) 0 { running := [run0 0], resetDue := true, acc := [(5, 9)] }) 100
    let d := after (exec (.passDeliver 0) s)
    (getTile s 0).waiting = none ∧ (getTile d 0).resetEnd = none ∧ look 0 (getTile d 0).acc 5 = 9
    ∧ (getTile (tileCycle (later d 101) 0) 0).resetEnd = some 165 ∧ look 0 (getTile (tileCycle (later d 101) 0) 0).acc 5 = 0
    ∧ ready (.mma fX) (later (prefixed resetting 0x66A680) 9) = true := by decide +kernel
theorem test_accumulators : [Instr.acczero fX, .accrd fX, .accwr fX].all (fun i => ready i (at_ 4 .leafX [])) = true
    ∧ ready (.accepi fX) (later (prefixed (at_ 4 .leafX []) 0xAAA280) 9) = true ∧ resetWait (getTile (at_ 4 .leafX []) 0) = false
    ∧ accBusy (getTile (at_ 4 .leafX []) 0) 0 = false ∧ vecReady (at_ 4 .leafX []) [] (some 4) = true ∧ vecReady (at_ 4 .leafX []) [2] none = true
    ∧ [Instr.acczero fX, .accrd fX, .accwr fX].all (fun i => ready i passing) = true ∧ accBusy (getTile passing 0) 0 = true := by decide +kernel
theorem test_accwr : look 0 (getTile (after (exec (.accwr { fX with imm8 := 3 }) (vecs 0x0000000200000001#64 0))) 0).acc (64 + 32 + 1) = 2#32 := by
  decide +kernel
theorem test_sclwait : ready (.sclwait { fX with imm8 := 0 }) (at_ 4 .leafX []) = true ∧ sideReady (getTile (at_ 4 .leafX []) 0) 1 = false
    ∧ ready (.sclwait { fX with imm8 := 255 }) (at_ 4 .leafX []) = true := by decide +kernel
/-- A scale parcel of epoch 1 for t2, row 3, entry 1. -/
theorem test_scale_parcel : sclCtl 0x0141814000000000#64 = { epoch := 1, treg := 2, row0 := 3, nrows := 1, blk0 := 1, nb := 1 }
    ∧ entryOf (applyScale {} { (default : Parcel) with payload := [0x0141814000000000#64, 0x7F#64] }) 2 3 1 = 0x7F#16 := by decide +kernel
/-- A core of a launch with block scaling, whose s2 is the control word above and s3 a list in the core store. -/
def scaling (l : List (Nat × Word)) : State := modLaunch (at_ 8 .handler ([(2, 0x0141814000000000#64), (3, 0x100#64)] ++ l)) 0 fun x =>
  { x with hdr := x.hdr.set 0 (x.hdr.headD 0 ||| 0x400000000#64) }
theorem test_sclsend : ready (.sclsend fE) (scaling [(4, 4#64)]) = true ∧ (myLaunch (scaling [])).map (fun x => lbw x.2) = some true
    ∧ ok (refCheck (scaling []) 0x100#64 2 2 false) = true ∧ ok (sendRelease (scaling [])) = true ∧ ready (.sclsend { fE with sub := 1 }) (scaling []) = true
    ∧ ready (.sclsend fE) (at_ 8 .handler []) = true
    ∧ (after (exec (.sclsend fE) (scaling [(4, 4#64)]))).net.map (fun p => (hKind p.hdr, hCore p.hdr, p.payload.length)) = [(3, 4, 2)] := by decide +kernel

/-! ## Tasks and arrivals -/

/-- Core 8 free, with a handler queued and another in each class below, as given. -/
def free8 (q : List QTask) : State := modCore (at_ 8 .handler []) 8 fun k => { k with run := none, runq := q }
def handlerQ (cls : Nat) (pc : Word) : QTask := { (default : QTask) with kind := .handler, slot := some 0, cls := cls, pc := pc }
def isQueued (r : Option Chosen) (pc : Word) : Bool :=
  match r with
  | some (.queued q) => q.pc == pc
  | _ => false
def isResumed (r : Option Chosen) : Bool :=
  match r with
  | some (.resumed t) => t.resumed
  | _ => false
theorem test_task_choice : isQueued (choose (free8 [handlerQ 1 0x40#64, handlerQ 2 0x80#64]) 8) 0x80#64 = true ∧ clockRuns (free8 []) (islandOf (cidOf 8)) = true
    ∧ (choose (free8 []) 8).isNone = true ∧ (getCore (free8 []) 8).halted = false ∧ (getCore (at_ 8 .handler []) 8).run.isSome = true
    ∧ isResumed (choose (modCore (free8 []) 8 fun k => { k with parked := [{ task 8 .handler with resumed := true }] }) 8) = true
    ∧ (let s := modCore (free8 []) 8 fun k => { k with faultq := [{ handlerQ 0 0 with kind := .fault }] }
       (getCore s 8).sysq = [] ∧ ((getCore s 8).faultq.find? (canStart s 8)).isSome = true) := by decide +kernel
/-- The handler of the higher class starts, in a frame, at its pc (R69, R71). -/
theorem test_task_start : let t := after (exec (.taskStart 8) (free8 [handlerQ 1 0x40#64, handlerQ 2 0x80#64]))
    ((getCore t 8).run.map fun u => (u.ctx.pc, u.ctx.budget)) = some (0x80#64, 1000#32) ∧ (getCore t 8).runq.length = 1 ∧ (getCore t 8).seqno = 1 := by decide +kernel
theorem test_system_first : ((getCore (after (exec (.taskStart 8) (modCore (free8 [handlerQ 3 0x40#64]) 8 fun k =>
    { k with sysq := [{ (default : QTask) with kind := .system, slot := none, pc := 0xC0#64 }] }))) 8).run.map fun u => (u.ctx.pc, u.wp, u.ctx.status.getLsbD 55))
      = some (0xC0#64, 0x7C00, true) := by decide +kernel
/-- Two leaves with no tile of their own wait on tile 1's A-core; that of tile 0 is idle. -/
def stealing : State :=
  let q (cls : Nat) : QTask := { handlerQ cls 0 with kind := .leafA, box := some (box0 8) }
  modCore (free8 []) 1 fun k => { k with run := some (task 1 .handler), runq := [q 1, q 2] }
theorem test_steal : idleA stealing 0 = true ∧ victimOf stealing 0 0 = 1 ∧ ((stealable stealing 1).find? fun x => x.cls = 2).isSome = true
    ∧ (stealable stealing 1).find? (fun x => x.cls = 3) = none ∧ idleA stealing 1 = false
    ∧ ((stealable stealing 1).find? fun x => x.cls = 2).map (ownerStarts stealing 1) = some false
    ∧ (getCore (after (exec (.leafSteal 0) stealing)) 0).runq.map (·.cls) = [2] := by decide +kernel
/-- The owner is free and starts the leaf itself. -/
def ownerFree : State := modCore stealing 1 fun k => { k with run := none }
theorem test_owner_wins : ((stealable ownerFree 1).find? fun x => x.cls = 2).map (ownerStarts ownerFree 1) = some true
    ∧ (getCore (after (exec (.leafSteal 0) ownerFree)) 0).runq = [] := by decide +kernel
def spent : State := modTask (at_ 8 .handler []) fun t => { t with ctx := { t.ctx with budget := 0 } }
theorem test_overrun : atBoundary (getCore spent 8) = true ∧ (taskOf spent).ctx.budget = 0#32 ∧ clockRuns spent (islandOf (cidOf 8)) = true
    ∧ parkedCode (after (exec (.taskOverrun 8) spent)) 8 = some 0x40 ∧ (taskOf (at_ 8 .handler [])).ctx.budget ≠ 0#32 := by decide +kernel
/-- A parked task, the launch having run for a time and the partition's limit being 10. -/
def parkedFor (ns : Nat) (dbg : Bool) : State :=
  let s := modLaunch (modCore (free8 []) 8 fun k => { k with parked := [{ task 8 .handler with debug := dbg }] }) 0 fun l => { l with runNs := ns }
  modPart s 0 fun x => { x with desc := put x.desc 10 10#64 }
theorem test_park_timeout : let h := mkHandle 8 0 1
    [parkedFor 11 false, parkedFor 10 false, parkedFor 11 true].all (fun s => (parkedNamed s 8 h).isSome && (partWord s 0 10).toNat == 10) = true
    ∧ (getCore (after (exec (.parkTimeout 8 h) (parkedFor 11 false))) 8).parked = []
    ∧ after (exec (.parkTimeout 8 h) (parkedFor 10 false)) = parkedFor 10 false := by decide +kernel
def travelling (c : Nat) (p : List Parcel) : State := { at_ c .handler [] with net := p }
def carried : Parcel := parcel 1 0 8 [1, 2, 3]
def scale : Parcel := { parcel 3 8 4 [0x0141814000000000#64, 0x7F#64] with srcPart := some 0 }
def system : Parcel := { parcel 3 0xE 8 [5] with sys := true }
def fault : Parcel := { parcel 3 0xD 8 [0, 0, 0, 0, 0, 0, 0, 0] with hw := true }
def everyParcel : List Parcel := [parcel 0 0x21 8 [7], carried, parcel 2 0x21 8 [7], parcel 2 0 4 (List.replicate 16 7), scale, system, fault]
/-- Each parcel may be accepted; each is dropped at a cluster of another partition; each waits with the inbox full. -/
theorem test_arrivals : (List.zip arrivals everyParcel).all (fun q =>
      let s := travelling 8 [q.2]
      q.1.2 q.2 && slotted s q.2 == q.2 && mayArrive s 0 q.2 && (dropCause s q.2).isNone && !(groupStale s q.2)
        && (discardEnded (portDone (takeParcel s 0) q.2) q.2).isNone) = true
    ∧ (List.zip arrivals everyParcel).all (fun q => (dropCause (travelling 8 []) { q.2 with badHdr := 1 }) == some 8
        && !(mayArrive (travelling 8 [q.2, q.2]) 1 q.2)) = true := by decide +kernel
/-- With its sixteen buffers held, a parcel of any kind waits there, and none of a lower class is taken (R150, R151). -/
def crowded (p : Parcel) : State := modCore (travelling 8 [p]) (hDestCore p.hdr) fun k => { k with inbox := List.replicate 16 (parcel 0 0x22 8 []) }
theorem test_arrival_waits : (List.zip arrivals everyParcel).all (fun q => buffers (crowded q.2) (hDestCore q.2.hdr) == 16
      && (after (exec (q.1.1 0) (crowded q.2))).net.map (·.waits) == [true]) = true
    ∧ (let a := { parcel 0 0x21 8 [7] with hdr := mkHdr 0 0x21 8 1 0 1 none 0 }
       mayArrive (travelling 8 [a, { a with waits := true, src := 2, hdr := mkHdr 0 0x21 8 2 0 1 none 0 }]) 0 a = false)
    ∧ (let s := modCore (at_ 8 .handler []) 8 fun k => { k with runq := List.replicate 32 default, inbox := [parcel 1 0 8 [1]] }
       takeInbox s 8 = s) := by decide +kernel
theorem test_arrival_effects :
    (getCore (after (exec (.handlerParcel 0) (modCore (travelling 8 [parcel 0 0x21 8 [7]]) 8 fun k => { k with tags := put k.tags 0x21 0x8000000000000040#64 }))) 8).runq.length = 1
    ∧ (getCore (after (exec (.handlerParcel 0) (travelling 8 [parcel 0 0x21 8 [7]]))) 8).inbox.length = 1
    ∧ ((getCore (after (exec (.carriedCodeParcel 0) (travelling 8 [carried]))) 8).runq.map fun q => (q.kind == .carried, q.code)) = [(true, [1, 2, 3])]
    ∧ (getCl (after (exec (.taggedDataParcel 0) (travelling 8 [parcel 2 0x21 8 [7]]))) 0).overflow.length = 1
    ∧ (getCore (after (exec (.systemParcel 0) (travelling 8 [system]))) 8).sysq.length = 1
    ∧ ((launchAt (after (exec (.faultParcel 0) (travelling 8 [fault]))) 0).bind fun l => l.abort).isNone = true := by decide +kernel
theorem test_channel_parcel : (getTile (after (exec (.channelParcel 0) (travelling 8 [parcel 2 0 4 (List.replicate 16 7)]))) 0).chans.map (fun q => q.2.length) = [16]
    ∧ (getTile (after (exec (.scaleParcel 0) (travelling 8 [scale]))) 0).scaleWait.length = 1
    ∧ entryOf (getTile (scalesApply (after (exec (.scaleParcel 0) (travelling 8 [scale]))) 0) 0) 2 3 1 = 0x7F#16 := by decide +kernel

/-! ## Launches, boxes and records -/

/-- Memory with words written. -/
def words (s : State) (l : List (Nat × Word)) : State := l.foldl (fun s q => memWriteWord s q.1 q.2) s
/-- The words of a header of one axis of eight indices and one rule, for cluster 0, with class 3 and the word 0 bits given. -/
def headerWords (w0 : Word) : List (Nat × Word) :=
  [ (0, 0x0110800000000000#64 ||| w0), (8, 0x20000#64), (16, 0x0000000800000000#64), (80, 1#64), (224, 0x50000#64), (240, 0x00000009FFFFFFFF#64) ]
/-- Queue 0 of partition 0: a ring of four at 0x31000 with one entry, the header at 0x40000; a save block of 64 KiB at 0x50000. -/
def submitted (w0 : Word) : State :=
  let s := { paged with parts := [(0, { valid := true, desc := [(1, 1#64), (4, 0x10000#64), (5, 0x30000#64), (11, 0x000003E8000003E8#64), (12, 1#64)] })] }
  { words s ([(0x30000, 0xB000000000000000#64), (0x30008, 0x31000#64), (0x30010, 4#64), (0x30018, 1#64), (0x31000, 0x40000#64), (0x50008, 0x10000#64)]
      ++ (headerWords w0).map fun q => (0x40000 + q.1, q.2)) with
    disp := { (default : Dispatch) with queues := [{ part := 0, q := 0, rhead := 0, qctl := 0xB000000000000000#64, rbase := 0x31000, rnent := 4, ten := 0, rtail := 1 }] } }
def launchParcel (q : Word) : Parcel := { parcel 3 0xF 8 [q, 0x40000#64] with srcPart := some 0 }
theorem test_submission :
    let s := { submitted 0 with net := [launchParcel 0] }
    hKind (launchParcel 0).hdr = 3 ∧ (hTag (launchParcel 0).hdr).toNat % 16 = 15 ∧ mayArrive s 0 (launchParcel 0) = true
    ∧ parcelQueue (launchParcel 0) = (0, 0) ∧ queueOk s 0 0 = true ∧ queueOk s 0 1 = false ∧ s.disp.held = []
    ∧ ((after (exec (.launchParcel 0) s)).disp.queues.map (·.rtail)) = [2]
    ∧ memWord (after (exec (.launchParcel 0) s)) 0x31008 = 0x40000#64 ∧ mem32 (after (exec (.launchParcel 0) s)) 0x30018 = 2 := by decide +kernel
/-- Four entries wait; a host has written RTAIL, and its write is reported. -/
def full : State := { words (submitted 0) [(0x30018, 4#64)] with net := [launchParcel 0] }
def told (n : Word) : State := { words (submitted 0) [(0x30018, n)] with reports := [⟨0, 0⟩] }
theorem test_submission_waits : (match enqueue full 0 0 0x40000#64 with | (_, .full) => true | _ => false) = true
    ∧ (after (exec (.launchParcel 0) full)).disp.held.length = 1
    ∧ (after (exec (.queueSubmit 0) (told 5))).disp.stopped = [(0, 0)]
    ∧ (after (exec (.queueSubmit 0) (told 4))).disp.queues.map (·.rtail) = [4]
    ∧ (after (exec (.queueSubmit 0) (told 1))).disp.queues.map (·.rtail) = [1] := by decide +kernel
/-- A header that passes R26 is Waiting; one with no grain is done at once. -/
theorem test_admission : freeLaunchSlot (submitted 0) = some 0 ∧ (resident (submitted 0) 0 0).isSome = true
    ∧ ((launchAt (after (exec (.admission 0 0) (submitted 0))) 0).map fun l => (l.state, l.hdrAddr, l.budget, l.region)) = some (.waiting, 0x40000, 1000#32, ⟨0, 0, 0, 0⟩)
    ∧ (launchAt (after (exec (.admission 0 0) (words (submitted 0) [(0x40050, 0)]))) 0).isNone = true := by decide +kernel
/-- The launch just admitted, Waiting in slot 0, with header bits as given, beside others. -/
def waiting (w0 : Word) (more : List (Nat × Launch)) : State :=
  let s := after (exec (.admission 0 0) (submitted w0))
  { s with launches := s.launches ++ more }
def clsd (c : Word) : Word := c <<< 36
def otherL (cls : Word) (st : LState) : Launch := { launch (clsd cls) with state := st }
def heldBy (k : Nat) (s : State) : State := modCl s 0 fun x => { x with holder := some k }
theorem test_region_take : ((launchAt (waiting 0 []) 0).map fun l => (l.state, l.bwPending, lbw l, lclusters l)) = some (.waiting, false, false, [0])
    ∧ ((launchAt (after (exec (.regionTake 0) (waiting 0 []))) 0).map fun l => (l.state, l.boxes.length)) = some (.running, 1)
    ∧ (getCl (after (exec (.regionTake 0) (waiting 0 []))) 0).holder = some 0
    ∧ (let s := waiting 0 [(1, otherL 1 .waiting)]
       allFree s [0] = true ∧ ((launchAt s 0).map fun l => firstClaim s 0 l [0]) = some true)
    ∧ (let s := heldBy 1 (waiting (clsd 3) [(1, otherL 1 .running)])
       allFree s [0] = false ∧ ((launchAt s 0).map lclass) = some 3 ∧ ((launchAt (after (exec (.regionTake 0) s)) 1).map (·.state)) = some .draining)
    ∧ (let s := modCore (waiting 0x400000000#64 []) 8 fun k => { k with bmap := [(15, bmEntry false 0 1)] }
       ((launchAt s 0).map fun l => lbw l && (lclusters l).any (bwTaken s)) = some true ∧ (launchAt (after (exec (.regionTake 0) s)) 0).isNone = true) := by decide +kernel
/-- A launch of class 3 waits for the region of one of class 0 whose root retires in this cycle; a reserved leaf given up (R340, R352). -/
def endingRoot : State := modLaunch (modCore (heldBy 1 (waiting (clsd 3) [(1, otherL 1 .running)])) 8 fun k => { k with run := none }) 1
  fun l => { l with boxes := [(0, { box := { box0 8 with name := 0 }, phase := .ending, cid := 0, seqno := 0, outcome := 1 })] }
theorem test_root_due : (launchAt endingRoot 1).map (rootDue endingRoot 1) = some true ∧ after (exec (.regionTake 0) endingRoot) = endingRoot
    ∧ (let s := heldBy 1 (waiting (clsd 3) [(1, otherL 1 .running)]); (launchAt s 1).map (rootDue s 1) = some false) := by decide +kernel
/-- A launch of class 0 holds cluster 0, with its slice over, and another of the class given waits. -/
def sliced (now : Nat) (more : List (Nat × Launch)) : State :=
  { modLaunch (at_ 8 .handler []) 0 fun l => { l with sliceEnd := some 5 } with clk := { ns := now }, launches := [(0, { launch 0 with sliceEnd := some 5 })] ++ more }
theorem test_slice_end : (launchAt (sliced 5 []) 0).map (fun l => (l.state, l.sliceEnd)) = some (.running, some 5)
    ∧ after (exec (.sliceEnd 0) (sliced 4 [])) = sliced 4 []
    ∧ ((launchAt (after (exec (.sliceEnd 0) (sliced 5 [(1, otherL 0 .waiting)]))) 0).map (·.state)) = some .draining
    ∧ ((launchAt (after (exec (.sliceEnd 0) (sliced 5 []))) 0).map fun l => (l.state, l.sliceEnd)) = some (.running, some 1000005) := by decide +kernel
/-- Nothing of a draining launch is left but its save. -/
def drained : State := modLaunch (modCore (words (at_ 8 .handler []) [(0x50008, 0x10000#64)]) 8 fun k => { k with run := none, bmap := [], holders := [] }) 0
  fun l => { l with state := .draining, hdr := l.hdr.set 28 0x50000#64 }
def saving : State := modLaunch (modCl drained 0 fun x => { x with sets := [] }) 0 fun l => { l with state := .saving }
theorem test_quiescence : ((launchAt drained 0).map fun l => (l.state, quiet drained 0 l)) = some (.draining, true)
    ∧ ((launchAt (after (exec (.quiescence 0) drained)) 0).map (·.state)) = some .saving
    ∧ ((after (exec (.quiescence 0) drained)).net.map fun p => (hDestCore p.hdr, p.payload)) = [(8, [0])]
    ∧ ((launchAt (at_ 8 .handler []) 0).map fun l => quiet (at_ 8 .handler []) 0 l) = some false := by decide +kernel
theorem test_save : (match launchAt saving 0 with
      | some l => l.state = .saving && saversDone saving l && (match writeAreas 0 (lclusters l) saving with
          | (u, .ok ()) => ((launchAt u 0).map fun x => (x.state, (launchAt (finishSave u 0 x) 0).map (·.state))) = some (.saving, some .saved)
          | _ => false)
      | none => false) = true := by decide +kernel
/-- A saved launch whose block holds no area. -/
def saved : State := words (modLaunch (modCl saving 0 fun x => { x with holder := none }) 0 fun l => { l with state := .saved })
  [(0x50000, 0x0102000000000000#64), (0x50010, 1152#64)]
theorem test_restore : (match launchAt saved 0 with
      | some l => allFree saved [0] && !(firstClaim saved 0 l [0]) && shiftOk saved l ⟨0, 0⟩ && !(shiftOk saved l ⟨1, 0⟩)
          && (match readBlock saved l with
            | (u, some (_, as)) => framesReady u ⟨0, 0⟩ as && setsReady u ⟨0, 0⟩ as
            | _ => false)
      | none => false) = true
    ∧ ((launchAt (after (exec (.restore 0 ⟨0, 0⟩) saved)) 0).map (·.state)) = some .running
    ∧ (getCl (after (exec (.restore 0 ⟨0, 0⟩) saved)) 0).holder = some 0 := by decide +kernel
def replaying : State := modLaunch drained 0 fun l => { l with state := .replaying, ids := 7, hdr := l.hdr.set 0 (l.hdr.headD 0 ||| 0x800000000#64) }
theorem test_replay : runningOf replaying 0 = [] ∧ busySlot replaying 0 = false ∧ runningOf (at_ 8 .handler []) 0 ≠ []
    ∧ ((launchAt (after (exec (.replayStart 0) replaying)) 0).map fun l => (l.state, l.replay, l.ids, lclusters l)) = some (.running, true, 0, [0]) := by decide +kernel

/-- A running launch with boxes by name, cluster 0's engine open. -/
def boxed (bs : List (Nat × BoxRec)) : State := modLaunch drained 0 fun l => { l with state := .running, boxes := bs }
def rec_ (name : Nat) (ph : BoxPhase) (out : Nat) : BoxRec := { box := { box0 8 with name := BitVec.ofNat 64 name }, phase := ph, cid := 0, seqno := 0, outcome := out }
/-- The children of the root are 2 and 3 as names of depth 1: a parent with two children to end. -/
def left_ : Nat := (childName 0 false).toNat
def right_ : Nat := (childName 0 true).toNat
theorem test_box_arrives : let s := boxed [(left_, rec_ left_ (.travelling 1) 0), (right_, rec_ right_ (.travelling 1) 0)]
    (travellers s).map (fun q => (q.1, q.2.box.name.toNat)) = [(0, left_), (0, right_)] ∧ siblingFirst s 0 (rec_ left_ (.travelling 1) 0) = false
    ∧ siblingFirst s 0 (rec_ right_ (.travelling 1) 0) = true ∧ after (exec (.boxReachesSpurEngine 1) s) = s
    ∧ engineOpen drained 0 0 = false ∧ (getCl (after (exec (.boxReachesSpurEngine 0) s)) 0).nextSeq = 1 := by decide +kernel
/-- A box whose cluster took one of source 5 in this cycle: none of a lower source arrives after it (R52). -/
def crossing (src : Nat) : State := modCl (boxed [(left_, rec_ left_ (.travelling src) 0)]) 0 fun x => { x with lastBox := some (0, 5) }
theorem test_box_sources : after (exec (.boxReachesSpurEngine 0) (crossing 4)) = crossing 4 ∧ cycOfCl (crossing 4) 0 = 0
    ∧ (getCl (after (exec (.boxReachesSpurEngine 0) (crossing 6))) 0).lastBox = some (0, 6) := by decide +kernel
def reservedLeaf : State := modLaunch (setUse drained 0 2 (.reserved 0 0)) 0 fun l =>
  { l with state := .running, boxes := [(0, { rec_ 0 .leafReserved 0 with sets := [2] })] }
theorem test_unreserve : ((launchAt (unreserveLeaf reservedLeaf 0 0) 0).bind fun l => (getBox l 0).map fun b => (b.phase, b.sets)) = some (.leafWait, [])
    ∧ (getSet (getCl (unreserveLeaf reservedLeaf 0 0) 0) 2).use = .free := by decide +kernel
/-- The last child of a parent without a join retires: the parent can retire; one that runs cannot (R48, R52). -/
theorem test_box_retire : let parent := rec_ 0 (.split 2) 0
    let s (ph : BoxPhase) (out : Nat) := boxed [(0, parent), (left_, rec_ left_ ph out)]
    [0, 1, 2, 3].all (fun out => (launchAt (s .ending out) 0).any fun l => canRetire (s .ending out) 0 l (rec_ left_ .ending out)) = true
    ∧ ((launchAt (s .ruling 0) 0).any fun l => canRetire (s .ruling 0) 0 l (rec_ left_ .ruling 0)) = false
    ∧ depthOf (BitVec.ofNat 64 left_) ≠ 0 ∧ parentName (BitVec.ofNat 64 left_) = 0 ∧ isRight (BitVec.ofNat 64 right_) = true
    ∧ ((launchAt (after (exec (.boxRetire 0 (BitVec.ofNat 64 left_)) (s .ending 1))) 0).bind fun l => getBox l 0).map (fun p => (p.phase, p.box.lstat))
      = some (.split 1, 1) := by decide +kernel
/-- The oldest pending box of cluster 0's engine was spilled. -/
def spilt : State := modCl (boxed [(0, { rec_ 0 .pending 0 with spilled := true })]) 0 fun x => { x with spillArea := some 0x100 }
theorem test_box_reload : ((launchAt spilt 0).map fun l => reloadDue spilt l 0) = some true ∧ engineOpen spilt 0 0 = true
    ∧ (getCl spilt 0).holder = some 0 ∧ ((launchAt (boxed []) 0).map fun l => reloadDue (boxed []) l 0) = some false := by decide +kernel
def clearing (now : Nat) : State := { modCl drained 0 (fun x => { x with sets := [(2, { use := .clearing 9 })], holder := none }) with clk := { cyc := [(0, now)] } }
theorem test_set_free : (getSet (getCl (clearing 8) 0) 2).use = .clearing 9 ∧ cycOfCl (clearing 8) 0 < 9 ∧ cycOfCl (clearing 9) 0 = 9
    ∧ (getSet (getCl (after (exec (.setFree 0 2) (clearing 9))) 0) 2).use = .free ∧ (getSet (getCl (freeDue (clearing 9) 0) 0) 2).use = .free
    ∧ (getSet (getCl (freeDue (clearing 8) 0) 0) 2).use = .clearing 9 ∧ (getCl (clearing 8) 0).holder = none := by decide +kernel

/-- A record for a ring at 0x60000 of sixteen slots whose TAIL is given, HEAD 0. -/
def deferredAt (tail : Word) (held : Bool) : State :=
  let d : Deferred := { slot := 0, part := 0, ring := 0x60000, hdrAddr := 0, lid := 9, stat := 0, drops := 0, fsum := 0, digest := 0, held := held }
  { words paged [(0x60000, 0x61000#64), (0x60008, 0x0000000100000010#64), (0x60018, tail)] with disp := { (default : Dispatch) with deferred := [d, d] } }
theorem test_deferred : [deferredAt 0 false, deferredAt 0 true].all (fun s => s.disp.deferred.head?.any fun d => (tryRecord s d).2) = true
    ∧ ((deferredAt 16#64 false).disp.deferred.head?.any fun d => (tryRecord (deferredAt 16#64 false) d).2) = false
    ∧ (after (exec (.recordDeferredWrite 0) (deferredAt 0 false))).disp.deferred.length = 1 := by decide +kernel
def ringed (tail : Word) : State := modPart (words paged [(0x60000, 0x61000#64), (0x60008, 4#64), (0x60010, 50#64), (0x60018, tail), (0x60020, 0x80000003#64)]) 0 fun x =>
  { x with desc := put (put x.desc 8 0x60000#64) 9 0x60000#64, fwait := [default], dwait := [default] }
theorem test_fault_ring : ringFull (ringed 4#64) (partWord (ringed 4#64) 0 8).toNat = true ∧ ringFull (ringed 0) (partWord (ringed 0) 0 8).toNat = false
    ∧ ringFull (ringed 0) (partWord (ringed 0) 0 9).toNat = false ∧ (getPart (after (exec (.faultRingWrite 0 false) (ringed 0))) 0).fwait = [] := by decide +kernel
def timed (now : Nat) : State := { ringed 1#64 with
  disp := { (default : Dispatch) with rings := [{ part := 0, ring := 0x60000, virt := false, last := 0, oldest := some 10 }] }, clk := { ns := now } }
theorem test_ring_timer : (timed 60).disp.rings.map (·.oldest) = [some 10] ∧ (after (exec (.ringInterruptTimer 0) (timed 59))) = timed 59
    ∧ (after (exec (.ringInterruptTimer 0) (timed 60))).host.irqs.length = 1 := by decide +kernel
/-- A window of line 5 in slice 0, open since mesh cycle 7, for core 8. -/
def windowed (now : Nat) : State :=
  { modCore (at_ 8 .handler []) 8 (fun k => { k with wait := some (.lines (some (5, 0)) []) }) with
    slices := [(0, { windows := [{ line := 5, opened := 7, reply := some 9, cores := [8] }] })], clk := { mesh := now } }
theorem test_coalesce : ((getSl (windowed 71) 0).windows.find? fun w => w.line = 5).isSome = true ∧ (windowed 70).clk.mesh < 7 + 64
    ∧ (match (getCore (windowed 71) 8).wait with | some (.lines (some (5, 0)) []) => true | _ => false) = true ∧ (getSl (windowed 71) 1).windows = []
    ∧ (getCore (windowed 71) 8).prefs = []
    ∧ (match (getCore (after (exec (.coalesceReply 0 5) (windowed 71))) 8).wait with
      | some (.lines none [(5, d)]) => d == 9
      | _ => false) = true := by decide +kernel
/-- No write has come: the reply is the line as it stands. -/
def windowedRaw : State := { windowed 71 with slices := [(0, { windows := [{ line := 5, opened := 7, reply := none, cores := [8] }] })], mem := (memWriteWord paged 640 9).mem }
theorem test_coalesce_raw : (translate windowedRaw 0 0 640 .read).2.isOk = true
    ∧ (match (getCore (after (exec (.coalesceReply 0 5) windowedRaw)) 8).wait with
      | some (.lines none [(5, d)]) => d == 9
      | _ => false) = true := by decide +kernel
def invaling (l : List XCmd) : State := modPart (modCore (at_ 8 .system []) 8 fun k => { k with wait := some (.inval none) }) 0 fun x =>
  { x with desc := put x.desc 6 0x70000#64, xinv := l }
theorem test_xinv : (getPart (invaling [⟨8, 0, 0, 0, 0x8000000000000000#64⟩]) 0).xinv.length = 1
    ∧ (getPart (after (exec (.xinvCommand 0) (invaling [⟨8, 0, 0, 0, 0x8000000000000000#64⟩]))) 0).xinv = [] ∧ (getPart (invaling []) 0).xinv = []
    ∧ (getCore (invaling []) 8).wait = some (.inval none) ∧ invalLine 0x8000000000000000#64 7 = true ∧ invalLine 0x0000000000010002#64 1500 = true
    ∧ invalLine 0x0000000000010002#64 1536 = false := by decide +kernel
/-- The exchange on XINV replies with the old word; where its release finds a full record, it raises (R194, R360). -/
def stuffed : State := modPart (invaling []) 0 fun x => { x with rel := [(0xE00, (List.range 32).map fun i => { (default : Rel) with who := ⟨i + 100, 0⟩ })] }
theorem test_xinv_reply : let q : XCmd := ⟨8, 0, 0, 0x70000, 0x8000000000000000#64⟩
    let d := (taskOf { invaling [] with cur := 8 }).det
    let t := after (exec (.xinvCommand 0) (modPart stuffed 0 fun x => { x with xinv := [q] }))
    (relMerged { invaling [] with cur := 8 } (relOf (invaling []) 0 0xE00) d (Machine.carried d (some .sys))).isSome = true
    ∧ (relMerged { stuffed with cur := 8 } (relOf stuffed 0 0xE00) d (Machine.carried d (some .sys))).isNone = true
    ∧ (invalMerged (invaling []) 0 q).isSome = true ∧ (invalMerged stuffed 0 q).isNone = true
    ∧ (acqFits { invaling [] with cur := 8 } (relOf (invaling []) 0 0xE00) (some .sys)).isOk = true
    ∧ (match (getCore (invalReply (invaling []) 0 q []) 8).wait with | some (.inval (some (some v))) => v == (0, []) | _ => false) = true
    ∧ memWord (invalReply (invaling []) 0 q []) 0x70000 = 0x8000000000000000#64
    ∧ (match (getCore t 8).wait with | some (.inval (some none)) => true | _ => false) = true ∧ memWord t 0x70000 = 0 := by decide +kernel
theorem test_scrub : let q : Scrub := { (default : Scrub) with stack := 3, corrected := [0x3000] }
    (Instr.patrolScrub q).wellFormed = true ∧ 0x3000 / 4096 % 16 = q.stack ∧ State.reset.bad = []
    ∧ after (exec (.patrolScrub q) State.reset) = corrected State.reset 0 0 0 0x3000#64 := by decide +kernel

/-! ## Hosts, boots and health -/

def tx (p : Port) (a size : Nat) (data : Option (List Byte)) : HostTx := { port := p, addr := a, size := size, data := data }
def put8 (a : Nat) (v : Word) : HostTx := tx .a a 8 (some (bytesOf 8 v))
/-- Port A holds semaphore 0, and has transactions to apply. -/
def hosted (l : List HostTx) : State := { paged with host := { paged.host with sems := [(0, 0x8000000000000001#64)], tx := l } }
/-- A transaction of each kind. -/
def hostKinds : List (HostTx × TxKind) :=
  [ (put8 0x30000 1, .retrain), (tx .a 0x40008 8 (some (bytesOf 8 1#64)), .release), (put8 0x100 5, .config), (put8 0x10080 0x8000000000000001#64, .create),
    (put8 0x10000 0, .destroy), (put8 0x30100 2, .island), (put8 0x70 1, .attgo), (put8 0x100 0x8000000000000000#64, .thaw), (put8 0x41080 0, .inject 0),
    (put8 0x41080 0x2000000000000000#64, .inject 1), (put8 0x41080 0x4000000000000000#64, .inject 2), (put8 0x41080 0x6000000000000000#64, .inject 3),
    (put8 0x41080 0x8000000000000000#64, .inject 4), (put8 (2 ^ 47 + 0x1000) 7, .memory) ]
theorem test_host_kinds : (List.zip hostWrites hostKinds).all (fun q => q.1.2 == q.2.2 && txKind (hosted [q.2.1]) q.2.1 == q.2.2) = true
    ∧ txKind (hosted []) (tx .a 0x100 8 none) = .read ∧ txKind (hosted []) (tx .b 0x40008 8 none) = .acquire ∧ hostWrites.length = 14 := by decide +kernel
/-- Partition 0's window is its first MiB. -/
def apertured (l : List HostTx) : State := modPart (hosted l) 0 fun x => { x with desc := put x.desc 3 0x100000#64 }
theorem test_host_write : writeCheck (hosted []) (put8 0x100 5) = 0 ∧ writeCheck (hosted []) (put8 0x50000 5) = 1 ∧ isAperture 0x100 = false
    ∧ (regWrite (hosted []) false 0x100 5 (BitVec.allOnes 64)).2 = 0 ∧ (regWrite (hosted []) false 0x30120 1 (BitVec.allOnes 64)).2 = 1
    ∧ (let s := apertured []; let t := put8 (2 ^ 47 + 0x1000) 7
       writeCheck s t = 0 ∧ apertureAt s t = some 0x1000 ∧ lineBad s 0x1000 = false ∧ memWord (performWrite s t).1 0x1000 = 7#64) := by decide +kernel
theorem test_host_read : regRead (hosted []) false 0x100 = some 0 ∧ regRead (hosted []) false 0x50000 = none ∧ sizeOk (tx .a 0x100 8 none) = true
    ∧ shownAt (after (exec .hostRead (hosted [tx .a 0x50000 8 none]))) false = some (1, zeros 8)
    ∧ (let t := tx .a (2 ^ 47 + 0x20000) 8 none
       apertureAt (apertured []) t = some 0x20000 ∧ apertureAt (apertured []) (tx .a (2 ^ 47 + 0x100000) 8 none) = none ∧ sizeOk t = true
       ∧ txKind (apertured [t]) t = .read) := by decide +kernel
/-- A free semaphore read by both ports, with TIE naming A; taken by A (R383). -/
def semaphored (w : Word) (l : List HostTx) : State := { hosted l with host := { (hosted l).host with sems := [(1, w)] } }
theorem test_semaphore : let ra := tx .a 0x40008 8 none; let rb := tx .b 0x40008 8 none
    semRead (semaphored 0 [ra, rb]) false 1 = some ra ∧ semRead (semaphored 0 [ra, rb]) true 1 = some rb
    ∧ semOf (after (exec (.semaphoreAcquire 1 true false) (semaphored 0 [ra]))) 1 = 0x8000000000000001#64
    ∧ (semOf (after (exec (.semaphoreAcquire 1 true true) (semaphored 0 [ra, rb]))) 1).extractLsb' 60 4 = 0b1001#4
    ∧ semRead (semaphored 0x8000000000000001#64 [rb]) true 1 = some rb ∧ (0x8000000000000001#64).getLsbD 63 = true
    ∧ semBy (semOf (semaphored 0x8000000000000001#64 []) 1) false = true ∧ semBy (semOf (semaphored 0x8000000000000001#64 []) 1) true = false
    ∧ semOf (after (exec .semaphoreRelease (semaphored 0x8000000000000001#64 [put8 0x40008 1]))) 1 = 1#64 := by decide +kernel
/-- A's read and B's release of a semaphore that B holds reach it in one cycle: the release goes first (R383). -/
theorem test_release_goes_first : let ra := tx .a 0x40008 8 none; let wb := tx .b 0x40008 8 (some (bytesOf 8 1#64))
    let s := arrives (arrives (semaphored 0xC000000000000001#64 []) ra) wb
    let u := { s with clk := { s.clk with mesh := 1 } }
    s.host.tx = [{ wb with from_ := 1 }, { ra with from_ := 1 }] ∧ semRead u false 1 = none
    ∧ semRead (after (exec .semaphoreRelease u)) false 1 = some { ra with from_ := 1 } ∧ after (exec .semaphoreRelease s) = s := by decide +kernel
/-- A descriptor for partition 1: column group 1, tenant 1, memory from 32 MiB to 64 MiB. -/
def desc1 : List (Nat × Word) := [(1, 2#64), (2, 0x2000000#64), (3, 0x4000000#64), (4, 0x2000000#64), (5, 0x2010000#64), (6, 0x2020000#64), (7, 0x2100000#64),
  (8, 0x2030000#64), (9, 0x2040000#64), (12, 1#64)]
def w0Of1 : Word := 0x0494000000000000#64
def offered : State := setPart paged 1 { desc := desc1 }
def preparing (busy : Bool) : State := setPart (modCl paged 3 fun x => { x with sets := if busy then [(0, { use := .clearing 9 })] else [] }) 1
  { desc := (0, w0Of1) :: desc1, preparing := true }
theorem test_partition : let w (s : State) (w0 : Word) (i : Nat) := if i = 0 then w0 else partWord s 1 i
    descCheck offered 1 (w offered w0Of1) = 0 ∧ descCheck offered 1 (w offered 0) = 1 ∧ (groupClusters w0Of1).head? = some 3
    ∧ (createPart offered 1 0).2 = 1 ∧ (getPart (preparing false) 1).preparing = true ∧ (groupClusters (partWord (preparing true) 1 0)).head? = some 3
    ∧ (freeSets (getCl (preparing true) 3)).length ≠ 8 ∧ hasLaunch (at_ 8 .handler []) 0 = true ∧ hasLaunch paged 0 = false
    ∧ (getPart paged 0).preparing = false ∧ (partWord paged 0 0).getLsbD 62 = false := by decide +kernel
theorem test_partition_ready : (groupClusters (partWord (preparing false) 1 0)).all (fun cid => (freeSets (getCl (preparing false) cid)).length = 8) = true
    ∧ (getPart (after (exec (.partitionReady 1) (preparing false))) 1).valid = true ∧ (getCl (after (exec (.partitionReady 1) (preparing false))) 3).part = some 1 := by
  decide +kernel
def imaged (l : List (Nat × Word)) : State := modPort (modPart paged 0 fun x => { x with desc := put (put (put x.desc 1 1#64) 5 0x30000#64) 12 1#64 }) false fun y => { y with image := l }
/-- Port A injects: a handler parcel with tag 0x21 for core 8 of cluster 0; a launch into queue 0; a system parcel; an abort; while busy, BUSY. -/
theorem test_inject : let s := imaged [(0, 0x0210000800000000#64), (1, 0#64), (3, 0x42#64)]
    (bootOf s).stage = 8 ∧ (getPart s 0).valid = true ∧ (portOf false s).busy = false ∧ bit (partWord s 0 1) 0 = true ∧ bit (partWord s 0 1) 1 = false
    ∧ destIn s 0 (imageWord s false 0) = true ∧ faultCode 0x42 = true ∧ abortNamed s 0 0 0 = []
    ∧ queueOk (memWriteWord s 0x30000 0x8000000000000000#64) 0 0 = true
    ∧ (ictlWrite s false 0x2000000000000000#64).2 = 0 ∧ (ictlWrite s false 0x2010000000000000#64).2 = 4
    ∧ (ictlWrite (ictlWrite s false 0x2000000000000000#64).1 false 0).2 = 3 ∧ (bootOf State.reset).stage ≠ 8
    ∧ ((ictlWrite s false 0x2000000000000000#64).1.net.map fun x => (hKind x.hdr, hTenant x.hdr, x.src)) = [(0, 0, 13)] := by decide +kernel

def boot0 : BootInput := { flash := none, trained := false, populated := false }
theorem test_cold_reset : (bootOf (after (exec (.coldReset boot0) (at_ 8 .handler [])))).stage = 15
    ∧ (bootOf (after (exec (.coldReset boot0) (at_ 8 .handler [])))).err = 1 := by decide +kernel
/-- An image with a body of 128 bytes, by its words. -/
def imageOf (l : List (Nat × Word)) : State := modBoot State.reset fun b => { b with window := l.flatMap fun q => (List.range 8).map fun i => (q.1 + i, (bytesOf 8 q.2).getD i 0) }
theorem test_boot_format : formatOk State.reset = false ∧ formatOk (imageOf [(0, 0x4F58465700000001#64), (8, 0x0000008000000000#64)]) = true := by decide +kernel
theorem test_resets_asked : let w := put8 0 2; let g := put8 0 1
    txKind (hosted [w]) w = .warm ∧ writeCheck (hosted []) w = 0 ∧ txKind (hosted [g]) g = .go ∧ (bootOf (hosted [g])).stage ≠ 15
    ∧ (let s := modBoot (hosted [g]) fun b => { b with stage := 15 }
       (bootOf s).stage = 15 ∧ writeCheck { s with host := { s.host with tx := [] } } g = 0)
    ∧ (let g2 := tx .a 0 3 (some [2, 0, 0])
       txKind (hosted [g2]) g2 = .warm ∧ writeCheck (hosted []) g2 ≠ 0) := by decide +kernel

def sensed (i : Nat) (x : Island) : State := modIsland State.reset i fun _ => x
/-- At 100 degrees an island drops a point; at 90 it climbs to the one asked for; between it stays (R414). -/
theorem test_throttle : (getIsland (sensed 1 { point := 1 }) 1).changing = false ∧ (getIsland (sensed 1 { point := 2 }) 1).wanted < 2
    ∧ (getIsland (after (exec (.thermalThrottle 1 800#16) (sensed 1 { point := 1 }))) 1).target = 2
    ∧ (getIsland (after (exec (.thermalThrottle 1 720#16) (sensed 1 { point := 2 }))) 1).target = 1
    ∧ (getIsland (after (exec (.thermalThrottle 1 760#16) (sensed 1 { point := 1 }))) 1).changing = false := by decide +kernel
theorem test_point_done : let s (w : Nat) := sensed 1 { point := 0, wanted := w, target := 2, changing := true }
    (getIsland (after (exec (.pointChangeDone 1) (s 2))) 1).changing = false ∧ (getIsland (after (exec (.pointChangeDone 1) (s 3))) 1).target = 3 := by decide +kernel
theorem test_trip : (bootOf (after (exec (.thermalTrip 14 880#16) State.reset))).stage = 14 ∧ (getDie (after (exec (.thermalTrip 14 880#16) State.reset)) 2).tripped = true
    ∧ (let s := after (exec (.thermalTrip 2 880#16) State.reset)
       (getDie s 0).tripped = true ∧ halted s (.admission 0 0) = true ∧ halted s (.taskStart 8) = true ∧ halted s (.copyOperation 1) = true
       ∧ mayIssue s 8 = false)
    ∧ (getIsland (after (exec (.thermalThrottle 4 900#16) State.reset)) 4).sensor = 900 := by decide +kernel
/-- 1,000 powered hours, and a drift of 5,000: 1,000 × 45,000 / 5,000 hours are left (R415). -/
theorem test_wear : (getIsland (after (exec (.wearUpdate 1 5000#16 1000) State.reset)) 1).eol = 9000#32
    ∧ (getIsland (after (exec (.wearUpdate 1 5000#16 999) State.reset)) 1).eol = 0xFFFFFFFF#32 := by decide +kernel
theorem test_link_down : let s := semaphored 0x8000000000000001#64 [tx .a 0x100 8 none, tx .b 0x100 8 none]
    (after (exec (.linkDown 0) s)).host.tx.length = 1 ∧ (semOf (after (exec (.linkDown 0) s)) 1).getLsbD 63 = false := by decide +kernel

/-! ## Clause by clause: states that meet what single clauses ask -/

/-- Scale parcels that wait at a tile of cluster 1 hold buffers of its X-core 20, and of no other core (R141, R151). -/
def scalesWait : State := modTile (at_ 8 .handler []) 4 fun x => { x with scaleWait := List.replicate 16 scale }
theorem test_scale_buffers : tileOfCore 20 = 4 ∧ buffers scalesWait 20 = 16 ∧ buffers scalesWait 16 = 0 ∧ buffers scalesWait 4 = 0
    ∧ (let p : Parcel := { scale with hdr := mkHdr 3 8 (coreIdOf 20) 0 0 2 none 0 }
       (after (exec (.scaleParcel 0) { scalesWait with net := [p], clusters := (1, { part := some 0, holder := some 0 }) :: scalesWait.clusters })).net.map (·.waits) = [true]) := by
  decide +kernel
/-- The core is to issue the recvp of the spec's word (R158, R276): a parcel of tagged data waits for it. -/
def posts : State := modLaunch (travelling 8 [parcel 2 0x44 8 [7]]) 0 fun l =>
  { l with code := (List.range 8).map fun i => (0x20000 + i, byteAt 0xB580040050440100#64 i) }
theorem test_posts_first : postsFirst posts 8 = true ∧ postsFirst (travelling 8 []) 8 = false ∧ after (exec (.taggedDataParcel 0) posts) = posts := by
  decide +kernel
/-- The effects of the record instructions: a record of a task, of a core whose frame 1 it names, and boxes of each state. -/
theorem test_record_effects : (getCore (takeTask (parking .system) 8 ((parkedNamed (parking .system) 8 0x55).getD {})) 8).parked = []
    ∧ 256 + frameSize 8 ≤ (zeros (256 + frameSize 8)).length
    ∧ ((getCore (placeTask (at_ 8 .system []) (some 0) 8 (zeros (256 + frameSize 8))) 8).parked.map fun p => (p.slot, p.frame, p.wp)) = [(some 0, 0, frameBase 8 0)]
    ∧ (getCl stopped 0).spillArea = none
    ∧ ((launchAt (forgetBoxes reservedLeaf 0 0 [{ rec_ 0 .leafReserved 0 with sets := [2] }]) 0).map fun l => l.boxes.length) = some 0
    ∧ (getSet (getCl (forgetBoxes reservedLeaf 0 0 [{ rec_ 0 .leafReserved 0 with sets := [2] }]) 0) 2).use = .free := by decide +kernel
/-- Box words of the name and state given. -/
def boxRec (name st : Word) : List Word := ((List.replicate 48 (0 : Word)).set 8 name).set 9 (st <<< 56)
theorem test_box_words : ((launchAt stopped 0).map fun l => [0#64, 1#64, 3#64].map fun x => (boxOfWords l 0 (boxRec 5 x)).phase) = some [.pending, .leafWait, .heldRight]
    ∧ ((launchAt stopped 0).map fun l => decide ((([boxRec 0 0, boxRec 5 1].map (boxOfWords l 0)).map fun b => b.box.name).Nodup)) = some true := by
  decide +kernel
theorem test_room : ((launchAt (wide 1) 0).map fun l => (decide (pendingCount l 0 ≤ 510), decide (joinCount l 0 ≤ 255))) = some (true, true)
    ∧ ((launchAt (wide 1) 0).map fun l => decide (∀ right, getBox l (childName 0 right) = none ∧ ∀ e ∈ l.boxes, parentName e.2.box.name ≠ childName 0 right))
      = some true
    ∧ ((launchAt (wide 9) 0).map fun l => decide (pendingCount l 0 ≤ 511 ∧ joinCount l 0 ≤ 256)) = some true
    ∧ (freeSets (getCl (wide 9) 0)).length < 9 := by decide +kernel
/-- The vector registers of an X-core's other frames (R256), and scratchpad addresses and handles that fail R100's checks, one each. -/
def xStore (o : Word) : State := at_ 4 .leafX [(2, o)]
def spWith (e : BitVec 32) (who : Holder) (a : Word) : State :=
  modCore (at_ 0 .handler [(2, a)]) 0 fun k => { k with bmap := [(1, e)], holders := [(1, who)] }
theorem test_frame_vectors : classOf (idxOf 4) = .x ∧ frameBase 4 1 ≠ (taskOf (xStore 0)).wp
    ∧ (let o := BitVec.ofNat 64 (frameBase 4 1 + 384)
       o.toNat < frameBase 4 1 + 2432 ∧ frameBase 4 1 + 384 < o.toNat + 8 ∧ ready (.ld mCore) (xStore o) = true ∧ ready (.st mCore) (xStore o) = true
       ∧ (effAddr (xStore o) mCore).2 = .core ∧ parkedCode (after (exec (.ld mCore) (xStore o))) 4 = some 0x11) := by decide +kernel
theorem test_scratchpad_checks :
    [ (spWith (bmEntry false 0 1) (.task 0) 0x1_0000_0000#64, 0x11), (spWith (bmEntry false 0 1) (.task 0) 0x10080000#64, 0x11),
      (spWith 0 (.task 0) 0x10000000#64, 0x10), (spWith (bmEntry false 0 1) (.pending 0) 0x10000000#64, 0x10),
      (spWith (bmEntry false 0 1) (.resident 1) 0x10000000#64, 0x10), (spWith 0x80000001#32 (.task 0) 0x10000000#64, 0x13),
      (spWith (bmEntry false 0 1) (.task 0) 0x10043FFC#64, 0x11), (spWith (bmEntry false 0 1) (.resident 0) 0x10000004#64, 0x12) ].all (fun q =>
      ready (.ld mSp) q.1 && ready (.st mSp) q.1 && (effAddr q.1 mSp).2 == .sp && parkedCode (after (exec (.ld mSp) q.1)) 0 == some q.2
        && parkedCode (after (exec (.st mSp) q.1)) 0 == some q.2) = true := by decide +kernel
theorem test_entry_seen : let e := bmEntry false 0 1
    (spHandle (spWith e (.task 0) 0) 0x10000000#64).toOption = some (1, e) ∧ (spHandle (spWith e (.resident 0) 0) 0x10000000#64).toOption = some (1, e)
    ∧ entrySeen (spWith e (.resident 0) 0) 0 1 = (e, some (.resident 0)) ∧ (getCore (spWith e (.task 0) 0) 0).was = []
    ∧ (e.getLsbD 29, e.getLsbD 30) = (true, true)
    ∧ (getCore (noteWas (spWith e (.task 0) 0) 0 1) 0).was = [{ h := 1, cycle := 0, entry := e, holder := some (.task 0) }]
    ∧ entrySeen (detachCore (noteWas (spWith e (.task 0) 0) 0 1) 0 1) 0 1 = (e, some (.task 0)) := by decide +kernel
/-- Another core took the handle in this cycle: the entry seen is gone, and a give of it is refused (R110). -/
def takenAway : State := detachCore (noteWas (at_ 8 .handler []) 8 1) 8 1
theorem test_give_gone : bmapOf (getCore takenAway 8) 1 ≠ (entrySeen takenAway 8 1).1 ∧ bmV (entrySeen takenAway 8 1).1 = true
    ∧ [Instr.give fE, Instr.giveRes fE, Instr.giveRel fE].all (fun i => ready i takenAway) = true
    ∧ parkedCode (after (exec (.give fE) takenAway)) 8 = some 0x10 := by decide +kernel
/-- A ldq of a line that neither the L1 nor the slice holds, and one whose bytes are there; another entry of the queue waits in neither. -/
def mDq : FmtM := { fM with d := 16, sz := 5 }
theorem test_ldq_reserves : let s := devAt
    ready (.ldq mDq) s = true ∧ (effAddr s mDq).2 = .dev ∧ (effAddr s mDq).1.toNat % 128 = 0 ∧ (ldqParts s (effAddr s mDq).1 .dev).isOk = true
    ∧ ((ldqParts s (effAddr s mDq).1 .dev).toOption.map fun r => r.2.map (·.got)) = some [none] ∧ (getTile s 0).fills = []
    ∧ l1Line s 0x100100 = none ∧ (getCore s 0).l1 = [] ∧ keptAt s 0x100100 = none ∧ (taskOf s).fromMem = false ∧ lqHeld (getTile s 0) 0 = 0
    ∧ lqHeld (getTile (after (exec (.ldq mDq) s)) 0) 0 = 1 ∧ look [] (getTile (after (exec (.ldq mDq) s)) 0).lq 0 = []
    ∧ ((getSl (after (exec (.ldq mDq) s)) (homeAt s 0x100100)).windows.map fun w => (w.line, w.cores)) = [(0x2002, [0])] := by decide +kernel
theorem test_ldq_premises : (translate devAt (myPart devAt) (homeAt devAt 0x100100) 0x100100 .read).2.isOk = true
    ∧ (detectMine devAt (taskOf devAt).det.epoch (0x100100 / 128) (maskRange 0 128) false false).isOk = true
    ∧ ((ldqParts cached (effAddr cached mDq).1 .dev).toOption.map fun r => r.2.all fun p => p.got.isSome) = some true
    ∧ ((ldqParts spAt (effAddr spAt mLq).1 .sp).toOption.map fun r => r.2.all fun p => p.got.isSome) = some true
    ∧ (ldqParts queues (effAddr queues mLq).1 (effAddr queues mLq).2).isOk = true ∧ lqHeld (getTile queues 0) 0 = 8
    ∧ (let x : Tile := { fills := [{ q := 0, parts := [{ line := 7, win := 2, n := 128, got := none }] }] }
       x.fills.length = 1 ∧ (fillsGet x 7 2 5).lq = [(0, [5])] ∧ fillsGet x 7 3 5 = x) := by decide +kernel
/-- The line of devAt kept at its home slice by a strong store, with no page of XINV and no hardware-coherent bit. -/
def kept : State := after (exec (.sts fM) devAt)
/-- The steps of a fetching atomic and of a posted one, as the statement takes them. -/
theorem test_atomic_steps : (match strongAt kept 0x100100 8 .atomic (taskOf kept).det.epoch with
      | .ok (s1, x, bs) =>
        let d := (taskOf kept).det
        let r := relMerged s1 (relOf s1 (myPart s1) 0x2002) d (Machine.carried d none)
        let n := atomicNew 0 64 (natOfBytes bs) ((readS kept fM.b).toNat % 2 ^ 64) ((readS kept fM.d).toNat % 2 ^ 64)
        (acqFits kept (relOf s1 (myPart s1) 0x2002) none).isOk && r.isSome && kept.bad == [] && !x.hc && uncached kept (myPart kept) x == false
          && natOfBytes bs == 0x300 && n == 0x500 && x.pa / 128 != (partWord kept (myPart kept) 6).toNat / 128 && decide (x.pa < 2 ^ 40)
          && (observe s1 (relOf s1 (myPart s1) 0x2002) none).isOk && (keptAt kept 0x100100).isSome
      | .error _ => false) = true
    ∧ ((atomicNow kept 0 fM 0x100100 8 (taskOf kept).det none).toOption.map fun s => scalarOf s 4) = some 0x300#64 := by decide +kernel
theorem test_posted_steps : (match posting.posted with
      | q :: _ =>
        let ln := q.addr / 128
        let h := homeOf posting 0 ln
        match translate posting 0 h q.addr .atomic with
        | (s1, .ok x) => match detect s1 q.slot q.acq { id := q.id, op := 0 } q.stamp ln (maskRange (q.addr % 128) 8) true true with
          | .ok s2 => partOf posting (cidOf q.core) == 0 && q.rel.isNone && q.sz == 3 && !x.hc && q.notify.isNone
              && (keptAt (performPosted posting q) 0x100100).isSome && (relOf s2 0 ln).length == 0
          | .error _ => false
        | _ => false
      | [] => false) = true := by decide +kernel
/-- A write of an uncached line goes to memory (R121): the line of XINV. -/
theorem test_uncached : let s := modPart devAt 0 fun x => { x with desc := put x.desc 6 0x100100#64 }
    let x : Xl := { (default : Xl) with pa := 0x100100 }
    uncached s 0 x = true ∧ s.bad = [] ∧ memByte (sliceMerge s 0 0 0x2002 x (lineAt 3 [9]) (maskRange 3 1)) 0x100103 = 9#8 := by decide +kernel
/-- aaddn with a sys-scope release armed by a fence; its notification when the new value is the one waited for, and none else. -/
def notifies : Posted := { (default : Posted) with core := 8, slot := 0, addr := 0x100100, cmp := 5, notify := some (8, 0x21, 1) }
theorem test_aaddn_notifies : (notify devAt notifies 5 []).net.map (fun p => (hTag p.hdr, hClass p.hdr, p.payload)) = [(0x21#12, 1, [0x100100#64, 5#64])]
    ∧ (notify devAt notifies 6 []).net = []
    ∧ (let s := modTask devAt fun t => { t with det := { t.det with arm := some (.sys, 0) } }
       (taskOf s).det.arm.any (fun x => decide (x.1 = .sys)) = true ∧ ready (.aaddn fE) s = true
       ∧ ok (do let u ← ownLine s 0x2002; release u .sys) = true ∧ (after (exec (.aaddn fE) s)).posted.map (·.rel) = [some .sys]) := by decide +kernel
/-- An earlier posted operation of another task, or two aaddn, hold none up. -/
theorem test_posted_order : let q : Posted := { (default : Posted) with core := 8, slot := 0, addr := 0x100100, id := 1, rel := some .dev }
    (launchAt devAt 0).map (fun l => (actor l 1 == actor l 2)) = some false
    ∧ postedBefore devAt q { q with addr := 0x100200 } = true ∧ postedBefore devAt { q with id := 2 } { q with addr := 0x100200 } = false
    ∧ postedBefore devAt { q with notify := some (8, 0, 0) } { q with notify := some (8, 0, 0), addr := 0x100200 } = false
    ∧ postedBefore devAt { q with rel := none } { q with rel := none, addr := 0x100200 } = false := by decide +kernel
/-- A reset that is due begins once no pass runs or waits; scale parcels that came apply when no reset runs. -/
theorem test_reset_begins : let due (w : Option Pass) := setTile (at_ 4 .leafX []) 0 { resetDue := true, waiting := w, acc := [(5, 9)] }
    (getTile (due none) 0).running = [] ∧ (getTile (resetBegins (due none) 0) 0).resetEnd = some 64 ∧ (getTile (resetBegins (due none) 0) 0).acc = []
    ∧ resetBegins (due (some (pass12 0))) 0 = due (some (pass12 0))
    ∧ (let w (e : Option Nat) := setTile (at_ 4 .leafX []) 0 { resetEnd := e, scaleWait := [scale] }
       (getTile (scalesApply (w none) 0) 0).scaleWait = [] ∧ scalesApply (w (some 9)) 0 = w (some 9)
       ∧ scalesApply (at_ 4 .leafX []) 0 = at_ 4 .leafX []) := by decide +kernel
/-- A parcel delivered to a buffer and a counter that lie apart: the header and the payload, and the count (R157, R158). -/
def recvAt : Recv := { slot := 0, tag := 0x21, src := none, buf := 0x100#64, ctr := 0x200#64, set := none, ctrSet := none }
theorem test_deliver : let p := parcel 2 0x21 8 [7]
    let s := receiving []
    recvLoc 8 none recvAt.buf = .store 8 0x100 ∧ recvLoc 8 none recvAt.ctr = .store 8 0x200 ∧ ctrCores (.store 8 0x200) = [8] ∧ (getCore s 8).trigs = []
    ∧ locRead (deliver s 8 recvAt p) (.store 8 0x100) 16 = wordsBytes [p.hdr, 7] ∧ ctrValue (deliver s 8 recvAt p) (.store 8 0x200) = 1#64
    ∧ (incsOf (deliver s 8 recvAt p) (.store 8 0x200)).length = 1 ∧ p.payload.length ≤ 15 := by decide +kernel
theorem test_apart : Apart (.store 8 0x100) 16 (.store 8 0x200) 8 ∧ Apart (.store 8 0x300) 8 (.store 8 0x100) 16 ∧ Apart (.set 0 1 0) 8 (.store 8 0x200) 8 := by
  refine ⟨?_, ?_, ?_⟩ <;> simp [Apart]
/-- An operation that is to read line 5, which its slice lacks: it joins the line's window, and waits there (R122, R180). -/
def readsLine : EngRun :=
  { s := queued .xcopy copyWords, op := (engQueue (queued .xcopy copyWords) 0 0).headD default, needs := [(5, 640)], start := some (queued .xcopy copyWords) }
theorem test_engine_waits : let h := homeOf readsLine.s (engPart readsLine) 5
    let t := engEnd readsLine 0 0 none
    (getSl readsLine.s h).windows = [] ∧ (getSl t h).windows.map (fun w => (w.line, w.reply.isNone, w.engs)) = [(5, true, [(0, engParty readsLine)])]
    ∧ (engQueue t 0 0).length = 1 ∧ engJoin t readsLine (5, 640) = t ∧ engEnd { readsLine with start := none } 0 0 none ≠ t := by decide +kernel
/-- The runs of the statement's clauses need no line: their operands lie in sets. -/
theorem test_engine_needs : [(queued .xcopy copyWords, EngKind.copy), (queued .xfill fillWords, .fill), (queued .xcompact (compactWords 0x1000000001#64), .compact),
      (reducing 2, .reduce)].all (fun q => (engStart q.1 0 q.2).any fun r =>
      match engDesc r.1 64 with
      | (.ok (r1, _), _) => r1.needs.isEmpty && (match engOpen r1 64 with
        | (.ok (r2, _), _) => r2.needs.isEmpty
        | _ => false)
      | _ => false) = true
    ∧ engStart (queued .xcopy copyWords) 0 .fill = none := by decide +kernel
/-- Room in the ring, none, and the entry written (R336): at RTAIL 1 of four entries, and at 4. -/
theorem test_enqueue_room : let v (s : State) := queueRead s 0 0
    mem32 (v (submitted 0)) (queueAt (v (submitted 0)) 0 0 + 24) = 1 ∧ mem32 (v full) (queueAt (v full) 0 0 + 24) = 4
    ∧ (submitted 0).disp.stopped = [] ∧ (resident (submitted 0) 0 0).map (fun r => (r.rnent, r.rhead, r.rbase)) = some (4, 0, 0x31000)
    ∧ (resident full 0 0).map (·.rnent) = some 4 ∧ (unitWrite (v (submitted 0)) 0 0x31008 (bytesOf 8 0x40000#64)).2 = true
    ∧ queueAt (submitted 0) 0 0 + 28 ≤ 2 ^ 40 ∧ mem32 (queueWrite (submitted 0) 0 0 24 (2 ^ 32 + 3)) 0x30018 = 3
    ∧ (submitted 0).disp.held = [] ∧ ((resident (submitted 0) 0 0).map fun r => decide ((loadQueue (submitted 0) 0 0).2 = r)) = some true := by decide +kernel
/-- Rule entries beyond NRULES fail rows 1, 5 and 10 as well (R26, R59; entry 83). -/
def ruled (i : Nat) (v : Word) : Launch := { launch 0 with hdr := (launch 0).hdr.set (16 + i / 2) (v <<< (32 * (i % 2))) }
theorem test_rule_rows : (ruleEntry (ruled 9 0x300#64) 9).extractLsb' 8 2 ≠ 0#2 ∧ row1 (ruled 9 0x300#64) = false
    ∧ 2 ^ naxes (ruled 9 2#64) ≤ ruleFmask (ruled 9 2#64) 9 ∧ row5 (ruled 9 2#64) [] = false := by decide +kernel
/-- Two launches hold the clusters that one of class 3 wants: both drain. -/
def twoHolders : State :=
  let s := waiting (clsd 3) [(1, otherL 1 .running), (2, otherL 2 .running)]
  modCl (heldBy 1 (modLaunch s 0 fun l => { l with region := ⟨0, 0, 1, 0⟩ })) 1 fun x => { x with holder := some 2, part := some 0 }
theorem test_two_holders : ((launchAt twoHolders 0).map fun l => (lclusters l, lclass l, allFree twoHolders (lclusters l))) = some ([0, 1], 3, false)
    ∧ ([1, 2].all fun k => ((launchAt (after (exec (.regionTake 0) twoHolders)) k).map (·.state)) == some .draining) = true := by decide +kernel
/-- A drain gives up a reserved leaf and takes queued tree tasks from the run queues (R352). -/
def leafQueued : State := modCore reservedLeaf 8 fun k => { k with runq := [{ handlerQ 1 0 with kind := .leafA }, handlerQ 1 0x40#64] }
theorem test_drain : ((launchAt leafQueued 0).map fun l => (l.state, decide ((∀ e ∈ l.boxes, e.1 = e.2.box.name.toNat) ∧ (l.boxes.map (·.1)).Nodup), regionCores l)) = some (.running, true, (List.range 9).map (coreNo 0))
    ∧ ((launchAt leafQueued 0).bind fun l => (getBox l 0).map fun b => (b.box.name, b.phase, b.sets)) = some (0, .leafReserved, [2])
    ∧ ((launchAt (startDrain leafQueued 0) 0).bind fun l => (getBox l 0).map (·.phase)) = some .leafWait
    ∧ (getCore (startDrain leafQueued 0) 8).runq.map (·.pc) = [0x40#64] ∧ (getSet (getCl (startDrain leafQueued 0) 0) 2).use = .free := by decide +kernel
/-- The header of the save block is read and written at the end of a save and of a restore. -/
theorem test_save_header : (match unitRead saving 0 0x50000 128 with
      | (u, some b) => (unitWrite u 0 0x50000 (saveHeader 2 (le b 8 8) (le b 16 8) 0 (le b 28 2) 0 0 (timeNow u) 0)).2
      | _ => false) = true
    ∧ ((launchAt saving 0).map fun l => (l.part, savePtr l)) = some (0, 0x50000)
    ∧ (match launchAt saved 0 with
      | some l => match readBlock saved l with
        | (u, some (h, as)) =>
          (unitWrite (as.foldl (fun u a => restoreArea u 0 l ⟨0, 0⟩ a) u) 0 0x50000 (saveHeader 3 (le h 8 8) 128 (le h 24 4) 0 (le h 30 2)
            (recWord h 32) (recWord h 40) (le h 48 8))).2 && (dueAbort u 0 l).isNone && setsReady u ⟨0, 0⟩ as
        | _ => false
      | none => false) = true := by decide +kernel
/-- A set's image, attached again to handle 3 of core 1 and resident: the lowest free set takes it; a tile's image of zeros. -/
def setImage : List Byte := [1, 3, 0, 0] ++ bytesOf 4 0xE0000005#32 ++ [1] ++ zeros 119
theorem test_restore_set : (freeSets (getCl saved 0)).head? = some 0 ∧ le setImage 0 1 = 1 ∧ le setImage 1 1 % 16 = 3 ∧ le setImage 8 4 = 1
    ∧ (let t := restoreSet saved 0 0 [] 0 setImage
       (getSet (getCl t 0) 0).use = .attached 1 3 ∧ find (getCore t 1).holders 3 = some (.resident 0) ∧ bmSet (bmapOf (getCore t 1) 3) = 0) := by
  decide +kernel
/-- A task whose fault task was due when it was saved: it is queued when its core starts again. -/
def faultDue : State := modCore saving 8 fun k => { k with parked := [{ task 8 .handler with due := true }] }
theorem test_due_faults : ((getCore (dueFaults faultDue 0 8) 8).faultq.map fun q => (q.kind, q.pc)) = [(.fault, 0x20040#64)]
    ∧ (getCore (dueFaults faultDue 0 8) 8).parked.map (·.due) = [false]
    ∧ (let s := modCl saving 0 fun x => { x with stopped := [0] }
       (getCl (restartCluster s 0 [] ⟨0, 0⟩ 0) 0).stopped = []) := by decide +kernel
/-- A replay's premises: its clusters close, and it needs no bellwether. -/
theorem test_replay_premises : (match launchAt replaying 0 with
      | some l => l.state == .replaying && (match launchAt (clearBitmap ((lclusters l).foldl (fun u cid => modCl u cid fun x =>
          { x with holder := if cid = rootCluster l then x.holder else none, nextSeq := 0, spillArea := none })
          (closeRegion (recEvent replaying 0 8 l.part (rootCluster l) ((lidOf l).setWidth 64) l.last) 0 l)) l) 0 with
        | some l1 => !(lbw l1)
        | none => false)
      | none => false) = true := by decide +kernel

/-! ## The last child, the root, the records -/

/-- A parent with one child left, whose join rule is as given; with a sum above it; its spur engine open or stopped. -/
def lastChild (join mode : Nat) (anc : Bool) : State :=
  boxed [(0, { rec_ 0 (.split 1) 0 with join := join, box := { box0 8 with smode := mode, sumanc := anc } }), (left_, rec_ left_ .ending 0), (right_, rec_ right_ .ending 0)]
def parentIn (s : State) : Option BoxRec := (launchAt s 0).bind fun l => getBox l 0
theorem test_last_child : let name := BitVec.ofNat 64 right_
    [lastChild 31 0 false, lastChild 1 1 true].all (fun s => (parentIn (childRetired s 0 name 1 [])).map (fun p => (p.phase, p.box.rstat)) == some (.split 0, 1)) = true
    ∧ (parentName name, isRight name) = (0, true) ∧ (getCl (lastChild 1 0 false) 0).holder = some 0 ∧ engineOpen (lastChild 1 0 false) 0 0 = true
    ∧ (launchAt (lastChild 1 0 false) 0).map (fun l => pumpList l 0) = some [] ∧ (getCore (lastChild 1 0 false) 8).runq = []
    ∧ ((getCore (childRetired (lastChild 1 0 false) 0 name 1 []) 8).runq.map fun q => (q.kind, q.rule)) = [(.join, 1)]
    ∧ (parentIn (childRetired (lastChild 1 0 false) 0 name 1 [])).map (·.phase) = some .joining
    ∧ (let s := modCl (lastChild 1 0 false) 0 fun x => { x with stopped := [0] }
       engineOpen s 0 0 = false ∧ (parentIn (childRetired s 0 name 1 [])).map (·.phase) = some .joinPending) := by decide +kernel
/-- The right child that a sequential split holds back until the left one ends: on this cluster, on another, or spilled (R50, R53). -/
def sequential (sp : Bool) (cid : Nat) : State :=
  boxed [(0, { rec_ 0 (.split 2) 0 with box := { box0 8 with smode := 2 } }), (left_, rec_ left_ .ending 0),
    (right_, { rec_ right_ .heldRight 0 with spilled := sp, cid := cid })]
def rightIn (s : State) : Option BoxPhase := (launchAt s 0).bind fun l => (getBox l (BitVec.ofNat 64 right_)).map (·.phase)
theorem test_sequential : let name := BitVec.ofNat 64 left_
    isRight name = false ∧ childName 0 true = BitVec.ofNat 64 right_ ∧ childName 0 true ≠ 0
    ∧ boxMayArrive (sequential false 0) 0 0 = true ∧ rightIn (childRetired (sequential true 0) 0 name 1 []) = some .heldRight
    ∧ rightIn (childRetired (sequential false 1) 0 name 1 []) = some (.travelling 0)
    ∧ ((launchAt (childRetired (sequential false 0) 0 name 1 []) 0).bind fun l => (getBox l (BitVec.ofNat 64 right_)).map fun b => decide (b.phase = .heldRight)) = some false := by
  decide +kernel
/-- The root's outcome is there: alone; with a launch of a lower queue, or of a higher one, whose root retires in the same cycle; and after
one of a higher queue that was first by chance (R178). -/
def rootEnds (q : Nat) (more : List (Nat × Launch)) : State :=
  let s := boxed [(0, rec_ 0 .ending 0)]
  { modLaunch s 0 (fun l => { l with q := q }) with launches := (modLaunch s 0 fun l => { l with q := q }).launches ++ more }
def rootedL (q : Nat) : Launch := { launch 0 with q := q, region := ⟨1, 0, 1, 0⟩, boxes := [(0, rec_ 0 .ending 0)] }
theorem test_root_retires : let dueIn (s : State) := (launchAt s 0).map fun l => (l.state, rootDue s 0 l, othersFirst s 0 l)
    dueIn (rootEnds 1 []) = some (.running, true, false) ∧ dueIn (rootEnds 1 [(1, rootedL 0)]) = some (.running, true, true)
    ∧ dueIn (rootEnds 1 [(1, rootedL 2)]) = some (.running, true, false)
    ∧ (let s := { rootEnds 1 [] with disp := { (rootEnds 1 []).disp with lastDone := some (0, 2, 0) } }
       dueIn s = some (.running, true, true) ∧ s.clk.mesh = 0)
    ∧ after (exec (.boxRetire 0 0) (rootEnds 1 [(1, rootedL 0)])) = rootEnds 1 [(1, rootedL 0)]
    ∧ (launchAt (rootEnds 1 []) 0).map ldet = some false
    ∧ (launchAt (after (exec (.boxRetire 0 0) (rootEnds 1 []))) 0).isNone = true ∧ (getCl (after (exec (.boxRetire 0 0) (rootEnds 1 []))) 0).holder = none := by
  decide +kernel
/-- A run whose record goes to a ring with room, to a full one, and to none; a handler that still runs keeps the slot (R178, R200). -/
def ringedRun (tail : Word) : State := modLaunch (words (rootEnds 0 []) [(0x60000, 0x61000#64), (0x60008, 0x0000000100000010#64), (0x60018, tail)]) 0 fun l =>
  { l with hdr := l.hdr.set 29 0x60000#64 }
def recFor (s : State) : Option Deferred := (launchAt (closedRun s 0) 0).map fun l => recordOf 0 l 0 true
theorem test_completion_record : [(ringedRun 0, true), (ringedRun 16#64, false)].all (fun q =>
      (recFor q.1).any fun d => d.ring == 0x60000 && (tryRecord (flushSlices q.1 0) d).2 == q.2 && (putRecord (closedRun q.1 0) d).2 == q.2) = true
    ∧ (ringedRun 0).disp.deferred = [] ∧ mem32 (after (exec (.boxRetire 0 0) (ringedRun 0))) 0x60018 = 1
    ∧ ((launchAt (after (exec (.boxRetire 0 0) (ringedRun 16#64))) 0).map fun l => (l.state, l.recorded)) = some (.closing, false)
    ∧ (after (exec (.boxRetire 0 0) (ringedRun 16#64))).disp.deferred.length = 1 := by decide +kernel
theorem test_record_steps : (match unitRead (ringedRun 0) 0 0x60000 64 with
      | (s, some r) => ringOk r && le r 24 4 == 0 && le r 8 4 == 16 && (match unitWrite s 0 (le r 0 8) (zeros 32) with
        | (s, true) => (unitWrite s 0 0x60018 (bytesOfNat 4 1)).2
        | _ => false)
      | _ => false) = true := by decide +kernel
def closingRun (rec : Bool) (st : State) : State := modLaunch st 0 fun l => { l with state := .closing, recorded := rec }
theorem test_closing : busySlot (closingRun true drained) 0 = false ∧ runningOf (closingRun true drained) 0 = []
    ∧ (launchAt (settle (closingRun true drained) 0) 0).isNone = true ∧ (getCl (settle (closingRun true drained) 0) 0).holder = none
    ∧ settle (closingRun false drained) 0 = closingRun false drained
    ∧ runningOf (closingRun true (at_ 8 .handler [])) 0 ≠ [] ∧ settle (closingRun true (at_ 8 .handler [])) 0 = closingRun true (at_ 8 .handler []) := by
  decide +kernel
/-- A deterministic run whose digest record lies at 0x62000: with no REF yet, with the same, and with another; and its replay (R410). -/
def digested (dctl ref : Word) (rp : Bool) : State := modLaunch (words (rootEnds 0 []) [(0x62000, dctl), (0x62008, ref)]) 0 fun l =>
  { l with hdr := (l.hdr.set 0 (l.hdr.headD 0 ||| 0x800000000#64)).set 27 0x62000#64, digest := 5, replay := rp }
theorem test_digest_record : [(digested 0 0 false, 0x8000000000000000#64), (digested 0x8000000000000000#64 5 false, 0x8000000000000000#64),
      (digested 0x8000000000000000#64 6 false, 0xC000000000000000#64), (digested 0xC000000000000000#64 6 true, 0xE000000000000000#64),
      (digested 0xC000000000000000#64 5 true, 0xF000000000000000#64)].all (fun q =>
      ((launchAt q.1 0).any fun l => ldet l && digestPtr l == 0x62000 && match unitRead q.1 0 0x62000 64 with
        | (u, some b) => (unitWrite u 0 0x62000 b).2
        | _ => false) && memWord (rootRetired q.1 0) 0x62000 == q.2) = true
    ∧ ((launchAt (rootRetired (digested 0x8000000000000000#64 6 false) 0) 0).map fun l => (l.state, l.last)) = some (.replaying, 5) := by decide +kernel
/-- Why a spilled box is reloaded: the engine has room, and it is the next of its list, the next leaf, or a right child whose left sibling has
ended (R53). -/
def spilled1 (ph : BoxPhase) : State := modCl (boxed [(right_, { rec_ right_ ph 0 with spilled := true })]) 0 fun x => { x with spillArea := some 0x100 }
theorem test_reload_reasons : [BoxPhase.pending, .leafWait, .heldRight].all (fun ph => ((launchAt (spilled1 ph) 0).any fun l =>
      reloadDue (spilled1 ph) l 0 && spilledAt l 0 == 1 && owed l 0 == 0)) = true := by decide +kernel
/-! ## Lines delivered, dropped and written back -/

/-- Core 8's pref of line 5 waits for window 0: the reply goes into its L1, and to nothing else (R122, R262). -/
def preffing : State := modCore (at_ 8 .handler []) 8 fun k => { k with prefs := [(5, 0)] }
theorem test_deliver_line : let x : Xl := { (default : Xl) with pa := 650 }
    (getCore preffing 8).l1 = [] ∧ (getCore preffing 8).prefs.contains (5, 0) = true ∧ (getCore (windowed 71) 8).prefs = []
    ∧ (getCore (deliverLine preffing 8 5 0 x 9) 8).l1.map (fun l => (l.line, l.pa, l.data)) = [(5, 640, 9)] ∧ (getCore (deliverLine preffing 8 5 0 x 9) 8).prefs = []
    ∧ deliverLine (at_ 8 .handler []) 8 5 0 x 9 = at_ 8 .handler [] ∧ classOf (idxOf 0) = .a
    ∧ (let q := setTile (at_ 0 .handler []) 0 { fills := [{ q := 0, parts := [{ line := 5, win := 0, n := 128, got := none }] }] }
       (getTile (deliverLine q 0 5 0 x 9) 0).lq = [(0, [9])]) := by decide +kernel
theorem test_deliver_engine : let s := queued .xcopy copyWords
    let o := (engQueue s 0 0).headD default
    let w : Party := { id := o.id, op := o.no }
    (getCl s 0).eng0 = [o] ∧ ((getCl (deliverEng s 0 w 5 9) 0).eng0.map (·.lines)) = [[(5, 9)]] := by decide +kernel
theorem test_window_premises : ((getSl (windowed 71) 0).windows.map fun w => (w.cores, decide w.cores.Nodup, w.no, w.reply)) = [([8], true, 0, some 9)]
    ∧ (translate (modSl (windowed 71) 0 fun y => { y with windows := [] }) (partOf (windowed 71) 0) 0 640 .read).2.isOk = true := by decide +kernel
/-- A dirty line of a slice written back, and dropped; one of an L1 and one of a slice in a range that is invalidated (R121, R360). -/
def dirtySlice : State := { devAt with slices := [(0, { lines := [(0x2002, { (default : SLine) with pa := 0x100100, data := 0x0709, dirty := 1 })] })] }
theorem test_flush_line : let t := flushLine dirtySlice 0 0x2002
    lineBad dirtySlice 0x100100 = false ∧ memByte t 0x100100 = 9#8 ∧ memByte t 0x100101 = 0#8 ∧ ((getSl t 0).lines.map fun e => e.2.dirty) = [0]
    ∧ (getSl (evict dirtySlice 0 0x2002) 0).lines = [] ∧ memByte (evict dirtySlice 0 0x2002) 0x100100 = 9#8
    ∧ (dirtySlice.launches.all fun e => (find e.2.checks 0x2002).isNone) = true := by decide +kernel
theorem test_invalidate : let s := { (modCore dirtySlice 0 fun k => { k with l1 := [held] }) with
      clusters := [(0, { part := some 0 })], slices := [(0, { lines := [(0x2002, { (default : SLine) with pa := 0x100100, data := 9, dirty := 1 }), (1, { (default : SLine) with pa := 128 })] })] }
    let t := invalidate s 0 0x0000000000100001#64
    invalLine 0x0000000000100001#64 0x2002 = true ∧ clustersOf s 0 = [0] ∧ (getCore t 0).l1 = [] ∧ (getSl t 0).lines.map (·.1) = [1] ∧ memByte t 0x100100 = 9#8 := by
  decide +kernel
theorem test_invalidation_premises : (invaling []).bad = [] ∧ lineBad (invaling []) 0x70000 = false ∧ (partWord (invaling []) 0 6).toNat = 0x70000
    ∧ State.reset.bad = [] ∧ State.reset.flips = [] ∧ linesRead (ringed 0) 0x60000 64 = ringed 0 ∧ stackStopped (ringed 0) 0x60000 = false
    ∧ stackStopped (modDie (ringed 0) 0 fun d => { d with tripped := true }) 0x60000 = true := by decide +kernel

/-! ## Transactions that arrive, and the health of islands -/

/-- Transactions of the two ports that arrive in one mesh cycle: at different arbiters, and at the same one, by its tie bit (R379). -/
theorem test_arrival_ties : let a := put8 0x100 5; let b := tx .b 0x108 8 (some (bytesOf 8 (7 : Word)))
    let f (x : HostTx) : HostTx := { x with from_ := 1 }
    (arrives (hosted []) a).host.tx = [f a] ∧ arbiterOf a = arbiterOf b ∧ arbiterOf a ≠ 64 ∧ portB a ≠ portB b
    ∧ look false (hosted [f a]).host.ties (arbiterOf b) = false ∧ (arrives (hosted [f a]) b).host.tx = [f a, f b]
    ∧ (let s := arrives (hosted [f a]) b
       look false s.host.ties (arbiterOf b) = true ∧ (arrives { s with host := { s.host with tx := [f b] } } a).host.tx = [f b, f a])
    ∧ (let c := tx .b 0x40008 8 none
       arbiterOf c ≠ arbiterOf a ∧ (arrives (hosted [f a]) c).host.tx = [f a, f c]) := by decide +kernel
theorem test_not_yet : let t : HostTx := { put8 0x100 5 with from_ := 9 }
    (hosted [t]).clk.mesh < t.from_ ∧ after (exec .cfgWrite (hosted [t])) = hosted [t] ∧ after (exec .hostRead (hosted [t])) = hosted [t] := by decide +kernel
/-- The other port's read of the same semaphore, come no later or later. -/
theorem test_rivals : let ra := tx .a 0x40008 8 none; let rb : HostTx := { tx .b 0x40008 8 none with from_ := 1 }
    rivalRead (semaphored 0 [ra, rb]) ra = false ∧ rivalRead (semaphored 0 [ra, rb]) rb = true
    ∧ after (exec (.semaphoreAcquire 1 false true) (semaphored 0 [ra, rb])) = semaphored 0 [ra, rb]
    ∧ after (exec (.semaphoreAcquire 1 true true) (semaphored 0 [ra, rb])) = semaphored 0 [ra, rb] := by decide +kernel
/-- A port's abort injection names the running launch of its identifier, and aborts it (R385, R386). -/
def aborting : State :=
  { imaged [(1, 0#64), (2, 0#64), (3, 0x42#64)] with cores := (at_ 8 .handler []).cores, launches := [(0, launch 0)], clusters := (at_ 8 .handler []).clusters }
theorem test_inject_abort : abortNamed aborting 0 0 0 = [0] ∧ (launchAt aborting 0).map (fun l => (l.state, rootDue aborting 0 l)) = some (.running, false)
    ∧ (let r := ictlWrite aborting false 0x8000000000000000#64
       r.2 = 0 ∧ (portOf false r.1).aborted = 1 ∧ (getCore r.1 8).run = none ∧ ((launchAt r.1 0).map fun l => l.abort)
         = (launchAt (hostAborts aborting 0x42 0) 0).map fun l => l.abort) := by decide +kernel
/-- The injected parcel of a busy port, accepted or dropped. -/
theorem test_port_free : let s := (ictlWrite (imaged [(0, 0x0210000800000000#64)]) false 0x2000000000000000#64).1
    (s.net.head?.map fun p => (p.port, (portOf false s).busy, (portOf false (portDone s p)).busy, (portOf false (dropParcel s 0 p 3)).busy))
      = some (some false, true, false, false) := by decide +kernel
/-- A warm reset's premises for a byte of memory: no dirty line of it, and no queue's head word there. -/
theorem test_warm_memory : let s := words paged [(0x9000, 7#64)]
    s.cores = [] ∧ s.slices = [] ∧ s.disp.queues = [] ∧ memByte (warmState s) 0x9000 = 7#8 := by decide +kernel
/-- Thermal control moves one point a millisecond; a hot island that was asked for a faster point keeps its own (R414). -/
theorem test_thermal_pace : let s (x : Island) (ns : Nat) : State := { sensed 1 x with clk := { ns := ns } }
    (getIsland (after (exec (.thermalThrottle 1 800#16) (s { point := 1, steppedAt := some 5 } 1000004))) 1).changing = false
    ∧ (getIsland (after (exec (.thermalThrottle 1 800#16) (s { point := 1, steppedAt := some 5 } 1000005))) 1).target = 2
    ∧ (getIsland (after (exec (.thermalThrottle 1 800#16) (s { point := 1 } 0))) 1).hot = true
    ∧ (getIsland (askPoint (s { point := 2, hot := true } 0) 1 0) 1).changing = false ∧ (getIsland (askPoint (s { point := 2 } 0) 1 0) 1).target = 0
    ∧ (getIsland (askPoint (s { point := 2, hot := true } 0) 1 3) 1).target = 3
    ∧ (getIsland (after (exec (.pointChangeDone 1) (s { point := 1, wanted := 0, target := 2, changing := true, hot := true } 0))) 1).changing = false
    ∧ (getIsland (after (exec (.pointChangeDone 1) (s { point := 1, wanted := 0, target := 2, changing := true } 0))) 1).target = 0
    ∧ (getIsland (after (exec (.thermalThrottle 4 820#16) State.reset)) 4).sensor = 820 ∧ dieOf 0 = 0
    ∧ (translate (modDie paged 0 fun d => { d with tripped := true }) 0 0 640 .read).1.stuck = true := by decide +kernel

/-! ## Traps by kind of task, ends that wait, latencies -/

/-- The launch of slot 0 with a state and a fault handler. -/
def ruledBy (st : LState) (h : Word) (s : State) : State := modLaunch s 0 fun l => { l with state := st, hdr := l.hdr.set 30 h }
def trapped (s : State) : State := after (exec (.trapOp { fI with imm := 7 }) s)
def carriedFrom (core : Word) : State := modTask (ruledBy .running 0x40 (at_ 8 .carried [])) fun t =>
  { t with parent := BitVec.ofNat 32 (core.toNat * 2 ^ 18), code := List.replicate 8 0, ctx := { t.ctx with pc := 0 } }
/-- A full completion ring at 0x60000: the launch of slot 0 stays until its record is written. -/
def ringFullRun (s : State) : State := modLaunch (words s [(0x60000, 0x61000#64), (0x60008, 0x0000000100000010#64), (0x60018, 16#64)]) 0 fun l =>
  { l with hdr := l.hdr.set 29 0x60000#64 }
def abortOf (s : State) : Option (Option (Nat × BitVec 32)) := (launchAt s 0).map (·.abort)
/-- Where a trap goes: by the launch's state and handler, and by the kind of the task (R71, R156, R200, R340, R370 to R372). -/
theorem test_trap_launches : ((getCore (trapped (ruledBy .draining 0x40 (at_ 8 .handler []))) 8).parked.map (·.due)) = [true]
    ∧ (getCore (trapped (ruledBy .draining 0x40 (at_ 8 .handler []))) 8).faultq = []
    ∧ abortOf (trapped (ringFullRun (ruledBy .running 0xFFFFFFFF (at_ 8 .handler []))))
        = some (some (9, mkHandle 8 0 1))
    ∧ (let s := trapped (ruledBy .closing 0x40 (at_ 8 .handler []))
       (getCore s 8).run = none ∧ (getCore s 8).parked = [])
    ∧ (let d := modPart (at_ 8 .handler []) 0 fun x => { x with desc := put (put x.desc 0 (partWord paged 0 0 ||| 1#64 <<< 61)) 9 0x60000#64 }
       let t := after (exec (.brk fS) d)
       debugOn d 0 = true ∧ (getCore t 8).parked.map (fun p => (p.debug, p.due)) = [(true, false)] ∧ (getCore t 8).faultq = []) := by decide +kernel
theorem test_trap_kinds : abortOf (trapped (ringFullRun (at_ 8 .fault []))) = some (some (0x43, mkHandle 8 0 1))
    ∧ (takeTrap (carriedFrom 0) { code := 9 } 0).net.map (fun p => (hKind p.hdr, recCode (recOfWords p.payload))) = [(3, 9)]
    ∧ (takeTrap (carriedFrom 9) { code := 9 } 0).net = [] ∧ (getCore (takeTrap (carriedFrom 0) { code := 9 } 0) 8).run = none
    ∧ (let s := trapped (at_ 8 .system [])
       (getCore s 8).halted = true ∧ (getCore s 8).run = none ∧ (getDie s 0).frozen = true ∧ (taskOf (at_ 8 .system [])).slot = none) := by decide +kernel
/-- An X-core's task that ends while its pass lacks scales waits (R142). -/
def starved : State := setTile (at_ 4 .leafX []) 0 { waiting := some { pass12 0x66A680 with owner := mkHandle 4 0 1 } }
theorem test_end_starves : ready (.endTask fS) starved = true ∧ awaitsScales starved 4 = true ∧ after (exec (.endTask fS) starved) = starved
    ∧ awaitsScales (at_ 4 .leafX []) 4 = false ∧ awaitsScales passing 4 = false := by decide +kernel
/-- A parked rule task abandoned: its box is pruned, its set released, what was held back for it gone (R32, R104, R236). -/
def parkedRule : State := modCore (ruling 8 1 0 [(2, 0x55#64)]) 8 fun x => { x with
  parked := [{ task 8 .rule with
    handle := 0x55, frame := 1, wp := frameBase 8 1, box := some (box0 8), held := [{ line := 0x2000, mask := 1, data := 7, stamp := 0 }] }]
  holders := [(1, .task 0x55)] }
theorem test_abandon_rule : let p := (parkedNamed parkedRule 8 0x55).getD {}
    let s := abandonTask parkedRule 8 p
    p.kind = .rule ∧ ((launchAt s 0).bind fun l => (getBox l 0).map fun b => (b.phase, b.outcome)) = some (.ending, 1)
    ∧ (getCore s 8).parked = [] ∧ bmapOf (getCore s 8) 1 = 0 ∧ (getSet (getCl s 0) 1).use = .clearing 1024 ∧ s.mem = parkedRule.mem := by decide +kernel
/-- s2, a source of add, is to be written at cycle 9, by an interlocked instruction or another (R77, R79). -/
def inFlight (ilk : Bool) (st : Word) : State := modTask (modCore (at_ 8 .handler []) 8 fun k =>
  { k with wr := [{ vec := false, n := 2, fin := 9, old := 0, ilk := ilk }] }) fun t => { t with ctx := { t.ctx with status := st } }
theorem test_issue_waits : (view (.add fS)).map (·.1) = some 0x040 ∧ mustWait (inFlight true 0) 0x040 (.s fS) = true
    ∧ after (exec (.add fS) (inFlight true 0)) = inFlight true 0 ∧ mustWait (inFlight false 0) 0x040 (.s fS) = false
    ∧ stallShort (inFlight false 0) 0x040 (.s fS) = false ∧ ready (.add fS) (inFlight false 0) = true
    ∧ stallShort (inFlight false (1#64 <<< 54)) 0x040 (.s fS) = true
    ∧ parkedCode (after (exec (.add fS) (inFlight false (1#64 <<< 54)))) 8 = some 8
    ∧ mustWait (later (modCore (vecs 0 0) 4 fun k => { k with vecFree := 5 }) 4) 0x1A0 (.v fV) = true := by decide +kernel
/-- A product reads as before for three cycles, then as written (R78, R79). -/
theorem test_latency : let t := after (exec (.mul fS) (at_ 8 .handler [(2, 6#64), (3, 7#64), (4, 1#64)]))
    readS (later t 2) 4 = 1 ∧ readS (later t 3) 4 = 42 := by decide +kernel

/-! ## Headers, stores and counters that take no write -/

/-- The image of a frame whose header is all ones: its reserved bits are zero (R8, R63). -/
theorem test_header_masks : let b := zeros (256 + 336) ++ List.replicate (frameSize 8 - 336) 0xFF#8
    (getCore (placeTask (at_ 8 .system []) (some 0) 8 b) 8).parked.map (fun p => [336, 352, 376].map fun o => look 0 (getCore (placeTask (at_ 8 .system []) (some 0) 8 b) 8).store ((p.wp + o) / 8))
      = [[0xFFFFFFFF#64, 0xFFFFFFFF00000000#64, 0x80FFFFFFFFFFFFFF#64]] := by decide +kernel
/-- The boxes that a spur engine holds, the join entry of a join task that has started among them (R331, R352). -/
theorem test_held_boxes : [BoxPhase.pending, .leafWait, .leafReserved, .split 1, .joinPending, .joining].all (fun ph =>
      ((launchAt (boxed [(0, rec_ 0 ph 0)]) 0).map fun l => (heldBoxes l 0).length) == some 1) = true
    ∧ ((launchAt (boxed [(0, rec_ 0 .ruling 0)]) 0).map fun l => (heldBoxes l 0).length) = some 0 ∧ stateCode .joining = some 2 := by decide +kernel
/-- TASKCTL of every frame, and the running task's header, are read-only: a store and an arrive leave them (R8, R63, R64). -/
def tctl1 : Nat := frameBase 8 1 + 352
theorem test_read_only : readOnlyByte 8 (some (frameBase 8 0)) tctl1 = true ∧ readOnlyByte 8 none (frameBase 8 0 + 336) = false
    ∧ readOnlyByte 8 (some (frameBase 8 0)) (frameBase 8 0 + 336) = true ∧ readOnlyByte 8 (some (frameBase 8 0)) (frameBase 8 1 + 336) = false
    ∧ (let s := at_ 8 .handler [(2, BitVec.ofNat 64 tctl1), (4, -1)]
       ready (.st mCore) s = true ∧ storeByte (getCore (after (exec (.st mCore) s)) 8) tctl1 = 0)
    ∧ ctrValue (bumpCounterOf (at_ 8 .handler []) none (.store 8 tctl1) 1 ⟨0, 0⟩ 1) (.store 8 tctl1) = 0
    ∧ ctrValue (bumpCounterOf (at_ 8 .handler []) none (.store 8 0x200) 1 ⟨0, 0⟩ 1) (.store 8 0x200) = 1 := by decide +kernel
theorem test_takes : Takes none (.store 8 0x100) 16 ∧ Takes (some (frameBase 8 0)) (.store 8 0x200) 8 := by
  have a : ∀ x, x < 0x110 → 0x100 ≤ x → readOnlyByte 8 none x = false := by decide +kernel
  have b : ∀ x, x < 0x208 → 0x200 ≤ x → readOnlyByte 8 (some (frameBase 8 0)) x = false := by decide +kernel
  exact ⟨fun x h1 h2 => a x h2 h1, fun x h1 h2 => b x h2 h1⟩
/-- Of axes of as many grains the lowest is split (R36). -/
theorem test_split_tie : ((launchAt (modLaunch (ruling 8 1 0 []) 0 fun l => { l with hdr := l.hdr.set 11 1 }) 0).map fun l =>
    widest l { box0 8 with axes := [⟨0, 8⟩, ⟨0, 8⟩] } 3) = some (some 0) := by decide +kernel

/-! ## Fences, engines, reductions, leaf starts -/

/-- A dirty byte whose write-back is a race: fence.sc traps there, and neither raises the epoch nor arms a release (R221, R263). -/
def raced : State :=
  let s := modCore devAt 0 fun k => { k with l1 := [{ held with dirty := 1, stamps := [(1, 1)] }] }
  modLaunch s 0 fun l => { l with checks := [(0x2002, { w := some { who := ⟨5, 0⟩, stamp := 0, mask := 1, weak := 0 } })] }
theorem test_fence_traps : let f : FmtM := { fM with sz := 3 }
    ready (.fence f) raced = true ∧ ok (acqFits (ownAll raced) (taskOf (ownAll raced)).det.seen (some .core)) = true
    ∧ (match wbAll (ownAll raced) with | .error (.trap i _) => some i.code | _ => none) = some 0x21
    ∧ (getCore (after (exec (.fence f) raced)) 0).parked.map (fun p => (p.det.epoch, p.det.arm)) = [((taskOf raced).det.epoch, none)] := by decide +kernel
/-- A count's place outside its set: RANGE before any page of the sources (R166). -/
theorem test_compact_count : ((engStart (queued .xcompact ((compactWords 0x1000000001#64).set 14 0x10044000#64)) 0 .compact).map fun r =>
      match engOpen r.1 128 with
      | (.ok (r1, w), _) => (compactCheck r1.op w).isOk && (compactReads r1.op w 1 1 0 4).isOk && (engPlace r1.op 14 (dstSpace .compact (w.getD 0 0)) (w.getD 14 0) 0 4).isOk == false
          && (match runCompact r1 w with
            | (.error _, _) => true
            | _ => false)
      | _ => false) = some true := by decide +kernel
/-- A group of A-core 0 and the cluster core: the first contribution waits for the other, and both are folded in ascending order (R174). -/
def pairGroup : State := setGroup (at_ 0 .handler []) 0 5 { members := [0, 8], gen := 1, installed := true }
def contrib (m : Nat) (v : Word) (joined : Bool) : Contrib :=
  { (default : Contrib) with member := m, fmt := 3, fold := 0, vals := [v], gen := 1, joined := joined, op := { (default : EngOp) with head := redWords 1 } }
theorem test_red_accept : let one := redAccept pairGroup 0 5 (contrib 0 0x7FFFFFFF true)
    let x : Reduction := { part := 0, g := 5, contribs := [contrib 0 0x7FFFFFFF true, contrib 8 2 true] }
    pairGroup.reds = [] ∧ one.reds = [{ part := 0, g := 5, contribs := [contrib 0 0x7FFFFFFF true] }] ∧ (groupAt pairGroup 0 5).members.map memberCore = [0, 8]
    ∧ (rootContrib pairGroup x).map (fun c => (c.member, c.op.peer)) = some (0, false)
    ∧ ((redPackage pairGroup x).value, (redPackage pairGroup x).sat, (redPackage pairGroup x).folded) = ([0x7FFFFFFF], true, true)
    ∧ (redAccept one 0 5 (contrib 8 2 true)).reds = [] ∧ (redFinish pairGroup x false).reds = [] := by decide +kernel
/-- Floating folds round to nearest even: 1 and 2^-24 are 1; the lesser and the greater of 1 and 2. -/
theorem test_red_float : (redStep 10 0 0x3F800000 0x33800000).1 = 0x3F800000 ∧ (redStep 10 1 0x3F800000 0x40000000).1 = 0x3F800000
    ∧ (redStep 10 2 0x3F800000 0x40000000).1 = 0x40000000 := by decide +kernel
/-- A leaf pair with set 2 reserved starts on A-core 0: the set at the lowest free handle, its mask in s2, the tile reset, and the X-side task
queued (R73, R103, R116). -/
def leafReady : State := modCore reservedLeaf 0 fun k => { k with runq := [] }
def leafQ : QTask := { handlerQ 1 0x20000#64 with kind := .leafA, box := some (rec_ 0 .leafReserved 0).box, leaf := 0 }
theorem test_leaf_start : let s := startTask leafReady 0 leafQ 0
    leafQ.take.isNone = true ∧ ((launchAt leafReady 0).bind fun l => (getBox l 0).map fun b => (b.box.name, b.sets)) = some (0, [2])
    ∧ (attachLeaf leafReady 0 (mkHandle 0 0 (getCore leafReady 0).seqno) [2]).2 = 1 ∧ bmapOf (getCore s 0) 0 = bmEntry false 0 2
    ∧ (getSet (getCl s 0) 2).use = .attached 0 0 ∧ look 0 (getCore s 0).store (frameBase 0 0 / 8 + 2) = 1#64
    ∧ (getTile leafReady 0).waiting = none ∧ (getTile leafReady 0).running = [] ∧ (getTile s 0).resetEnd = some 64 ∧ (getTile s 0).pair = some (0, 0)
    ∧ (getCore s 4).runq.map (·.kind) = [.leafX] ∧ ((launchAt s 0).bind fun l => (getBox l 0).map (·.phase)) = some .leafRun
    ∧ (let d := startTask (setTile leafReady 0 { waiting := some (pass12 0), acc := [(5, 9)] }) 0 leafQ 0
       (getTile d 0).resetDue = true ∧ look 0 (getTile d 0).acc 5 = 9) := by decide +kernel
/-- The fault task of a tree task whose box has retired reads that box; of one no task of the launch sent, what the parcel carries (R243, R367). -/
theorem test_fault_of : let l := { launch 0 with places := [(3, { kind := .leafA, name := 5, modes := 0, serves := none, cls := 2 })], retired := [(5, box0 8)] }
    let q := faultOf (at_ 8 .handler []) 8 0 l { fault with serves := some 3 }
    (placeOf l 3).map (·.name) = some 5 ∧ q.cls = 2 ∧ q.box = some (box0 8) ∧ q.serves = some 3
    ∧ (faultOf (at_ 8 .handler []) 8 0 l { fault with fbox := some (box0 9) }).box = some (box0 9) ∧ engineHeld l = true
    ∧ engineHeld { l with state := .waiting, bwPending := true } = true ∧ engineHeld { l with state := .saved } = false := by decide +kernel

/-! ## Regions, saves, boxes and windows -/

/-- A launch with BWREQ: it runs with a set at b15 of its cluster, or waits there for one (R143). -/
def bwWaiting (use : SetUse) : State := modCl (waiting 0x400000000#64 []) 0 fun x => { x with sets := (List.range 8).map fun n => (n, { use := use }) }
theorem test_bellwether : ((launchAt (bwWaiting .free) 0).map fun l => (l.state, lbw l, firstClaim (bwWaiting .free) 0 l (lclusters l), (lclusters l).any (bwTaken (bwWaiting .free))))
      = some (.waiting, true, false, false)
    ∧ allFree (bwWaiting .free) [0] = true ∧ freeSets (getCl (bwWaiting .free) 0) = [0, 1, 2, 3, 4, 5, 6, 7] ∧ freeSets (getCl (bwWaiting .draining) 0) = []
    ∧ bwHas (bwWaiting .free) 0 0 = false ∧ bwHas (bwAttach (bwWaiting .free) 0 0) 0 0 = true
    ∧ ((launchAt (after (exec (.regionTake 0) (bwWaiting .free))) 0).map fun l => (l.state, l.bwPending)) = some (.running, false)
    ∧ ((launchAt (after (exec (.regionTake 0) (bwWaiting .draining))) 0).map fun l => (l.state, l.bwPending)) = some (.waiting, true)
    ∧ (let s := modCl (after (exec (.regionTake 0) (bwWaiting .draining))) 0 fun x => { x with sets := [] }
       ((launchAt (after (exec (.regionTake 0) s)) 0).map fun l => (l.state, l.bwPending)) = some (.running, false)) := by decide +kernel
/-- A block with one task record, of frame 0 of core 0, which is taken or free. -/
def savedTask (busy : Bool) : State :=
  let s := words saved [(0x50010, 896#64), (0x50080, 0x0001000000000300#64), (0x50088, 0#64), (0x50090, 0x10000#64), (0x500C8 + 0x80, 0#64)]
  modCore s 0 fun k => { k with run := if busy then some { task 0 .system with frame := 0 } else none }
theorem test_restore_frames : (match launchAt (savedTask true) 0 with
      | some l => l.state = .saved && shiftOk (savedTask true) l ⟨0, 0⟩ && allFree (savedTask true) [0] && (match readBlock (savedTask true) l with
        | (u, some (_, as)) => as.map (fun a => a.tasks.length) == [1] && framesReady u ⟨0, 0⟩ as == false
        | _ => false)
      | none => false) = true
    ∧ after (exec (.restore 0 ⟨0, 0⟩) (savedTask true)) = savedTask true
    ∧ ((launchAt (after (exec (.restore 0 ⟨0, 0⟩) (savedTask false))) 0).map (·.state)) = some .running := by decide +kernel
/-- The shapes of a tile's image: reserved bits are zero (R8, R115). -/
theorem test_restore_shapes : look 0 (getTile (restoreTile saved 0 0 (zeros 16 ++ List.replicate 32 0xFF#8 ++ zeros 99408)) 0).shapes 1 = 0x00FFFF0F#32 := by
  decide +kernel
/-- A replay that asks for bellwether sets: it takes one, or ends where b15 is taken (R143, R410). -/
def bwReplaying (taken : Bool) : State := modCore (modLaunch replaying 0 fun l => { l with hdr := l.hdr.set 0 (l.hdr.headD 0 ||| 0x400000000#64) }) 8 fun k =>
  { k with bmap := if taken then [(15, bmEntry false 3 1)] else [], holders := if taken then [(15, .task 0x77)] else [] }
theorem test_replay_bellwether : runningOf (bwReplaying false) 0 = [] ∧ busySlot (bwReplaying false) 0 = false
    ∧ ((launchAt (after (exec (.replayStart 0) (bwReplaying false))) 0).map fun l => (l.state, l.replay)) = some (.running, true)
    ∧ bwHas (after (exec (.replayStart 0) (bwReplaying false))) 0 0 = true
    ∧ (launchAt (after (exec (.replayStart 0) (bwReplaying true))) 0).isNone = true := by decide +kernel
/-- A spilled box comes back from slot 0 of its spill area: its rule task is queued (R53). -/
def reloading : State := words (modCl (boxed [(5, { rec_ 5 .pending 0 with spilled := true })]) 0 fun x => { x with spillArea := some 0x100 })
  [(0x50108, 1#64), (0x501C0, 5#64)]
theorem test_reload : (launchAt reloading 0).map (fun l => (savePtr l, waitList l 0, (pumpList l 0).length, pendingCount l 0, joinCount l 0)) = some (0x50000, [], 1, 1, 0)
    ∧ (let t := after (exec (.boxReload 0 0) reloading)
       ((launchAt t 0).bind fun l => (getBox l 5).map fun b => (b.phase, b.spilled)) = some (.ruling, false)
       ∧ (getCore t 8).runq.map (fun q => (q.kind, q.rule)) = [(.rule, 0)] ∧ mem32 (flushSlices t 0) 0x50108 = 0) := by decide +kernel
/-- A window whose translation an invalidation has dropped: a reserved entry of a load queue is filled, a waiting instruction tries anew (R122,
R261, R360). -/
def lostWindow : State :=
  let s := setTile (at_ 0 .handler []) 0 { fills := [{ q := 0, parts := [{ line := 5, win := 0, n := 128, got := none }] }] }
  { s with slices := [(0, { windows := [{ line := 5, opened := 7, reply := some 9, dead := true, cores := [0] }] })], clk := { mesh := 71 } }
theorem test_lost_window : (getTile (after (exec (.coalesceReply 0 5) lostWindow)) 0).lq = [(0, [9])]
    ∧ (match (getCore (deliverLost (windowed 71) 8 5 0 9) 8).wait with | some (.lines none []) => true | _ => false) = true
    ∧ (let w : Window := { line := 5, opened := 7, reply := some 0, late := [(8, 0xFFFF, 1)] }
       replyFor w 8 0 = 0xFF ∧ replyFor w 7 0 = 0) := by decide +kernel
theorem test_close_reads : let s (w : Window) := { dirtySlice with slices := [(0, { windows := [w], lines := [(0x2002, { (default : SLine) with pa := 0x100100, data := 9 })] })] }
    let w : Window := { line := 0x2002, opened := 7, pa := 0x100100 }
    (getSl (closeReads (s w) 0 0 0x8000000000000000#64) 0).windows = [{ w with dead := true, reply := some 9 }]
    ∧ (getSl (closeReads (s { w with reply := some 3 }) 0 0 0x8000000000000000#64) 0).windows = [{ w with dead := true, reply := some 3 }]
    ∧ uncached (s w) 0 { pa := w.pa, rd := true, wr := false, hc := w.hc } = false := by decide +kernel
/-- An exchange on XINV adds its term to the digest of a task whose window holds its word (R409). -/
theorem test_xinv_digest : let s := modLaunch (modTask (invaling []) fun t => { t with slot := some 0 }) 0 fun l =>
      { l with hdr := l.hdr.set 0 (l.hdr.headD 0 ||| 0x800000000#64), obase := 0x70000, olen := 8 }
    ((launchAt s 0).map fun l => (ldet l, inWindow l 0x70000)) = some (true, true)
    ∧ (taskOf (invalReply s 0 ⟨8, 0, 0, 0x70000, 5⟩ [])).dig.sum = (taskOf s).dig.sum + atomicTerm 6 3 0x70000 5 0 := by decide +kernel
theorem test_ring_put : let s := ringed 0
    ringSlot s 0x60000 64 = 0x61000 ∧ s.bad = [] ∧ s.flips = [] ∧ mem32 (ringPutPhys s 0 0x60000 64 (List.replicate 64 7)) 0x60018 = 1
    ∧ memByte (ringPutPhys s 0 0x60000 64 (List.replicate 64 7)) 0x6103F = 7#8
    ∧ (let u := modDie (modDie s 0 fun d => { d with tripped := true }) 1 id
       stackStopped u 0x61000 = true ∧ after (exec (.faultRingWrite 0 false) u) = u) := by decide +kernel
/-- The launches that an abort names end in the order of their admission (R178). -/
theorem test_abort_order : let s := { aborting with launches := [(0, { launch 0 with order := 2 }), (1, { launch 0 with order := 1 })] }
    abortNamed s 0 0 0 = [1, 0] ∧ (s.launches.map (·.1)).Nodup := by decide +kernel

/-! ## SHA-384 and ECDSA P-384 (FIPS 180-4's example; a signature made outside the model) -/

theorem test_sha384 : natOfBig (sha384 [0x61, 0x62, 0x63]) =
    0xCB00753F45A35E8BB5A03D699AC65007272C32AB0EDED1631A8B605A43FF5BED8086072BA1E7CC2358BAECA134C825A7 := by decide +kernel
theorem test_ecdsa : ecdsaVerify
    (bigBytes 48 0xCB00753F45A35E8BB5A03D699AC65007272C32AB0EDED1631A8B605A43FF5BED8086072BA1E7CC2358BAECA134C825A7)
    (bytesOfNat 48 0x7E17B248564CD3AA19D7021B9B7C1160EC72141408B0530C7A74BBFB9FE8BF71A27EF7AEDFEF5C532B82A8ABB22A4D6C
      ++ bytesOfNat 48 0x2E5B01572C1D7ADBCDE3B73E14F34F8474B95A6BF20496D6928760A3C895F3A6B6A166F2A49AF0CF43973B02095F41A)
    (bytesOfNat 48 0xC4A3A8819C636C69302BF5A54DEDCEEC68CF368539A7C38C473E900A50FACA324201180F4331077D8C257910A35C12CD
      ++ bytesOfNat 48 0xBB10C021CA7EDE9101303258E4F98A483DA8AF0E4907B8E4FB3D00B667211AFB73D22ECC061322BA4AEDEEBF59106B35) = true := by decide +kernel

end Sys2Proof.Tests
end

section
/-! PROOFS. Where control goes after an instruction that is no branch (R80, R82, R84, R228, R229). -/
open Sys2Proof Sys2Proof.Machine Sys2Proof.Say
namespace Sys2Proof.Proofs.Control

/-! ## What a fetch keeps of the cores

`PathOnly` says what a fetch changes where no line of memory holds an error. An error found on the way is reported as well, to
launches, rings and the network; the cores, their tiles and their cycles stay as they are there too. -/

/-- The parts that an instruction's interlocks, registers and task are read from are as they were. -/
structure CoresKept (s t : State) : Prop where
  cores : t.cores = s.cores
  tiles : t.tiles = s.tiles
  clk : t.clk = s.clk
  cur : t.cur = s.cur

theorem CoresKept.refl (s : State) : CoresKept s s := ⟨rfl, rfl, rfl, rfl⟩

theorem CoresKept.trans {s t u : State} (h : CoresKept s t) (g : CoresKept t u) : CoresKept s u :=
  ⟨g.cores.trans h.cores, g.tiles.trans h.tiles, g.clk.trans h.clk, g.cur.trans h.cur⟩

theorem CoresKept.of_pathOnly {s t : State} (h : PathOnly s t) : CoresKept s t := by
  rw [h.1]
  exact ⟨rfl, rfl, rfl, rfl⟩

theorem CoresKept.ite {s t u : State} (h : CoresKept s t) (p : Prop) [Decidable p] (g : CoresKept s u) :
    CoresKept s (if p then t else u) := by
  split <;> assumption

theorem CoresKept.foldl {α : Type} (f : State → α → State) (hf : ∀ s x, CoresKept s (f s x)) (l : List α) (s : State) :
    CoresKept s (l.foldl f s) := by
  induction l generalizing s with
  | nil => exact .refl s
  | cons x l ih => exact (hf s x).trans (ih _)

theorem coresKept_modLaunch (s : State) (k : Nat) (f : Launch → Launch) : CoresKept s (modLaunch s k f) := by
  unfold modLaunch
  split <;> exact ⟨rfl, rfl, rfl, rfl⟩

theorem coresKept_ringSignal (s : State) (p ring : Nat) (virt : Bool) (tail cntthr timethr vec : Nat) :
    CoresKept s (ringSignal s p ring virt tail cntthr timethr vec) := by
  unfold ringSignal
  dsimp only
  split <;> exact ⟨rfl, rfl, rfl, rfl⟩

theorem coresKept_ringPutPhys (s : State) (p d size : Nat) (bs : List Byte) : CoresKept s (ringPutPhys s p d size bs) :=
  (CoresKept.of_pathOnly ((((pathOnly_linesRead _ _ _).trans (pathOnly_physWrite _ _ _)).trans (pathOnly_recoded _ _ _)).trans
    (pathOnly_memWrite _ _ _))).trans (coresKept_ringSignal _ _ _ _ _ _ _ _)

/-- A record goes to its ring, waits for it, or is lost and counted. -/
theorem coresKept_toRing (s : State) (p : Nat) (dbg : Bool) (r : FRec) : CoresKept s (toRing s p dbg r) := by
  have hput := coresKept_ringPutPhys s p (partWord s p (if dbg then 9 else 8)).toNat 64 (recBytes r)
  have hwait : CoresKept s (ringWait s p dbg r) := ⟨rfl, rfl, rfl, rfl⟩
  have hlost (a v : Nat) : CoresKept s (physWrite32 s a v) := .of_pathOnly (pathOnly_physWrite _ _ _)
  exact hput.ite _ (hwait.ite _ ((CoresKept.refl s).ite _ (hlost _ _)))

theorem coresKept_toFaultRing (s : State) (p cid : Nat) (r : FRec) : CoresKept s (toFaultRing s p cid r) :=
  (CoresKept.of_pathOnly (pathOnly_recFault _ _ _ _)).trans (coresKept_toRing _ _ _ _)

theorem coresKept_sendFault (s : State) (slot id core : Nat) (r : FRec) : CoresKept s (sendFault s slot id core r) :=
  have hcount : CoresKept s (countFault s slot (recCode r) (recHandle r) core) := coresKept_modLaunch _ _ _
  have hrec := hcount.trans (.of_pathOnly (pathOnly_recFault _ (cidOf core) (partOf _ (cidOf core)) r))
  hrec.trans ⟨rfl, rfl, rfl, rfl⟩

theorem coresKept_memUE (s : State) (who : List Consumer) (die cid : Nat) (i : TrapInfo) : CoresKept s (memUE s who die cid i) :=
  ((CoresKept.of_pathOnly (pathOnly_ueEvent _ _ _ _ _ _)).trans
    (CoresKept.foldl _ (fun _ _ => coresKept_sendFault _ _ _ _ _) who _)).trans (coresKept_toFaultRing _ _ _ _)

theorem coresKept_readBad (s : State) (h pa ln : Nat) (who : List Consumer) : CoresKept s (readBad s h pa ln who) := by
  have hfix : CoresKept s (fixLine s pa) := .of_pathOnly (pathOnly_fixLine s pa)
  unfold readBad
  dsimp only
  split
  · exact hfix.trans (coresKept_memUE _ _ _ _ _)
  · exact hfix

/-- A fetch that succeeds keeps the cores, whatever errors the line of memory holds. -/
theorem coresKept_codeWord {s t : State} {va w : Word} (h : codeWord s va = .ok (t, w)) : CoresKept s t := by
  unfold codeWord at h
  simp only [bind, Except.bind, pure, Except.pure] at h
  split at h
  · cases h
  · rename_i v hv
    obtain ⟨u, x⟩ := v
    have hread (n l : Nat) (who : List Consumer) : CoresKept s (readBad (meets u (bitsOf x.pa 15 12 / 4)) n x.pa l who) :=
      (CoresKept.of_pathOnly ((xlate_ok hv).trans (pathOnly_meets _ _))).trans (coresKept_readBad _ _ _ _ _)
    split at h <;> exact (Prod.mk.inj (Except.ok.inj h)).1 ▸ hread _ _ _

theorem coresKept_branchAt {s t : State} {a : Word} {b : Bool} (h : branchAt s a = .ok (t, b)) : CoresKept s t := by
  unfold branchAt at h
  simp only [bind, Except.bind, pure, Except.pure] at h
  split at h
  · cases h
  · rename_i v hv
    exact (Prod.mk.inj (Except.ok.inj h)).1 ▸ coresKept_codeWord hv

/-- The check of a rep's body reads the word at LE, and where the body has two instructions or more the one before it. -/
theorem coresKept_repCheck {s t : State} {f : FmtI} {b : Bool} (h : repCheck s f = .ok (t, b)) : CoresKept s t := by
  unfold repCheck at h
  simp only [bind, Except.bind, pure, Except.pure] at h
  split at h
  · cases h
  · rename_i u hu
    have hlast := coresKept_branchAt hu
    split at h
    · exact (Prod.mk.inj (Except.ok.inj h)).1 ▸ hlast
    · split at h
      · cases h
      · rename_i v hv
        exact (Prod.mk.inj (Except.ok.inj h)).1 ▸ hlast.trans (coresKept_branchAt hv)

section
variable {s t : State} (h : CoresKept s t)
include h

theorem CoresKept.getCore_eq (c : Nat) : getCore t c = getCore s c := getCore_congr h.cores c

theorem CoresKept.taskOf_eq : taskOf t = taskOf s := by simp only [taskOf, h.getCore_eq, h.cur]

theorem CoresKept.ctxOf_eq : ctxOf t = ctxOf s := by simp only [ctxOf, h.taskOf_eq]

theorem CoresKept.cycOf_eq (c : Nat) : cycOf t c = cycOf s c := by simp only [cycOf, h.clk]

theorem CoresKept.readS_eq (r : BitVec 6) : readS t r = readS s r := by
  simp only [readS, h.getCore_eq, h.taskOf_eq, h.cycOf_eq, h.cur]

theorem CoresKept.mustWait_eq (op : Nat) (f : Fields) : mustWait t op f = mustWait s op f := by
  simp only [mustWait, h.getCore_eq, h.cycOf_eq, h.cur, getTile_congr h.tiles]

theorem CoresKept.stallShort_eq (op : Nat) (f : Fields) : stallShort t op f = stallShort s op f := by
  simp only [stallShort, h.getCore_eq, h.cycOf_eq, h.ctxOf_eq, h.cur]

end

/-! ## A rep that issues -/

theorem loopCheck_of_no_branch {s s' : State} {f : FmtI} (h : repCheck s f = .ok (s', false)) : loopCheck s 0x007 (.i f) = .ok s' := by
  simp [loopCheck, h]

theorem loopCheck_of_branch {s s' : State} {f : FmtI} (h : repCheck s f = .ok (s', true)) :
    loopCheck s 0x007 (.i f) = raise s' cILLEGAL_LOOP_END := by
  simp [loopCheck, h]

/-- A rep whose body ends in no branch completes with its effect on the state that the reads of check 8 leave. -/
theorem issue_rep_next {f : FmtI} {body : Body} {s s' s'' : State} {fl : Flow} (h : readyOp 0x007 (.i f) s = true)
    (hrep : repCheck s f = .ok (s', false)) (hb : body s' = .ok (s'', fl)) (hfl : fl = .seq ∨ ∃ p, fl = .jump p) :
    issue 0x007 (.i f) body s = .next (finish (holdUnits s'' 0x007 (.i f)) 0x007 (stallOf (.i f)) fl) := by
  obtain ⟨hrun, hdec, hwait, hshort, hres⟩ := readyOp_parts h
  have hk := coresKept_repCheck hrep
  have hwait' : mustWait s' 0x007 (.i f) = false := (hk.mustWait_eq _ _).trans hwait
  have hshort' : stallShort s' 0x007 (.i f) = false := (hk.stallShort_eq _ _).trans hshort
  have hres' : recheckHeld s' = .ok s' := recheckHeld_none (by rw [hk.taskOf_eq, hres])
  have hperf : perform s 0x007 (.i f) body = .ok (holdUnits s'' 0x007 (.i f), fl) := by
    simp only [perform, loopCheck_of_no_branch hrep, hwait', hshort', hres', hb, bind, Except.bind, pure, Except.pure,
      Bool.false_eq_true, if_false]
    obtain rfl | ⟨p, rfl⟩ := hfl
    · rfl
    · rfl
  unfold issue
  simp only [hrun, hdec, effFields, hperf]
  obtain rfl | ⟨p, rfl⟩ := hfl
  · rfl
  · rfl

/-- A rep whose body ends in a branch traps, before it waits for any register (R84, R220). -/
theorem issue_rep_trap {f : FmtI} {body : Body} {s s' : State} (h : readyOp 0x007 (.i f) s = true)
    (hrep : repCheck s f = .ok (s', true)) : issue 0x007 (.i f) body s = .next (trapAt s' { code := cILLEGAL_LOOP_END }) := by
  obtain ⟨hrun, hdec, -⟩ := readyOp_parts h
  have hperf : perform s 0x007 (.i f) body = raise s' cILLEGAL_LOOP_END := by
    simp only [perform, loopCheck_of_branch hrep]; rfl
  unfold issue
  simp only [hrun, hdec, effFields, hperf, raise]

/-- An instruction that may not stand in a delay slot and is ready stands in none (R81). -/
theorem stDS_of_readyOp {op : Nat} {f : Fields} {s : State} (h : readyOp op f s = true) (hop : noSlot op = true) :
    stDS (ctxOf s).status = 0 := by
  obtain ⟨-, hdec, -⟩ := readyOp_parts h
  refine Decidable.byContradiction fun hds => ?_
  have hslot : (decide (stDS (taskOf s).ctx.status ≠ 0) && noSlot op) = true := by simpa [hop, ctxOf] using hds
  unfold decodeCheck at hdec
  simp only [hslot, if_true] at hdec
  -- Each check before that of the slots answers a code where it fails.
  repeat (split at hdec; · cases hdec)
  cases hdec

/-! ## Where control goes -/

section
variable {c : Ctx}

/-- Whether the end-of-body step of R82 runs: an instruction at LE with LC not zero. -/
def AtEnd (c : Ctx) : Prop := c.pc = c.le ∧ c.lc ≠ 0#64

theorem not_atEnd (h : c.pc ≠ c.le ∨ c.lc = 0#64) : ¬AtEnd c := fun ⟨hpc, hlc⟩ => h.elim (· hpc) hlc

theorem atEnd_of_last (hpc : c.pc = c.le) (hlc : c.lc = 1#64) : AtEnd c := ⟨hpc, by simp [hlc]⟩

/-- More than one pass is left: one less is, and that is not zero. -/
theorem atEnd_of_more (hpc : c.pc = c.le) (hlc : 1#64 < c.lc) : AtEnd c ∧ c.lc - 1 ≠ 0#64 := by
  refine ⟨⟨hpc, ?_⟩, ?_⟩ <;> bv_omega

/-- Outside the slots of a branch and away from the end of a body, control goes on (R80). -/
theorem advance_on (hds : stDS c.status = 0) (h : ¬AtEnd c) : advance c .seq = { c with pc := c.pc + 8 } := by
  unfold AtEnd at h
  simp [advance, hds, h]

/-- At the end of a body LC counts down, and the body is entered again while it is not zero (R82). -/
theorem advance_end (hds : stDS c.status = 0) (h : AtEnd c) :
    advance c .seq = { c with pc := if c.lc - 1 ≠ 0#64 then c.ls else c.pc + 8, lc := c.lc - 1 } := by
  simp [advance, hds, h.1, h.2]

/-- The first slot of a branch is followed by the second (R80). -/
theorem advance_first_slot (hds : stDS c.status = 1) (h : ¬AtEnd c) :
    advance c .seq = { c with pc := c.pc + 8, status := setDS c.status 2 (stTKN c.status) } := by
  unfold AtEnd at h
  simp [advance, hds, h]

/-- Away from the end of a body the second slot of a branch is followed by BTGT (R80). -/
theorem advance_second_slot (hds : stDS c.status = 2) (h : ¬AtEnd c) :
    advance c .seq = { c with pc := c.btgt, status := setDS c.status 0 false } := by
  unfold AtEnd at h
  simp [advance, hds, h]

/-- At the end of a body LC counts down after the second slot too; the step chooses where an untaken branch goes on, and a taken one goes
to BTGT (R228). -/
theorem advance_second_slot_end (hds : stDS c.status = 2) (h : AtEnd c) :
    advance c .seq = { c with
      pc := if stTKN c.status then c.btgt else if c.lc - 1 ≠ 0#64 then c.ls else c.pc + 8
      lc := c.lc - 1
      status := setDS c.status 0 false } := by
  simp [advance, hds, h.1, h.2]

theorem advance_second_slot_taken (hds : stDS c.status = 2) (htkn : stTKN c.status = true) : (advance c .seq).pc = c.btgt := by
  by_cases h : AtEnd c
  · simp [advance_second_slot_end hds h, htkn]
  · rw [advance_second_slot hds h]

/-- Taken or not, at the end of a body or not, the slots are over, and LC is what the end-of-body step makes it. -/
theorem advance_second_slot_status_lc (hds : stDS c.status = 2) :
    (advance c .seq).status = setDS c.status 0 false
      ∧ (advance c .seq).lc = if c.pc = c.le ∧ c.lc ≠ 0#64 then c.lc - 1 else c.lc := by
  by_cases h : AtEnd c
  · rw [advance_second_slot_end hds h]
    exact ⟨rfl, (if_pos h).symm⟩
  · rw [advance_second_slot hds h]
    exact ⟨rfl, (if_neg h).symm⟩

end

/-! ## The effect of rep -/

/-- The context that rep makes for a body of `n + 1` instructions, before control goes on (R82). -/
def opened (c : Ctx) (n : BitVec 12) (count : Word) : Ctx :=
  { c with ls := c.pc + 8, le := c.pc + 8 + 8 * n.setWidth 64, lc := count }

/-- Where a rep leaves control: at its body, or past it when the count is zero. -/
def repFlow (c : Ctx) (n : BitVec 12) (count : Word) : Flow :=
  if count = 0#64 then .jump ((opened c n count).le + 8) else .seq

/-- The count of a rep: an immediate, or a register (R229). -/
def repCount (s : State) (f : FmtI) : Word :=
  if f.sub.getLsbD 0 then (f.imm.extractLsb' 12 20).setWidth 64 else readS s f.a

/-- What rep does once it has passed its checks. -/
def repBody (f : FmtI) : Body := fun s =>
  .ok (modCtx s fun c => opened c (f.imm.extractLsb' 0 12) (repCount s f), repFlow (ctxOf s) (f.imm.extractLsb' 0 12) (repCount s f))

/-- The two readings of the body's length, `BitVec.ofNat` of eight times IMM and eight times its widening, are one by computation. -/
theorem exec_rep (f : FmtI) (s : State) : exec (.rep f) s = issue 0x007 (.i f) (repBody f) s := rfl

/-- A rep never stands at the end of the body it opens: a body of 4,096 instructions does not reach round the address space. -/
theorem not_atEnd_opened (c : Ctx) (n : BitVec 12) (count : Word) : ¬AtEnd (opened c n count) := by
  rintro ⟨hpc, -⟩
  simp only [opened] at hpc
  bv_omega

/-- Control goes on from a rep to its body, or past it when the count is zero (R82). -/
theorem advance_repFlow {c : Ctx} (hds : stDS c.status = 0) (n : BitVec 12) (count : Word) :
    advance (opened c n count) (repFlow c n count) =
      { opened c n count with pc := if count = 0#64 then (opened c n count).le + 8 else (opened c n count).ls } := by
  unfold repFlow
  split
  · rfl
  · exact advance_on hds (not_atEnd_opened c n count)

theorem repFlow_cases (c : Ctx) (n : BitVec 12) (count : Word) : repFlow c n count = .seq ∨ ∃ p, repFlow c n count = .jump p := by
  unfold repFlow
  split
  · exact .inr ⟨_, rfl⟩
  · exact .inl rfl

/-- An instruction whose one effect is on the context, from which control goes on. -/
theorem wentOn_modCtx {s : State} {op st : Nat} {f : Fields} {fl : Flow} (g : Ctx → Ctx) (hf : takesFormat op = false)
    (hfl : fl = .seq ∨ ∃ p, fl = .jump p) :
    WentOn s (finish (holdUnits (modCtx s g) op f) op st fl) (advance (g (ctxOf s)) fl) := by
  obtain ⟨k, hfin, ⟨hkept, hwait⟩, hstore, hrun⟩ := finish_goes (modCtx s g) op st f fl (hfl.imp_right .inr)
  have hctx : modCtx s g = setCore s s.cur { getCore s s.cur with run := some { taskOf s with ctx := g (ctxOf s) } } := rfl
  have htask : taskOf (modCtx s g) = { taskOf s with ctx := g (ctxOf s) } := taskOf_setTask _ _
  have hrun' : k.run = some { taskOf s with ctx := advance (g (ctxOf s)) fl } := by simpa [hf, htask] using hrun
  rw [hctx] at hfin hkept hstore
  simp only [setCore_cur, getCore_setCore_same, setCore_setCore] at hfin hkept hstore
  rw [hctx, hfin]
  exact ⟨⟨by simp, by simpa [CoreKept] using hkept, by simpa using hwait⟩, fun w _ => by simp [hstore], setCore_self_run hrun'⟩

/-- A rep whose body ends in no branch opens its loop, and control goes to the body or past it (R82). -/
theorem rep_opens {f : FmtI} {s s' : State} (h : readyOp 0x007 (.i f) s = true) (hrep : repCheck s f = .ok (s', false)) :
    ∃ t, exec (.rep f) s = .next t ∧ WentOn s' t
      (let c := opened (ctxOf s) (f.imm.extractLsb' 0 12) (repCount s f)
       { c with pc := if c.lc = 0#64 then c.le + 8 else c.ls }) := by
  have hk := coresKept_repCheck hrep
  have hds := stDS_of_readyOp h (by decide)
  have hfl := repFlow_cases (ctxOf s') (f.imm.extractLsb' 0 12) (repCount s' f)
  have hcount : repCount s' f = repCount s f := by simp only [repCount, hk.readS_eq]
  refine ⟨_, (exec_rep f s).trans (issue_rep_next h hrep rfl hfl), ?_⟩
  have hwent := wentOn_modCtx (s := s') (op := 0x007) (st := stallOf (.i f)) (f := .i f)
    (fun c => opened c (f.imm.extractLsb' 0 12) (repCount s' f)) (by decide) hfl
  rw [advance_repFlow (hk.ctxOf_eq ▸ hds)] at hwent
  rw [← hk.ctxOf_eq, ← hcount]
  exact hwent

/-- A rep whose body ends in a branch raises ILLEGAL_LOOP_END (R84). -/
theorem rep_traps {f : FmtI} {s s' : State} (h : readyOp 0x007 (.i f) s = true) (hrep : repCheck s f = .ok (s', true)) :
    exec (.rep f) s = .next (trapAt s' { code := 0x0004 }) :=
  (exec_rep f s).trans (issue_rep_trap h hrep)

/-- Settles O13: the clauses on contexts by whether the end-of-body step runs (`AtEnd`); rep by its effect on the state that the reads
of check 8 leave, which has the cores as they were. -/
theorem delaySlotsAndLoops : Obligations.DelaySlotsAndLoops := by
  unfold Obligations.DelaySlotsAndLoops
  refine ⟨fun c => ⟨?_, ?_, ?_, ?_, ?_, ?_, ?_, ?_, ?_⟩, fun f s s' => rep_opens, fun f s s' => rep_traps⟩
  · exact fun hds h => advance_on hds (not_atEnd h)
  · intro hds hpc hlc
    simp [advance_end hds (atEnd_of_last hpc hlc), hlc]
  · intro hds hpc hlc
    obtain ⟨hend, hmore⟩ := atEnd_of_more hpc hlc
    rw [advance_end hds hend, if_pos hmore]
  · exact fun hds h => advance_first_slot hds (not_atEnd h)
  · exact advance_second_slot_taken
  · intro hds _ h
    rw [advance_second_slot hds (not_atEnd h)]
  · intro hds htkn hpc hlc
    obtain ⟨hend, hmore⟩ := atEnd_of_more hpc hlc
    simp only [advance_second_slot_end hds hend, htkn, if_pos hmore, Bool.false_eq_true, if_false]
  · intro hds htkn hpc hlc
    simp [advance_second_slot_end hds (atEnd_of_last hpc hlc), htkn, hlc, hpc]
  · exact advance_second_slot_status_lc

end Sys2Proof.Proofs.Control
end

section
/-! PROOFS. nop and the hint region (R219, R230). -/
open Sys2Proof Sys2Proof.Machine Sys2Proof.Say
namespace Sys2Proof.Proofs.Nop

/-! ## What makes an instruction a nop -/

/-- What the tables say of an instruction that does nothing: every class and privilege level may issue it, anywhere, it takes no format and
touches no register, and it is none of the instructions that the pool check, the loop check or the interlocks ask after by opcode. -/
structure DoesNothing (op : Nat) (f : Fields) : Prop where
  assigned : assigned op = true
  unprivileged : privileged op = false
  anyClass : ∀ cl, okClass cl op f = true
  coded : ∀ c, okCoded c op f = true
  noFormat : takesFormat op = false
  anySlot : noSlot op = false
  noReads : readsOf op f = []
  noWrites : writesOf op f = []
  noUnit : ¬(0x1A0 ≤ op ∧ op ≤ 0x1BF)
  other : op ≠ 0x03F ∧ op ≠ 0x007 ∧ op ≠ 0x00C ∧ op ≠ 0x00D
  /-- No format is laid over its fields. -/
  ownFields : ∀ c, effFields c f = f

theorem nop_doesNothing (f : FmtS) : DoesNothing 0x001 (.s f) where
  assigned := by decide
  unprivileged := by decide
  anyClass cl := by cases cl <;> rfl
  coded _ := rfl
  noFormat := by decide
  anySlot := by decide
  noReads := rfl
  noWrites := rfl
  noUnit := by decide
  other := by decide
  ownFields _ := rfl

theorem hint_doesNothing (f : FmtHint) : DoesNothing (0x1F0 + f.op.toNat) (.hint f) := by
  have hop : 0x1F0 ≤ 0x1F0 + f.op.toNat := Nat.le_add_right _ _
  generalize 0x1F0 + f.op.toNat = op at hop
  exact {
    assigned := by simp [assigned, hop]
    unprivileged := by simp [privileged]; omega
    anyClass := fun cl => by cases cl <;> simp [okClass] <;> omega
    coded := fun _ => rfl
    noFormat := by simp [takesFormat]; omega
    anySlot := by simp [noSlot]; omega
    noReads := rfl
    noWrites := rfl
    noUnit := by omega
    other := by omega
    ownFields := fun _ => rfl }

section
variable {op : Nat} {f : Fields} (h : DoesNothing op f)
include h

/-- The one check of R220 that such a word can fail is that of a pending format. -/
theorem DoesNothing.decodeCheck_eq {t : Task} (cl : CoreClass) (ht : t.kind ≠ .carried) :
    decodeCheck t cl op f = if stPP t.ctx.status = true then some cPREFIX_MISMATCH else none := by
  simp [decodeCheck, h.other.1, h.assigned, h.unprivileged, ht, h.anyClass, h.coded, h.noFormat, h.anySlot]

theorem DoesNothing.mustWait_eq (s : State) : mustWait s op f = false := by
  obtain ⟨-, -, hcsrr, hcsrw⟩ := h.other
  have hunit := h.noUnit
  simp [mustWait, h.noReads, h.noWrites, hcsrr, hcsrw]
  omega

theorem DoesNothing.stallShort_eq (s : State) : stallShort s op f = false := by
  unfold stallShort
  split <;> simp [h.noReads, h.noWrites]

theorem DoesNothing.readyOp {s : State} (hs : Plain s) (hk : (taskOf s).kind ≠ .carried) (hpp : stPP (ctxOf s).status = false) :
    readyOp op f s = true := by
  obtain ⟨hrun, hres⟩ := hs
  have hpp' : stPP (taskOf s).ctx.status = false := hpp
  simp [Machine.readyOp, hrun, h.decodeCheck_eq _ hk, hpp', h.ownFields, h.mustWait_eq, h.stallShort_eq, hres]

end

/-! ## What it leaves -/

/-- A step that changes nothing outside its core leaves device memory. -/
theorem memKept_of_onlyCore {s t : State} (h : OnlyCore s t) : MemKept s t := by
  have hmem : t.mem = (setCore s s.cur (getCore t s.cur)).mem := congrArg State.mem h.1
  intro a
  simp only [memByte, hmem, setCore_mem]

/-- The core may issue again after the stall count (R77). -/
theorem ready_finish_seq (s : State) (op stall : Nat) :
    (getCore (finish s op stall .seq) s.cur).ready = cycOf s s.cur + 1 + stall := by
  have hcore (s : State) (g : Core → Core) : getCore (modCore s s.cur g) s.cur = g (getCore s s.cur) := getCore_modCore_same _ _ _
  exact congrArg Core.ready (hcore (modCtx s _) _)

section
variable {op : Nat} {f : Fields} {s : State} (h : DoesNothing op f) (hs : Plain s) (hk : (taskOf s).kind ≠ .carried)
include h hs hk

theorem DoesNothing.issue_goesOn (hpp : stPP (ctxOf s).status = false) :
    ∃ t, issue op f nothing s = .next t ∧ WentOn s t (advance (ctxOf s) .seq) ∧ MemKept s t
      ∧ (getCore t s.cur).ready = cycOf s s.cur + 1 + stallOf f := by
  have hnext := issue_next (h.readyOp hs hk hpp) h.other.2.1 (seqBody_ok (g := .ok) rfl) (by simp)
  have hwent : WentOn s (finish (holdUnits s op (effFields (ctxOf s) f)) op (stallOf f) .seq) (advance (ctxOf s) .seq) := wentOn h.noFormat
  exact ⟨_, hnext, hwent, memKept_of_onlyCore hwent.1, ready_finish_seq (holdUnits s op _) op _⟩

theorem DoesNothing.issue_mismatch (hpp : stPP (ctxOf s).status = true) :
    issue op f nothing s = .next (trapAt s { code := 0x0006 }) :=
  issue_refused hs.1 ((h.decodeCheck_eq _ hk).trans (if_pos hpp))

end

theorem exec_nop (f : FmtS) (s : State) : exec (.nop f) s = issue 0x001 (.s f) nothing s := rfl

theorem exec_hint (f : FmtHint) (s : State) : exec (.hint f) s = issue (0x1F0 + f.op.toNat) (.hint f) nothing s := rfl

/-- Settles O11: nop and hint are both instructions that the tables let do nothing. -/
theorem nopAndHint : Obligations.NopAndHint := by
  unfold Obligations.NopAndHint
  refine ⟨fun f s hs hk => ?_, fun f s hs hk => ?_⟩
  · rw [exec_nop]
    exact ⟨(nop_doesNothing f).issue_goesOn hs hk, (nop_doesNothing f).issue_mismatch hs hk⟩
  · rw [exec_hint]
    exact ⟨(hint_doesNothing f).issue_goesOn hs hk, (hint_doesNothing f).issue_mismatch hs hk⟩

end Sys2Proof.Proofs.Nop
end

section
/-! PROOFS. The register and immediate forms of the scalar operations, lane by lane (R75, R76, R237 to R241). -/
open Sys2Proof Sys2Proof.Machine Sys2Proof.Say
namespace Sys2Proof.Proofs.Scalar

/-! ## Lanes of a word (R75) -/

/-- Lanes that exist fill the word. -/
theorem widthOf_mul_lanes (lw : BitVec 3) (h : 0 < 64 / widthOf lw.toNat) : widthOf lw.toNat * (64 / widthOf lw.toNat) = 64 := by
  revert lw
  decide

theorem joinLanes_lt (w : Nat) (l : List Nat) : joinLanes w l < 2 ^ (w * l.length) := by
  induction l with
  | nil => simp [joinLanes]
  | cons x l ih =>
    have hx : x % 2 ^ w < 2 ^ w := Nat.mod_lt _ (Nat.two_pow_pos w)
    calc joinLanes w (x :: l) = x % 2 ^ w + 2 ^ w * joinLanes w l := rfl
      _ < 2 ^ w * (joinLanes w l + 1) := by rw [Nat.mul_succ]; omega
      _ ≤ 2 ^ w * 2 ^ (w * l.length) := Nat.mul_le_mul_left _ ih
      _ = 2 ^ (w * (x :: l).length) := by rw [← Nat.pow_add, List.length_cons, Nat.mul_succ, Nat.add_comm]

/-- Each lane of a packed value is the one packed there. -/
theorem joinLanes_lane (w : Nat) (l : List Nat) (i : Nat) : joinLanes w l / 2 ^ (w * i) % 2 ^ w = l.getD i 0 % 2 ^ w := by
  induction l generalizing i with
  | nil => simp [joinLanes]
  | cons x l ih =>
    have hcons : joinLanes w (x :: l) = x % 2 ^ w + 2 ^ w * joinLanes w l := rfl
    cases i with
    | zero => simp [hcons]
    | succ i =>
      have hshift : (x % 2 ^ w + 2 ^ w * joinLanes w l) / 2 ^ w = joinLanes w l := by
        rw [Nat.add_mul_div_left _ _ (Nat.two_pow_pos w), Nat.div_eq_of_lt (Nat.mod_lt _ (Nat.two_pow_pos w)), Nat.zero_add]
      rw [hcons, Nat.mul_succ, Nat.add_comm (w * i), Nat.pow_add, ← Nat.div_div_eq_div_mul, hshift, ih, List.getD_cons_succ]

/-- A word packed from as many lanes as fill it has those lanes. -/
theorem lanes_joinLanes {w : Nat} (h : w * (64 / w) = 64) (g : Nat → Nat) :
    Lanes w (BitVec.ofNat 64 (joinLanes w ((List.range (64 / w)).map g))) g := by
  intro i hi
  have hlt := joinLanes_lt w ((List.range (64 / w)).map g)
  rw [List.length_map, List.length_range, h] at hlt
  rw [lane, BitVec.toNat_ofNat, Nat.mod_eq_of_lt hlt, joinLanes_lane]
  simp [hi]

theorem lane_lt (w i : Nat) (x : Word) : lane w i x < 2 ^ w := Nat.mod_lt _ (Nat.two_pow_pos w)

/-- The lanes of a word, those past its end among them, which are zero. -/
theorem splitLanes_getD {w n : Nat} (h : w * n = 64) (x : Word) (i : Nat) : (splitLanes w n x.toNat).getD i 0 = lane w i x := by
  by_cases hi : i < n
  · simp [splitLanes, lane, hi]
  · have hpast : x.toNat < 2 ^ (w * i) :=
      Nat.lt_of_lt_of_le x.isLt (Nat.pow_le_pow_right (by omega) (h ▸ Nat.mul_le_mul_left w (Nat.le_of_not_lt hi)))
    simp [splitLanes, lane, hi, Nat.div_eq_of_lt hpast]

/-- The lanes of a modified source are the lanes that AMOD names (R76). -/
theorem modLanes_getD {w n i : Nat} (h : w * n = 64) (hi : i < n) (amod : BitVec 12) (x : Word) :
    (modLanes amod (splitLanes w n x.toNat)).getD i 0 = lane w (modLane amod n i) x := by
  have hlen : (splitLanes w n x.toNat).length = n := by simp [splitLanes]
  rw [← splitLanes_getD h]
  simp [modLanes, hlen, hi]

/-- The immediate as a lane: a width of 64 has the one lane 0 (R241). -/
theorem immLane_eq {w i : Nat} (hi : i < 64 / w) (imm : BitVec 32) : immLane w imm = immOf w imm i := by
  unfold immLane immOf
  split
  · obtain rfl : i = 0 := by subst w; omega
    simp [lane, Nat.mod_eq_of_lt (imm.signExtend 64).isLt]
  · rfl

theorem immOf_lt (w : Nat) (imm : BitVec 32) (i : Nat) : immOf w imm i < 2 ^ w := by
  unfold immOf
  split
  · subst w; exact lane_lt _ _ _
  · exact Nat.mod_lt _ (Nat.two_pow_pos w)

/-! ## The rows of R238: what the model computes of a lane, and what the row says -/

section
variable {w a b : Nat}

theorem sgn_of_lane (ha : a < 2 ^ w) : sgn w a = signed w a := by
  simp only [sgn, signed, Nat.mod_eq_of_lt ha]

/-- Two lanes that read alike as two's complement are alike. -/
theorem signed_inj (ha : a < 2 ^ w) (hb : b < 2 ^ w) (h : signed w a = signed w b) : a = b := by
  unfold signed at h
  generalize 2 ^ w = m at *
  split at h <;> split at h <;> omega

/-- The difference, taken modulo the lane. -/
theorem sub_lane (hb : b < 2 ^ w) : (a + 2 ^ w - b) % 2 ^ w = low w ((a : Int) - b) % 2 ^ w := by
  have hcast : ((a + 2 ^ w - b : Nat) : Int) = (a : Int) - b + (2 ^ w : Nat) := by omega
  rw [low, ← Int.add_emod_right, ← hcast, ← Int.natCast_emod, Int.toNat_natCast, Nat.mod_mod]

/-- The high half of the signed product. -/
theorem mulh_lane (ha : a < 2 ^ w) (hb : b < 2 ^ w) :
    wrapInt w (sgn w a * sgn w b / (2 ^ w : Nat)) = low w (signed w a * signed w b / (2 ^ w : Nat)) := by
  rw [sgn_of_lane ha, sgn_of_lane hb]
  rfl

theorem sar_lane (ha : a < 2 ^ w) : wrapInt w (sgn w a / (2 ^ (b % w) : Nat)) = low w (signed w a / (2 ^ (b % w) : Nat)) := by
  rw [sgn_of_lane ha]
  rfl

theorem minu_lane : (if b < a then b else a) = min a b := by
  split <;> omega

theorem maxu_lane : (if a < b then b else a) = max a b := by
  split <;> omega

theorem div_lane (ha : a < 2 ^ w) (hb : b < 2 ^ w) : divS w a b = quot w a b := by
  simp only [divS, quot, sgn_of_lane ha, sgn_of_lane hb]
  rfl

theorem rem_lane (ha : a < 2 ^ w) (hb : b < 2 ^ w) : remS w a b = rest w a b := by
  simp only [remS, rest, sgn_of_lane ha, sgn_of_lane hb]
  rfl

/-- A lane turned left by `k`: the bits shifted up and the bits shifted in do not meet, so their sum is their union. -/
theorem rot_lane {k : Nat} (ha : a < 2 ^ w) (hk : k ≤ w) :
    (a * 2 ^ k + a / 2 ^ (w - k)) % 2 ^ w = (a * 2 ^ k % 2 ^ w ||| a / 2 ^ (w - k)) % 2 ^ w := by
  have hw : 2 ^ w = 2 ^ k * 2 ^ (w - k) := by rw [← Nat.pow_add, Nat.add_sub_cancel' hk]
  have hup : a * 2 ^ k % 2 ^ w = 2 ^ k * (a % 2 ^ (w - k)) := by rw [hw, Nat.mul_comm a, Nat.mul_mod_mul_left]
  have hin : a / 2 ^ (w - k) < 2 ^ k := Nat.div_lt_of_lt_mul (by rwa [Nat.mul_comm, ← hw])
  rw [hup, ← Nat.two_pow_add_eq_or_of_lt hin, ← hup, Nat.mod_add_mod]

theorem min_lane (ha : a < 2 ^ w) (hb : b < 2 ^ w) :
    (if sgn w b < sgn w a then b else a) = if signed w a ≤ signed w b then a else b := by
  simp only [sgn_of_lane ha, sgn_of_lane hb]
  split <;> split <;> omega

/-- Where the two read alike the row takes the one and the model the other. -/
theorem max_lane (ha : a < 2 ^ w) (hb : b < 2 ^ w) :
    (if sgn w a < sgn w b then b else a) = if signed w a ≤ signed w b then b else a := by
  simp only [sgn_of_lane ha, sgn_of_lane hb]
  split
  next hlt => rw [if_pos (Int.le_of_lt hlt)]
  next hge =>
    split
    next hle => exact signed_inj ha hb (Int.le_antisymm hle (Int.le_of_not_gt hge))
    next => rfl

/-- A condition between two lanes (R217). -/
theorem condHolds_lane (c : Nat) (ha : a < 2 ^ w) (hb : b < 2 ^ w) : condHolds c w a b = Say.cond c w a b := by
  simp only [condHolds, sgn_of_lane ha, sgn_of_lane hb]
  match c with
  | 0 => rfl
  | 1 => exact decide_not
  | 2 => rfl
  | 3 => rfl
  | 4 => rfl
  | 5 => rfl
  | 6 => rfl
  | _ + 7 => exact decide_not

end

/-! ## The two forms of a row -/

/-- The two forms of a row of R238 run `fn`, of the condition, the width and the lanes, under `op` and under its immediate opcode, and
`fn` is the row's result in every lane. -/
structure Runs (row : AluRow) (op : Nat) (fn : Nat → Nat → Nat → Nat → Nat → Nat) : Prop where
  scalar : 0x040 ≤ op ∧ op ≤ 0x056 := by decide
  view_reg : ∀ f, view (row.reg f) = some (op, .s f) := by intros; rfl
  exec_reg : ∀ f s, exec (row.reg f) s = issue op (.s f) (laneReg op f (fn f.sub.toNat)) s := by intros; rfl
  view_imm : ∀ f, view (row.imm f) = some (op + 0x040, .i f) := by intros; rfl
  exec_imm : ∀ f s, exec (row.imm f) s = issue (op + 0x040) (.i f) (laneImm (op + 0x040) f (fn (f.sub.extractLsb' 3 3).toNat)) s := by
    intros; rfl
  result : ∀ {c w x y z : Nat}, 0 < w → x < 2 ^ w → y < 2 ^ w → fn c w x y z % 2 ^ w = row.res c w x y z % 2 ^ w

/-- Results that are alike are alike in the lane. -/
theorem mod_lane {w x y : Nat} (h : x = y) : x % 2 ^ w = y % 2 ^ w := by rw [h]

theorem aluRows_run : ∀ row ∈ aluRows, ∃ op fn, Runs row op fn := by
  simp only [aluRows, List.forall_mem_cons]
  exact ⟨
    ⟨0x040, fun _ _ a b _ => a + b, { result := fun _ _ _ => rfl }⟩,
    ⟨0x041, fun _ w a b _ => a + 2 ^ w - b, { result := fun _ _ hb => sub_lane hb }⟩,
    ⟨0x042, fun _ _ a b _ => a * b, { result := fun _ _ _ => rfl }⟩,
    ⟨0x043, fun _ w a b _ => wrapInt w (sgn w a * sgn w b / (2 ^ w : Nat)), { result := fun _ ha hb => mod_lane (mulh_lane ha hb) }⟩,
    ⟨0x044, fun _ w a b _ => a * b / 2 ^ w, { result := fun _ _ _ => rfl }⟩,
    ⟨0x045, fun _ w a b _ => divS w a b, { result := fun _ ha hb => mod_lane (div_lane ha hb) }⟩,
    ⟨0x046, fun _ w a b _ => if b = 0 then 2 ^ w - 1 else a / b, { result := fun _ _ _ => rfl }⟩,
    ⟨0x047, fun _ w a b _ => remS w a b, { result := fun _ ha hb => mod_lane (rem_lane ha hb) }⟩,
    ⟨0x048, fun _ _ a b _ => if b = 0 then a else a % b, { result := fun _ _ _ => rfl }⟩,
    ⟨0x049, fun _ _ a b _ => a &&& b, { result := fun _ _ _ => rfl }⟩,
    ⟨0x04A, fun _ _ a b _ => a ||| b, { result := fun _ _ _ => rfl }⟩,
    ⟨0x04B, fun _ _ a b _ => a ^^^ b, { result := fun _ _ _ => rfl }⟩,
    ⟨0x04C, fun _ w a b _ => a &&& (2 ^ w - 1 - b), { result := fun _ _ _ => rfl }⟩,
    ⟨0x04D, fun _ w a b _ => a * 2 ^ (b % w), { result := fun _ _ _ => rfl }⟩,
    ⟨0x04E, fun _ w a b _ => a / 2 ^ (b % w), { result := fun _ _ _ => rfl }⟩,
    ⟨0x04F, fun _ w a b _ => wrapInt w (sgn w a / (2 ^ (b % w) : Nat)), { result := fun _ ha _ => mod_lane (sar_lane ha) }⟩,
    ⟨0x050, fun _ w a b _ => a * 2 ^ (b % w) + a / 2 ^ (w - b % w), { result := fun hw ha _ => rot_lane ha (Nat.le_of_lt (Nat.mod_lt _ hw)) }⟩,
    ⟨0x051, fun _ w a b _ => if sgn w b < sgn w a then b else a, { result := fun _ ha hb => mod_lane (min_lane ha hb) }⟩,
    ⟨0x052, fun _ w a b _ => if sgn w a < sgn w b then b else a, { result := fun _ ha hb => mod_lane (max_lane ha hb) }⟩,
    ⟨0x053, fun _ _ a b _ => if b < a then b else a, { result := fun _ _ _ => mod_lane minu_lane }⟩,
    ⟨0x054, fun _ _ a b _ => if a < b then b else a, { result := fun _ _ _ => mod_lane maxu_lane }⟩,
    ⟨0x055, fun c w a b _ => if condHolds c w a b then 1 else 0, { result := fun _ ha hb => mod_lane (by rw [condHolds_lane _ ha hb]) }⟩,
    ⟨0x056, fun _ _ a b c => if a ≠ 0 then b else c, { result := fun _ _ _ => mod_lane (ite_not ..) }⟩,
    List.forall_mem_nil _⟩

/-- The lanes of the register form (R237). -/
theorem laneValue_lanes (s : State) (f : FmtS) (fn : Nat → Nat → Nat → Nat → Nat) :
    Lanes (widthOf f.lw.toNat) (laneValue s f fn) fun i =>
      fn (widthOf f.lw.toNat) (lane (widthOf f.lw.toNat) (modLane f.amod (64 / widthOf f.lw.toNat) i) (readS s f.a))
        (lane (widthOf f.lw.toNat) i (readS s f.b)) (lane (widthOf f.lw.toNat) i (readS s f.c)) := by
  intro i hi
  have hw := widthOf_mul_lanes f.lw (Nat.zero_lt_of_lt hi)
  unfold widthOf at hi hw ⊢
  refine (lanes_joinLanes hw _ i hi).trans ?_
  simp only [modLanes_getD hw hi, splitLanes_getD hw]

/-- The lanes of the immediate form, whose source c is what the destination held (R241). -/
theorem laneImmValue_lanes (s : State) (f : FmtI) (fn : Nat → Nat → Nat → Nat → Nat) :
    Lanes (widthOf (f.sub.extractLsb' 0 3).toNat) (laneImmValue s f fn) fun i =>
      fn (widthOf (f.sub.extractLsb' 0 3).toNat) (lane (widthOf (f.sub.extractLsb' 0 3).toNat) i (readS s f.a))
        (immOf (widthOf (f.sub.extractLsb' 0 3).toNat) f.imm i) (lane (widthOf (f.sub.extractLsb' 0 3).toNat) i (readS s f.d)) := by
  intro i hi
  have hw := widthOf_mul_lanes (f.sub.extractLsb' 0 3) (Nat.zero_lt_of_lt hi)
  unfold widthOf at hi hw ⊢
  refine (lanes_joinLanes hw _ i hi).trans ?_
  simp only [field, splitLanes_getD hw, immLane_eq hi]

/-- An instruction that is ready and whose body writes a value of the state to a scalar register does that and goes on. -/
theorem issue_wroteScalar {op : Nat} {f : Fields} {body : State → Res State} {s : State} {d : BitVec 6} {v : Word} {lat : Nat} {ilk : Bool}
    (hready : readyOp op f s = true) (hop : op ≠ 0x007) (hf : takesFormat op = false)
    (hbody : body s = .ok (writeSLat s d v lat ilk)) :
    ∃ t, issue op f (seqBody body) s = .next t ∧ WroteScalar s t d v ∧ MemKept s t := by
  have hwrote := wroteScalar (s := s) (op := op) (st := stallOf f) (f := effFields (ctxOf s) f) (d := d) (v := v) (lat := lat) (ilk := ilk) hf
  exact ⟨_, issue_next hready hop (seqBody_ok hbody) (by simp), hwrote, Nop.memKept_of_onlyCore hwrote.1⟩

theorem takesFormat_of_lt {op : Nat} (h : op < 0x1A0) : takesFormat op = false := by
  simp [takesFormat]
  omega

section
variable {row : AluRow} {op : Nat} {fn : Nat → Nat → Nat → Nat → Nat → Nat} (h : Runs row op fn) {s : State}
include h

/-- Lanes that `fn` gives are the row's. -/
theorem Runs.lanes {w c : Nat} {v : Word} {x y z : Nat → Nat} (hv : Lanes w v fun i => fn c w (x i) (y i) (z i))
    (hx : ∀ i, x i < 2 ^ w) (hy : ∀ i, y i < 2 ^ w) : Lanes w v fun i => row.res c w (x i) (y i) (z i) := by
  intro i hi
  have hw : 0 < w := Nat.pos_of_ne_zero fun h0 => by simp [h0] at hi
  exact (hv i hi).trans (h.result hw (hx i) (hy i))

theorem Runs.reg_wrote {f : FmtS} (hready : ready (row.reg f) s = true) :
    ∃ t, exec (row.reg f) s = .next t ∧ WroteScalar s t f.d (laneValue s f (fn f.sub.toNat)) ∧ MemKept s t := by
  obtain ⟨hlo, hhi⟩ := h.scalar
  rw [ready, h.view_reg] at hready
  rw [h.exec_reg]
  exact issue_wroteScalar hready (by omega) (takesFormat_of_lt (by omega)) rfl

theorem Runs.imm_wrote {f : FmtI} (hready : ready (row.imm f) s = true) :
    ∃ t, exec (row.imm f) s = .next t ∧ WroteScalar s t f.d (laneImmValue s f (fn (f.sub.extractLsb' 3 3).toNat)) ∧ MemKept s t := by
  obtain ⟨hlo, hhi⟩ := h.scalar
  rw [ready, h.view_imm] at hready
  rw [h.exec_imm]
  exact issue_wroteScalar hready (by omega) (takesFormat_of_lt (by omega)) rfl

end

/-- Settles O9: each row's forms run one function of the lanes, which gives the row's result in every lane. -/
theorem scalarForms : Obligations.ScalarForms := by
  unfold Obligations.ScalarForms
  refine ⟨fun row hrow f s hready => ?_, fun row hrow f s hready => ?_⟩
  · obtain ⟨op, fn, hruns⟩ := aluRows_run row hrow
    obtain ⟨t, hexec, hwrote, hmem⟩ := hruns.reg_wrote hready
    exact ⟨t, _, hexec, hwrote, hmem, hruns.lanes (laneValue_lanes s f _) (fun _ => lane_lt _ _ _) fun _ => lane_lt _ _ _⟩
  · obtain ⟨op, fn, hruns⟩ := aluRows_run row hrow
    obtain ⟨t, hexec, hwrote, hmem⟩ := hruns.imm_wrote hready
    exact ⟨t, _, hexec, hwrote, hmem, hruns.lanes (laneImmValue_lanes s f _) (fun _ => lane_lt _ _ _) fun _ => immOf_lt _ _ _⟩

end Sys2Proof.Proofs.Scalar
end
